-- ==== Sys2Proof/Word.lean ====
section
/-! DEFINITION. Word types of the G9, the plainest bit-field arithmetic on them, and the small record types that the
event constructors of `Instr` carry. Multi-byte values are little-endian (R82). -/

namespace Sys2Proof

/-- One byte of any memory. -/
abbrev Byte := BitVec 8
/-- A scalar register value, an effective address, an engine address (R70). -/
abbrev Word := BitVec 64
/-- A vector register or bobbin vector: 768 bytes, byte 0 least significant (R96). -/
abbrev VWord := BitVec 6144
/-- A lane predicate: one bit for each of the 192 lanes (R70). -/
abbrev Pred := BitVec 192
/-- A byte mask over a vector register: one bit for each of the 768 bytes. -/
abbrev ByteMask := BitVec 768

/-- Scalar register number (R83). -/
abbrev SReg := BitVec 5
/-- Condition flag number (R83). -/
abbrev KReg := BitVec 3
/-- Lane predicate number (R83). -/
abbrev PReg := BitVec 4
/-- Vector operand code: 0 to 119 window registers, 120 to 127 bobbins (R72). -/
abbrev VCode := BitVec 7

abbrev RegionId := Fin 16
abbrev SourceId := Fin 16
abbrev ClusterId := Fin 48
abbrev CoreId := Fin 384
abbrev CtxId := Fin 8
abbrev EngineId := Fin 2

/-- The n bits of w from bit lo up. -/
def fld (w lo n : Nat) : Nat := w / 2 ^ lo % 2 ^ n

/-- The same field as a bit vector. -/
def fldV (w lo n : Nat) : BitVec n := BitVec.ofNat n (w / 2 ^ lo)

/-- One bit of w. -/
def fldB (w lo : Nat) : Bool := w / 2 ^ lo % 2 == 1

/-- Bit as a number. -/
def bnat (b : Bool) : Nat := if b then 1 else 0

/-- A fragment of a coded message as it travels (R339, R340): the header's fields, its body, and its routing. -/
structure Fragment where
  seq   : BitVec 16
  group : BitVec 12
  smem  : BitVec 7
  index : BitVec 5
  kc    : BitVec 3
  m     : BitVec 3
  len   : BitVec 13
  close : BitVec 25
  dig   : Bool
  crc   : BitVec 32
  /-- the reserved bits [10:0] of the header -/
  rsv   : BitVec 11
  body  : List Byte
  /-- the core a fragment of fsend is for; none for mcast and digest -/
  dest  : Option (Fin 384)
  /-- of one from another package that has come to this one, the port at which its last link ends; of one for another package, the port by
  which it leaves this one (R343) -/
  port  : Option (Fin 16)
deriving DecidableEq, Repr

/-- What a handler does to a frozen context (R384). -/
inductive FreezeAct where
  | thaw (skip : Bool)
  | rewind
  | kill (esc : Bool)
deriving DecidableEq, Repr

/-- What the recovery loop reports with a source tick: the spec gives its limits (R63, R64) and not its dynamics, so
the tick carries the loop's outcome: the source's rate in 2^-16 Hz, and the phase error in 1/1024 of a sample. -/
structure LoopObs where
  freq  : BitVec 48
  phase : Nat
deriving DecidableEq, Repr, Inhabited

/-- What a media PDU brings beside its payload (R42): its sample sequence number and its presentation time in femtoseconds; how many
cycles of the pairs' clock that time lies ahead, and what the recovery loop finds at it. -/
structure PduInfo where
  seq  : BitVec 32
  time : Nat
  wait : Nat
  obs  : LoopObs
deriving DecidableEq, Repr, Inhabited

/-- A path of the fabric (R342): a fabric port, or a lane group of a die boundary. -/
inductive PathId where
  | port (p : Fin 16)
  | lane (boundary : Fin 4) (group : Fin 8)
deriving DecidableEq, Repr

/-- A firmware image as the boot ROM and the loader judge it (R423): its class and version, the key and signature
bytes, and its body with the digest its header states. -/
structure Image where
  cls     : Fin 2
  version : BitVec 32
  key     : List Byte
  sig     : List Byte
  digest  : BitVec 384
  body    : List Byte
deriving DecidableEq, Repr

end Sys2Proof
end

