-- ==== Sys2Proof/Syntax.lean ====
section
/-! DEFINITION. The steps of the part, one constructor per row of spec/opcode_table.json: 214 slot instructions with the
fields of R83, 14 micro-operations of R220, and the 103 events of spec/95 that no slot word encodes. -/

namespace Sys2Proof

/-- The steps of the G9 (R91, R220, spec/95). A slot's E bit is not part of it: it belongs to the bundle (R82). -/
inductive Instr where
  -- class 0: scalar arithmetic, RRR and RK (R123 to R127)
  | add (x : Bool) (d : BitVec 5) (a : BitVec 5) (b : BitVec 5)
  | sub (x : Bool) (d : BitVec 5) (a : BitVec 5) (b : BitVec 5)
  | and (x : Bool) (d : BitVec 5) (a : BitVec 5) (b : BitVec 5)
  | or (x : Bool) (d : BitVec 5) (a : BitVec 5) (b : BitVec 5)
  | xor (x : Bool) (d : BitVec 5) (a : BitVec 5) (b : BitVec 5)
  | andn (x : Bool) (d : BitVec 5) (a : BitVec 5) (b : BitVec 5)
  | shl (x : Bool) (d : BitVec 5) (a : BitVec 5) (b : BitVec 5)
  | shr (x : Bool) (d : BitVec 5) (a : BitVec 5) (b : BitVec 5)
  | sar (x : Bool) (d : BitVec 5) (a : BitVec 5) (b : BitVec 5)
  | rotl (x : Bool) (d : BitVec 5) (a : BitVec 5) (b : BitVec 5)
  | min (x : Bool) (d : BitVec 5) (a : BitVec 5) (b : BitVec 5)
  | max (x : Bool) (d : BitVec 5) (a : BitVec 5) (b : BitVec 5)
  | minn (x : Bool) (d : BitVec 5) (a : BitVec 5) (b : BitVec 5)
  | maxn (x : Bool) (d : BitVec 5) (a : BitVec 5) (b : BitVec 5)
  | mul (x : Bool) (d : BitVec 5) (a : BitVec 5) (b : BitVec 5)
  | mulh (x : Bool) (d : BitVec 5) (a : BitVec 5) (b : BitVec 5)
  | mulhn (x : Bool) (d : BitVec 5) (a : BitVec 5) (b : BitVec 5)
  | div (x : Bool) (d : BitVec 5) (a : BitVec 5) (b : BitVec 5)
  | divn (x : Bool) (d : BitVec 5) (a : BitVec 5) (b : BitVec 5)
  | rem (x : Bool) (d : BitVec 5) (a : BitVec 5) (b : BitVec 5)
  | remn (x : Bool) (d : BitVec 5) (a : BitVec 5) (b : BitVec 5)
  | clz (x : Bool) (d : BitVec 5) (a : BitVec 5)
  | ctz (x : Bool) (d : BitVec 5) (a : BitVec 5)
  | popc (x : Bool) (d : BitVec 5) (a : BitVec 5)
  | sext (x : Bool) (d : BitVec 5) (a : BitVec 5) (b : BitVec 5)
  | zext (x : Bool) (d : BitVec 5) (a : BitVec 5) (b : BitVec 5)
  | mov (x : Bool) (d : BitVec 5) (a : BitVec 5)
  | csel (x : Bool) (d : BitVec 5) (a : BitVec 5) (b : BitVec 5)
  | kcmp (c : BitVec 3) (k : BitVec 3) (a : BitVec 5) (b : BitVec 5)
  | kcmpImm (c : BitVec 3) (k : BitVec 3) (a : BitVec 5) (i : BitVec 7)
  | klog (o : BitVec 3) (k : BitVec 3) (a : BitVec 3) (b : BitVec 3)
  -- class 1: immediates, RI (R128, R129)
  | addi (x : Bool) (d : BitVec 5) (i : BitVec 14)
  | andi (x : Bool) (d : BitVec 5) (i : BitVec 14)
  | ori (x : Bool) (d : BitVec 5) (i : BitVec 14)
  | xori (x : Bool) (d : BitVec 5) (i : BitVec 14)
  | shli (x : Bool) (d : BitVec 5) (i : BitVec 14)
  | shri (x : Bool) (d : BitVec 5) (i : BitVec 14)
  | sari (x : Bool) (d : BitVec 5) (i : BitVec 14)
  | movi (x : Bool) (d : BitVec 5) (i : BitVec 14)
  | movhi (d : BitVec 5) (i : BitVec 14)
  | muli (x : Bool) (d : BitVec 5) (i : BitVec 14)
  | addpc (d : BitVec 5) (i : BitVec 14)
  -- class 13: the long-immediate prefix (R85)
  | ext (p : BitVec 27)
  -- class 2: branches, loops, pacing, runs (R137 to R152)
  | br (o : BitVec 22)
  | bk (p : Bool) (k : BitVec 3) (o : BitVec 18)
  | call (o : BitVec 22)
  | jr (a : BitVec 5)
  | callr (a : BitVec 5)
  | ret
  | loopb (o : BitVec 22)
  | loopc (o : BitVec 22)
  | loopset (d : BitVec 5) (i : BitVec 14)
  | notch
  | hemsync
  | smpl
  | yield
  | retire
  | setfmt (a : BitVec 5)
  | nop
  | trapi (i : BitVec 14)
  | brkpt
  | sstep
  | fence (i : BitVec 14)
  -- class 3: scalar memory and the tag table, M (R130 to R136)
  | ldb (x : Bool) (d : BitVec 5) (b : BitVec 5) (o : BitVec 7)
  | ldbn (x : Bool) (d : BitVec 5) (b : BitVec 5) (o : BitVec 7)
  | ldh (x : Bool) (d : BitVec 5) (b : BitVec 5) (o : BitVec 7)
  | ldhn (x : Bool) (d : BitVec 5) (b : BitVec 5) (o : BitVec 7)
  | ldw (x : Bool) (d : BitVec 5) (b : BitVec 5) (o : BitVec 7)
  | ldwn (x : Bool) (d : BitVec 5) (b : BitVec 5) (o : BitVec 7)
  | ldd (x : Bool) (d : BitVec 5) (b : BitVec 5) (o : BitVec 7)
  | stb (x : Bool) (d : BitVec 5) (b : BitVec 5) (o : BitVec 7)
  | sth (x : Bool) (d : BitVec 5) (b : BitVec 5) (o : BitVec 7)
  | stw (x : Bool) (d : BitVec 5) (b : BitVec 5) (o : BitVec 7)
  | std (x : Bool) (d : BitVec 5) (b : BitVec 5) (o : BitVec 7)
  | amoadd (d : BitVec 5) (b : BitVec 5) (o : BitVec 7)
  | amoswap (d : BitVec 5) (b : BitVec 5) (o : BitVec 7)
  | amocas (d : BitVec 4) (b : BitVec 5) (o : BitVec 7)
  | amomin (d : BitVec 5) (b : BitVec 5) (o : BitVec 7)
  | amomax (d : BitVec 5) (b : BitVec 5) (o : BitVec 7)
  | amominn (d : BitVec 5) (b : BitVec 5) (o : BitVec 7)
  | amomaxn (d : BitVec 5) (b : BitVec 5) (o : BitVec 7)
  | amoand (d : BitVec 5) (b : BitVec 5) (o : BitVec 7)
  | amoor (d : BitVec 5) (b : BitVec 5) (o : BitVec 7)
  | amoxor (d : BitVec 5) (b : BitVec 5) (o : BitVec 7)
  | lookup (d : BitVec 5) (b : BitVec 5) (o : BitVec 7)
  | tagset (d : BitVec 5) (b : BitVec 5) (o : BitVec 7)
  | tagclr (b : BitVec 5) (o : BitVec 7)
  | lea (d : BitVec 5) (b : BitVec 5) (o : BitVec 7)
  -- class 4: lane arithmetic (R166 to R172)
  | vadd (m : Bool) (d : BitVec 7) (a : BitVec 7) (b : BitVec 7)
  | vsub (m : Bool) (d : BitVec 7) (a : BitVec 7) (b : BitVec 7)
  | vmul (m : Bool) (d : BitVec 7) (a : BitVec 7) (b : BitVec 7)
  | vfma (m : Bool) (d : BitVec 7) (a : BitVec 7) (b : BitVec 7)
  | vfms (m : Bool) (d : BitVec 7) (a : BitVec 7) (b : BitVec 7)
  | vmin (m : Bool) (d : BitVec 7) (a : BitVec 7) (b : BitVec 7)
  | vmax (m : Bool) (d : BitVec 7) (a : BitVec 7) (b : BitVec 7)
  | vabs (m : Bool) (d : BitVec 7) (a : BitVec 7)
  | vneg (m : Bool) (d : BitVec 7) (a : BitVec 7)
  | vand (m : Bool) (d : BitVec 7) (a : BitVec 7) (b : BitVec 7)
  | vor (m : Bool) (d : BitVec 7) (a : BitVec 7) (b : BitVec 7)
  | vxor (m : Bool) (d : BitVec 7) (a : BitVec 7) (b : BitVec 7)
  | vshl (m : Bool) (d : BitVec 7) (a : BitVec 7) (b : BitVec 7)
  | vshr (m : Bool) (d : BitVec 7) (a : BitVec 7) (b : BitVec 7)
  | vsar (m : Bool) (d : BitVec 7) (a : BitVec 7) (b : BitVec 7)
  | vsel (m : Bool) (d : BitVec 7) (a : BitVec 7) (b : BitVec 7)
  | vmov (m : Bool) (d : BitVec 7) (a : BitVec 7)
  | vbc (m : Bool) (d : BitVec 7) (a : BitVec 5)
  | vaddi (m : Bool) (d : BitVec 7) (a : BitVec 7) (i : BitVec 7)
  | vmuli (m : Bool) (d : BitVec 7) (a : BitVec 7) (i : BitVec 7)
  | vrecip (m : Bool) (d : BitVec 7) (a : BitVec 7)
  | vrsqrt (m : Bool) (d : BitVec 7) (a : BitVec 7)
  | vexp2 (m : Bool) (d : BitVec 7) (a : BitVec 7)
  | vlog2 (m : Bool) (d : BitVec 7) (a : BitVec 7)
  | vclamp (m : Bool) (d : BitVec 7) (a : BitVec 7) (b : BitVec 7)
  | vround (m : Bool) (d : BitVec 7) (a : BitVec 7)
  | vcmp (c : BitVec 3) (p : BitVec 4) (a : BitVec 7) (b : BitVec 7)
  | vmulh (m : Bool) (d : BitVec 7) (a : BitVec 7) (b : BitVec 7)
  | vsatadd (m : Bool) (d : BitVec 7) (a : BitVec 7) (b : BitVec 7)
  | vsatsub (m : Bool) (d : BitVec 7) (a : BitVec 7) (b : BitVec 7)
  | vaddw (m : Bool) (d : BitVec 7) (a : BitVec 7) (b : BitVec 7)
  | vmacw (m : Bool) (d : BitVec 7) (a : BitVec 7) (b : BitVec 7)
  -- class 5: conversion, quantisation, cross-lane (R173 to R184)
  | vcvt (m : Bool) (d : BitVec 7) (a : BitVec 7) (p : BitVec 2)
  | vq8 (m : Bool) (d : BitVec 7) (a : BitVec 7) (p : BitVec 2)
  | vdq8 (m : Bool) (d : BitVec 7) (a : BitVec 7) (p : BitVec 2)
  | vredsum (m : Bool) (d : BitVec 7) (a : BitVec 7) (b : BitVec 7)
  | vredmax (m : Bool) (d : BitVec 7) (a : BitVec 7) (b : BitVec 7)
  | vredmin (m : Bool) (d : BitVec 7) (a : BitVec 7) (b : BitVec 7)
  | vscan (m : Bool) (d : BitVec 7) (a : BitVec 7) (b : BitVec 7)
  | vperm (m : Bool) (d : BitVec 7) (a : BitVec 7) (b : BitVec 7)
  | vrot (m : Bool) (d : BitVec 7) (a : BitVec 7) (b : BitVec 5)
  | vshuf (m : Bool) (d : BitVec 7) (a : BitVec 7) (b : BitVec 7)
  | vpackh (m : Bool) (d : BitVec 7) (a : BitVec 7) (b : BitVec 7)
  | vunpk (m : Bool) (d : BitVec 7) (a : BitVec 7) (p : BitVec 2)
  | vrand (m : Bool) (d : BitVec 7) (a : BitVec 5) (b : BitVec 7)
  | vext (m : Bool) (d : BitVec 5) (a : BitVec 7) (b : BitVec 5)
  | vins (m : Bool) (d : BitVec 7) (a : BitVec 5) (b : BitVec 5)
  | vbsum (m : Bool) (d : BitVec 7) (a : BitVec 7)
  | vbmax (m : Bool) (d : BitVec 7) (a : BitVec 7)
  -- class 6: vector memory and bobbins (R185 to R201)
  | vld (x : Bool) (d : BitVec 7) (b : BitVec 5) (o : BitVec 7)
  | vst (x : Bool) (d : BitVec 7) (b : BitVec 5) (o : BitVec 7)
  | vstm (x : Bool) (d : BitVec 7) (b : BitVec 5) (o : BitVec 7)
  | vldx (m : Bool) (d : BitVec 7) (a : BitVec 5) (b : BitVec 7)
  | vstx (m : Bool) (d : BitVec 7) (a : BitVec 5) (b : BitVec 7)
  | vstxa (m : Bool) (d : BitVec 7) (a : BitVec 5) (b : BitVec 7)
  | bset (n : BitVec 3) (i : BitVec 14)
  | bseek (m : Bool) (n : BitVec 3) (b : BitVec 5)
  | bpos (m : Bool) (d : BitVec 5) (n : BitVec 3)
  | bstat (m : Bool) (d : BitVec 5) (n : BitVec 3)
  | bstatGather (m : Bool) (d : BitVec 5)
  | bflush (m : Bool) (n : BitVec 3)
  | bdone (m : Bool) (n : BitVec 3)
  -- class 7: predicates (R203, R204)
  | pand (d : BitVec 4) (a : BitVec 4) (b : BitVec 4)
  | por (d : BitVec 4) (a : BitVec 4) (b : BitVec 4)
  | pxor (d : BitVec 4) (a : BitVec 4) (b : BitVec 4)
  | pandn (d : BitVec 4) (a : BitVec 4) (b : BitVec 4)
  | pnot (d : BitVec 4) (a : BitVec 4)
  | pmov (d : BitVec 4) (a : BitVec 4)
  | pset (d : BitVec 4) (a : BitVec 5)
  | pcnt (d : BitVec 5) (a : BitVec 4)
  | pfirst (d : BitVec 5) (a : BitVec 4)
  | ppack (d : BitVec 7) (a : Bool)
  | punpk (d : Bool) (a : BitVec 7)
  | ptest (d : BitVec 3) (a : BitVec 4) (m : BitVec 2)
  | pmask (d : BitVec 4) (a : BitVec 5)
  -- class 8: matrix slots (R211 to R234)
  | mcall (i : BitVec 10)
  | mtsh (t : BitVec 4) (a : BitVec 5)
  | mfsh (d : BitVec 5) (t : BitVec 4)
  | mpar (m : BitVec 3) (a : BitVec 5)
  | mfpar (d : BitVec 5) (m : BitVec 3)
  | mldv (x : Bool) (t : BitVec 4) (a : BitVec 7) (b : BitVec 5)
  | mstv (x : Bool) (d : BitVec 7) (t : BitVec 4) (b : BitVec 5)
  | mzero (t : BitVec 4)
  | mstat (d : BitVec 5) (s : BitVec 5)
  | mresume
  -- micro-operations of the matrix unit (R218 to R228)
  | mnop (n : BitVec 16)
  | mmac (ta tb tc : BitVec 4) (mode : BitVec 2) (wn : BitVec 4) (imm : BitVec 40)
  | mmacs (ta tb tc : BitVec 4) (mode : BitVec 2) (wn : BitVec 4) (imm : BitVec 40)
  | mmacq (ta tb tc : BitVec 4) (mode : BitVec 2) (wn : BitVec 4) (imm : BitVec 40)
  | microMzero (tc : BitVec 4)
  | microMldv (tc : BitVec 4) (mode : BitVec 2) (wn : BitVec 4) (imm : BitVec 40)
  | microMstv (ta : BitVec 4) (mode : BitVec 2) (wn : BitVec 4) (imm : BitVec 40)
  | mtrn (ta tc : BitVec 4)
  | maddt (ta tb tc : BitVec 4)
  | mloop (wn : BitVec 4) (target : BitVec 13)
  | mbr (wn : BitVec 4) (cond : BitVec 2) (target : BitVec 13)
  | mpset (wn : BitVec 4) (op : BitVec 3) (value : BitVec 32)
  | mstep
  | mend
  -- class 9: copies (R245 to R263)
  | cpy (i : BitVec 14)
  | cpyset (d : BitVec 5) (i : BitVec 14)
  | cpyd (d : BitVec 5) (a : BitVec 5) (b : BitVec 5)
  | gath (d : BitVec 5) (a : BitVec 5) (b : BitVec 5)
  | scat (d : BitVec 5) (a : BitVec 5) (b : BitVec 5)
  | drain (i : BitVec 14)
  | ckarm (a : BitVec 5) (b : BitVec 5)
  | stage (d : BitVec 5) (a : BitVec 5) (b : BitVec 5)
  | bmchk (c : Bool) (k : BitVec 3) (a : BitVec 5)
  | bmset (a : BitVec 5)
  -- class 10: network and fabric (R269 to R277)
  | send (c : BitVec 3) (a : BitVec 7) (b : BitVec 5)
  | recv (d : BitVec 7) (c : BitVec 3)
  | fsend (a : BitVec 5) (b : BitVec 5)
  | expect (d : BitVec 5) (i : BitVec 14)
  | frecv (d : BitVec 5) (a : BitVec 5) (b : BitVec 5)
  | gbind (a : BitVec 5) (b : BitVec 5)
  | gfree (a : BitVec 5)
  | red (m : Bool) (d : BitVec 7) (a : BitVec 7) (b : BitVec 7)
  | mcast (a : BitVec 5) (b : BitVec 5)
  | digest (d : BitVec 5) (a : BitVec 5) (b : BitVec 5)
  | nstat (d : BitVec 5) (s : BitVec 5)
  -- class 11: control registers and system (R153 to R160, R278, R279)
  | mfc (d : BitVec 5) (i : BitVec 14)
  | mtc (d : BitVec 5) (i : BitVec 14)
  | rfe
  | thaw (a : BitVec 5)
  | rewind (a : BitVec 5)
  | swap (d : BitVec 5) (i : BitVec 14)
  | taskpost (k : BitVec 3) (a : BitVec 5)
  | taskdone (a : BitVec 5)
  | twin (d : BitVec 5) (i : BitVec 14)
  | bank (d : BitVec 5) (i : BitVec 14)
  | halt
  -- class 12: spill, fill, stack (R265 to R268)
  | spillv (d : BitVec 7) (b : BitVec 5) (o : BitVec 7)
  | fillv (d : BitVec 7) (b : BitVec 5) (o : BitVec 7)
  | spills (d : BitVec 5) (b : BitVec 5) (o : BitVec 7)
  | fills (d : BitVec 5) (b : BitVec 5) (o : BitVec 7)
  | spillp (d : BitVec 4) (b : BitVec 5) (o : BitVec 7)
  | fillp (d : BitVec 4) (b : BitVec 5) (o : BitVec 7)
  | tokchk (c : BitVec 2) (k : BitVec 3) (a : BitVec 7)
  | salloc (d : BitVec 5) (i : BitVec 14)
  | sfree (d : BitVec 5) (i : BitVec 14)
  -- events: freezes, runs and sources
  | freezeRecordsComplete (r : RegionId)
  | eventTake (k : ClusterId)
  | freezeActionEffect (n : CoreId) (x : CtxId) (act : FreezeAct)
  | slipDebtSkip (r : RegionId)
  | runBudgetExpiry (n : CoreId) (x : CtxId)
  | sourceTick (u : SourceId) (t : Nat) (obs : LoopObs)
  | samplePayloadArrival (u : SourceId) (n : Nat) (data : VWord) (gap : Bool)
  | mediaPduIngress (port : Bool) (streamId : BitVec 64) (vsf : Bool) (seq : PduInfo) (gap : Bool) (len : BitVec 16) (data : VWord)
  | hostRecordTick (u : SourceId) (obs : LoopObs)
  | ptmRequest
  | ptmTimeout (u : SourceId)
  | regionTick (r : RegionId)
  | acquireComplete (r : RegionId)
  | tickLoss (r : RegionId)
  | holdtExpiry (r : RegionId)
  | relock (r : RegionId)
  | hem (r : RegionId)
  -- events: the dispatcher, engines and fabric
  | patternRestart (r : RegionId) (tick : Nat)
  | admission (n : CoreId)
  | preloadComplete (n : CoreId) (x : CtxId)
  | taskAging (k : ClusterId)
  | completionBitTest (k : ClusterId) (entry : Fin 256)
  | ringReturn (k : ClusterId)
  | dupCompare (k : ClusterId) (pair : Nat)
  | twinCompare (k : ClusterId) (j : Fin 4)
  | copyComplete (n : CoreId) (e : EngineId)
  | stageComplete (k : ClusterId)
  | bmsetBitSet (n : CoreId) (e : EngineId)
  | sendArrival (n : CoreId) (ch : Fin 8) (src : CoreId) (data : VWord)
  | bankWakeComplete (k : ClusterId) (bank : Fin 8)
  | fragmentArrival (k : ClusterId) (f : Fragment)
  | messageClose (k : ClusterId)
  | groupDrainEnd (k : ClusterId) (group : BitVec 12)
  | fragmentExpiry (p : PathId)
  | pathDown (p : PathId)
  | laneRetrainComplete (p : PathId)
  -- events: host commands (R409)
  | doorbell (tail : Word)
  | submit (job : Byte) (w1 w2 w3 w4 w5 w6 w7 : Word)
  | cards (w1 w2 w3 : Word)
  | ttypes (w1 w2 w3 : Word)
  | region (w1 w2 w3 w4 w5 w6 : Word)
  | regionStart (r : RegionId)
  | regionStop (r : RegionId)
  | wheel (w1 w2 : Word)
  | range (w1 w2 w3 : Word)
  | crate (w1 w2 : Word)
  | preempt (job : Byte)
  | resume (job : Byte)
  | kill (job : Byte)
  | sanitise
  | sanitiseComplete
  | jobEnd (job : Byte)
  -- events: register writes with a behaviour of their own
  | killWrite (k : ClusterId) (v : Word)
  | dhold (k : ClusterId) (entry : Byte)
  | dholdKill (k : ClusterId) (entry : Byte)
  | dholdKillJob (k : ClusterId) (entry : Byte)
  | dretry (k : ClusterId)
  | dringConfigWrite (k : ClusterId) (cfg : Bool) (v : Word)
  | savebWrite (k : ClusterId) (v : Word)
  | gcfgWrite (g : Fin 64) (v : Word)
  | gstepWrite (g : Fin 64) (v : Word)
  | crcfgWrite (u : SourceId) (v : Word)
  | holdtWrite (r : RegionId) (v : Word)
  | rsync (r : RegionId)
  | tagTableClear (k : ClusterId)
  | clrpend (k : ClusterId) (cls : Fin 8)
  | clrlate (k : ClusterId)
  | clrloss (k : ClusterId)
  | clrdig (k : ClusterId)
  | clrnov (k : ClusterId)
  | clrcrc (k : ClusterId)
  | counterClear (k : ClusterId) (num : BitVec 14)
  | spare (k : ClusterId) (v : Word)
  | lgrt (v : Word)
  | ppr (v : Word)
  | pprCopyComplete (ctrl : Fin 16)
  | ldgo
  | loadListComplete
  -- events: host link, reset, sideband, power
  | cringConfigWrite (size : Bool) (v : Word)
  | bar2winWrite (v : Word)
  | hstailWrite (s : Fin 16) (v : Word)
  | registerWrite (k : ClusterId) (num : BitVec 14) (v : Word)
  | bar2Read (off len : Nat)
  | bar2Write (off : Nat) (data : List Byte) (poisoned : Bool)
  | flr
  | coldPowerUp (failing : List (Fin 16 × Nat))
  | surpriseLinkLoss
  | telemetry
  | freezeDump (k : ClusterId)
  | warmReset
  | coldReset
  | counterAdvance (cls : Fin 2) (version : BitVec 32) (key sig : List Byte)
  | getMeasurements (nonce : List Byte)
  | thermalWarning
  | thermalTrip
  | powerTrip
  | hbmScrub (ctrl : Fin 16) (block : Nat) (badSymbols : Nat)
  | controlTwinMismatch (k : ClusterId)
  | ptmResponse (t : Word)
  | pldmFirmwareUpdate (slot : Fin 2) (img : Image)
  | segmentExpansionComplete (n : CoreId) (x : CtxId)
  | hbmRefresh (ctrl : Fin 16)
  | phyRecalibration (p : PathId)
deriving DecidableEq, Repr

end Sys2Proof
end

