-- ==== Sys2Proof/WellFormed.lean ====
section
/-! DEFINITION. Which instructions are well formed: the operand values that R76, R83, R84, R130, R203, R218 and R267
refuse as encodings. Field widths are those of the types. -/

namespace Sys2Proof

/-- The operand X of a micro-operation (R218, R219, R220): MODE 3 is reserved; a field that the mode does not use is zero;
under MODE 0 the bits of X from `top` up are zero. -/
abbrev microX (mode : BitVec 2) (wn : BitVec 4) (imm : BitVec 40) (top : Nat) : Prop :=
  mode ≠ 3 ∧ (mode = 0 → wn = 0 ∧ imm.toNat < 2 ^ top) ∧ (mode = 1 → imm = 0)

/-- The instruction is one the encoding admits. -/
def Instr.wf (i : Instr) : Bool :=
  match i with
  | .add _ _ _ _ => true
  | .sub _ _ _ _ => true
  | .and _ _ _ _ => true
  | .or _ _ _ _ => true
  | .xor _ _ _ _ => true
  | .andn _ _ _ _ => true
  | .shl _ _ _ _ => true
  | .shr _ _ _ _ => true
  | .sar _ _ _ _ => true
  | .rotl _ _ _ _ => true
  | .min _ _ _ _ => true
  | .max _ _ _ _ => true
  | .minn _ _ _ _ => true
  | .maxn _ _ _ _ => true
  | .mul _ _ _ _ => true
  | .mulh _ _ _ _ => true
  | .mulhn _ _ _ _ => true
  | .div _ _ _ _ => true
  | .divn _ _ _ _ => true
  | .rem _ _ _ _ => true
  | .remn _ _ _ _ => true
  | .clz _ _ _ => true
  | .ctz _ _ _ => true
  | .popc _ _ _ => true
  | .sext _ _ _ _ => true
  | .zext _ _ _ _ => true
  | .mov _ _ _ => true
  | .csel _ _ _ _ => true
  | .kcmp c _ _ _ => decide (c ≠ 7)
  | .kcmpImm c _ _ _ => decide (c ≠ 7)
  | .klog o _ _ _ => decide (o ≠ 7)
  | .addi _ _ _ => true
  | .andi _ _ _ => true
  | .ori _ _ _ => true
  | .xori _ _ _ => true
  | .shli _ _ _ => true
  | .shri _ _ _ => true
  | .sari _ _ _ => true
  | .movi _ _ _ => true
  | .movhi _ _ => true
  | .muli _ _ _ => true
  | .addpc _ _ => true
  | .ext _ => true
  | .br _ => true
  | .bk _ _ _ => true
  | .call _ => true
  | .jr _ => true
  | .callr _ => true
  | .ret => true
  | .loopb _ => true
  | .loopc _ => true
  | .loopset _ _ => true
  | .notch => true
  | .hemsync => true
  | .smpl => true
  | .yield => true
  | .retire => true
  | .setfmt _ => true
  | .nop => true
  | .trapi _ => true
  | .brkpt => true
  | .sstep => true
  | .fence _ => true
  | .ldb x d b _ => decide (¬ (x = true ∧ d = b ∧ d ≠ 0))
  | .ldbn x d b _ => decide (¬ (x = true ∧ d = b ∧ d ≠ 0))
  | .ldh x d b _ => decide (¬ (x = true ∧ d = b ∧ d ≠ 0))
  | .ldhn x d b _ => decide (¬ (x = true ∧ d = b ∧ d ≠ 0))
  | .ldw x d b _ => decide (¬ (x = true ∧ d = b ∧ d ≠ 0))
  | .ldwn x d b _ => decide (¬ (x = true ∧ d = b ∧ d ≠ 0))
  | .ldd x d b _ => decide (¬ (x = true ∧ d = b ∧ d ≠ 0))
  | .stb _ _ _ _ => true
  | .sth _ _ _ _ => true
  | .stw _ _ _ _ => true
  | .std _ _ _ _ => true
  | .amoadd _ _ _ => true
  | .amoswap _ _ _ => true
  | .amocas _ _ _ => true
  | .amomin _ _ _ => true
  | .amomax _ _ _ => true
  | .amominn _ _ _ => true
  | .amomaxn _ _ _ => true
  | .amoand _ _ _ => true
  | .amoor _ _ _ => true
  | .amoxor _ _ _ => true
  | .lookup _ _ _ => true
  | .tagset _ _ _ => true
  | .tagclr _ _ => true
  | .lea _ _ _ => true
  | .vadd _ _ _ _ => true
  | .vsub _ _ _ _ => true
  | .vmul _ _ _ _ => true
  | .vfma _ _ _ _ => true
  | .vfms _ _ _ _ => true
  | .vmin _ _ _ _ => true
  | .vmax _ _ _ _ => true
  | .vabs _ _ _ => true
  | .vneg _ _ _ => true
  | .vand _ _ _ _ => true
  | .vor _ _ _ _ => true
  | .vxor _ _ _ _ => true
  | .vshl _ _ _ _ => true
  | .vshr _ _ _ _ => true
  | .vsar _ _ _ _ => true
  | .vsel _ _ _ _ => true
  | .vmov _ _ _ => true
  | .vbc _ _ _ => true
  | .vaddi _ _ _ _ => true
  | .vmuli _ _ _ _ => true
  | .vrecip _ _ _ => true
  | .vrsqrt _ _ _ => true
  | .vexp2 _ _ _ => true
  | .vlog2 _ _ _ => true
  | .vclamp _ _ _ _ => true
  | .vround _ _ _ => true
  | .vcmp c _ _ _ => decide (c ≠ 7)
  | .vmulh _ _ _ _ => true
  | .vsatadd _ _ _ _ => true
  | .vsatsub _ _ _ _ => true
  | .vaddw _ _ _ _ => true
  | .vmacw _ _ _ _ => true
  | .vcvt _ _ _ _ => true
  | .vq8 _ d _ _ => decide (d.toNat < 120)
  | .vdq8 _ _ a _ => decide (a.toNat < 120)
  | .vredsum _ _ _ _ => true
  | .vredmax _ _ _ _ => true
  | .vredmin _ _ _ _ => true
  | .vscan _ _ _ _ => true
  | .vperm _ _ _ _ => true
  | .vrot _ _ _ _ => true
  | .vshuf _ _ _ _ => true
  | .vpackh _ _ _ _ => true
  | .vunpk _ _ _ _ => true
  | .vrand _ _ _ _ => true
  | .vext _ _ _ _ => true
  | .vins _ _ _ _ => true
  | .vbsum _ _ _ => true
  | .vbmax _ _ _ => true
  | .vld _ d _ _ => decide (d.toNat < 120)
  | .vst _ d _ _ => decide (d.toNat < 120)
  | .vstm _ d _ _ => decide (d.toNat < 120)
  | .vldx _ _ _ _ => true
  | .vstx _ _ _ _ => true
  | .vstxa _ _ _ _ => true
  | .bset _ _ => true
  | .bseek _ _ _ => true
  | .bpos _ _ _ => true
  | .bstat _ _ _ => true
  | .bstatGather _ _ => true
  | .bflush _ _ => true
  | .bdone _ _ => true
  | .pand _ _ _ => true
  | .por _ _ _ => true
  | .pxor _ _ _ => true
  | .pandn _ _ _ => true
  | .pnot _ _ => true
  | .pmov _ _ => true
  | .pset _ _ => true
  | .pcnt _ _ => true
  | .pfirst _ _ => true
  | .ppack _ _ => true
  | .punpk _ _ => true
  | .ptest _ _ m => decide (m ≠ 3)
  | .pmask _ _ => true
  | .mcall _ => true
  | .mtsh _ _ => true
  | .mfsh _ _ => true
  | .mpar _ _ => true
  | .mfpar _ _ => true
  | .mldv _ _ _ _ => true
  | .mstv _ _ _ _ => true
  | .mzero _ => true
  | .mstat _ _ => true
  | .mresume => true
  | .mnop _ => true
  | .mmac _ _ _ mode wn imm => decide (microX mode wn imm 24)
  | .mmacs _ _ _ mode wn imm => decide (microX mode wn imm 28)
  | .mmacq _ _ _ mode wn imm => decide (microX mode wn imm 24)
  | .microMzero _ => true
  | .microMldv _ mode wn imm => decide (microX mode wn imm 29 ∧ (mode = 0 → imm.getLsbD 7 = false))
  | .microMstv _ mode wn imm => decide (microX mode wn imm 29 ∧ (mode = 0 → imm.getLsbD 7 = false))
  | .mtrn _ _ => true
  | .maddt _ _ _ => true
  | .mloop _ _ => true
  | .mbr wn cond _ => decide (cond ≠ 3 ∧ (cond = 0 → wn = 0))
  | .mpset _ op _ => decide (op ≠ 7)
  | .mstep => true
  | .mend => true
  | .cpy _ => true
  | .cpyset _ _ => true
  | .cpyd _ _ _ => true
  | .gath _ _ _ => true
  | .scat _ _ _ => true
  | .drain _ => true
  | .ckarm _ _ => true
  | .stage _ _ _ => true
  | .bmchk _ _ _ => true
  | .bmset _ => true
  | .send _ _ _ => true
  | .recv _ _ => true
  | .fsend _ _ => true
  | .expect _ _ => true
  | .frecv _ _ _ => true
  | .gbind _ _ => true
  | .gfree _ => true
  | .red _ d a _ => decide (d.toNat < 120 ∧ a.toNat < 120)
  | .mcast _ _ => true
  | .digest _ _ _ => true
  | .nstat _ _ => true
  | .mfc _ _ => true
  | .mtc _ _ => true
  | .rfe => true
  | .thaw _ => true
  | .rewind _ => true
  | .swap _ _ => true
  | .taskpost _ _ => true
  | .taskdone _ => true
  | .twin _ _ => true
  | .bank _ _ => true
  | .halt => true
  | .spillv d _ _ => decide (d.toNat < 120)
  | .fillv d _ _ => decide (d.toNat < 120)
  | .spills _ _ _ => true
  | .fills _ _ _ => true
  | .spillp _ _ _ => true
  | .fillp _ _ _ => true
  | .tokchk c _ a => decide ((c = 1 → a.toNat < 32) ∧ (c = 2 → a.toNat < 16) ∧ (c = 3 → a = 0))
  | .salloc _ _ => true
  | .sfree _ _ => true
  | .freezeRecordsComplete _ => true
  | .eventTake _ => true
  | .freezeActionEffect _ _ _ => true
  | .slipDebtSkip _ => true
  | .runBudgetExpiry _ _ => true
  | .sourceTick _ _ _ => true
  | .samplePayloadArrival _ _ _ _ => true
  | .mediaPduIngress _ _ _ _ _ _ _ => true
  | .hostRecordTick _ _ => true
  | .ptmRequest => true
  | .ptmTimeout _ => true
  | .regionTick _ => true
  | .acquireComplete _ => true
  | .tickLoss _ => true
  | .holdtExpiry _ => true
  | .relock _ => true
  | .hem _ => true
  | .patternRestart _ _ => true
  | .admission _ => true
  | .preloadComplete _ _ => true
  | .taskAging _ => true
  | .completionBitTest _ _ => true
  | .ringReturn _ => true
  | .dupCompare _ _ => true
  | .twinCompare _ _ => true
  | .copyComplete _ _ => true
  | .stageComplete _ => true
  | .bmsetBitSet _ _ => true
  | .sendArrival _ _ _ _ => true
  | .bankWakeComplete _ _ => true
  | .fragmentArrival _ _ => true
  | .messageClose _ => true
  | .groupDrainEnd _ _ => true
  | .fragmentExpiry _ => true
  | .pathDown _ => true
  | .laneRetrainComplete _ => true
  | .doorbell _ => true
  | .submit _ _ _ _ _ _ _ _ => true
  | .cards _ _ _ => true
  | .ttypes _ _ _ => true
  | .region _ _ _ _ _ _ => true
  | .regionStart _ => true
  | .regionStop _ => true
  | .wheel _ _ => true
  | .range _ _ _ => true
  | .crate _ _ => true
  | .preempt _ => true
  | .resume _ => true
  | .kill _ => true
  | .sanitise => true
  | .sanitiseComplete => true
  | .jobEnd _ => true
  | .killWrite _ _ => true
  | .dhold _ _ => true
  | .dholdKill _ _ => true
  | .dholdKillJob _ _ => true
  | .dretry _ => true
  | .dringConfigWrite _ _ _ => true
  | .savebWrite _ _ => true
  | .gcfgWrite _ _ => true
  | .gstepWrite _ _ => true
  | .crcfgWrite _ _ => true
  | .holdtWrite _ _ => true
  | .rsync _ => true
  | .tagTableClear _ => true
  | .clrpend _ _ => true
  | .clrlate _ => true
  | .clrloss _ => true
  | .clrdig _ => true
  | .clrnov _ => true
  | .clrcrc _ => true
  | .counterClear _ _ => true
  | .spare _ _ => true
  | .lgrt _ => true
  | .ppr _ => true
  | .pprCopyComplete _ => true
  | .ldgo => true
  | .loadListComplete => true
  | .cringConfigWrite _ _ => true
  | .bar2winWrite _ => true
  | .hstailWrite _ _ => true
  | .registerWrite _ _ _ => true
  | .bar2Read _ _ => true
  | .bar2Write _ _ _ => true
  | .flr => true
  | .coldPowerUp _ => true
  | .surpriseLinkLoss => true
  | .telemetry => true
  | .freezeDump _ => true
  | .warmReset => true
  | .coldReset => true
  | .counterAdvance _ _ _ _ => true
  | .getMeasurements _ => true
  | .thermalWarning => true
  | .thermalTrip => true
  | .powerTrip => true
  | .hbmScrub _ _ _ => true
  | .controlTwinMismatch _ => true
  | .ptmResponse _ => true
  | .pldmFirmwareUpdate _ _ => true
  | .segmentExpansionComplete _ _ => true
  | .hbmRefresh _ => true
  | .phyRecalibration _ => true

/-- An instruction word of the slot format: every other constructor is a microword or an event. -/
def Instr.isSlot (i : Instr) : Bool :=
  match i with
  | .add _ _ _ _ => true
  | .sub _ _ _ _ => true
  | .and _ _ _ _ => true
  | .or _ _ _ _ => true
  | .xor _ _ _ _ => true
  | .andn _ _ _ _ => true
  | .shl _ _ _ _ => true
  | .shr _ _ _ _ => true
  | .sar _ _ _ _ => true
  | .rotl _ _ _ _ => true
  | .min _ _ _ _ => true
  | .max _ _ _ _ => true
  | .minn _ _ _ _ => true
  | .maxn _ _ _ _ => true
  | .mul _ _ _ _ => true
  | .mulh _ _ _ _ => true
  | .mulhn _ _ _ _ => true
  | .div _ _ _ _ => true
  | .divn _ _ _ _ => true
  | .rem _ _ _ _ => true
  | .remn _ _ _ _ => true
  | .clz _ _ _ => true
  | .ctz _ _ _ => true
  | .popc _ _ _ => true
  | .sext _ _ _ _ => true
  | .zext _ _ _ _ => true
  | .mov _ _ _ => true
  | .csel _ _ _ _ => true
  | .kcmp _ _ _ _ => true
  | .kcmpImm _ _ _ _ => true
  | .klog _ _ _ _ => true
  | .addi _ _ _ => true
  | .andi _ _ _ => true
  | .ori _ _ _ => true
  | .xori _ _ _ => true
  | .shli _ _ _ => true
  | .shri _ _ _ => true
  | .sari _ _ _ => true
  | .movi _ _ _ => true
  | .movhi _ _ => true
  | .muli _ _ _ => true
  | .addpc _ _ => true
  | .ext _ => true
  | .br _ => true
  | .bk _ _ _ => true
  | .call _ => true
  | .jr _ => true
  | .callr _ => true
  | .ret => true
  | .loopb _ => true
  | .loopc _ => true
  | .loopset _ _ => true
  | .notch => true
  | .hemsync => true
  | .smpl => true
  | .yield => true
  | .retire => true
  | .setfmt _ => true
  | .nop => true
  | .trapi _ => true
  | .brkpt => true
  | .sstep => true
  | .fence _ => true
  | .ldb _ _ _ _ => true
  | .ldbn _ _ _ _ => true
  | .ldh _ _ _ _ => true
  | .ldhn _ _ _ _ => true
  | .ldw _ _ _ _ => true
  | .ldwn _ _ _ _ => true
  | .ldd _ _ _ _ => true
  | .stb _ _ _ _ => true
  | .sth _ _ _ _ => true
  | .stw _ _ _ _ => true
  | .std _ _ _ _ => true
  | .amoadd _ _ _ => true
  | .amoswap _ _ _ => true
  | .amocas _ _ _ => true
  | .amomin _ _ _ => true
  | .amomax _ _ _ => true
  | .amominn _ _ _ => true
  | .amomaxn _ _ _ => true
  | .amoand _ _ _ => true
  | .amoor _ _ _ => true
  | .amoxor _ _ _ => true
  | .lookup _ _ _ => true
  | .tagset _ _ _ => true
  | .tagclr _ _ => true
  | .lea _ _ _ => true
  | .vadd _ _ _ _ => true
  | .vsub _ _ _ _ => true
  | .vmul _ _ _ _ => true
  | .vfma _ _ _ _ => true
  | .vfms _ _ _ _ => true
  | .vmin _ _ _ _ => true
  | .vmax _ _ _ _ => true
  | .vabs _ _ _ => true
  | .vneg _ _ _ => true
  | .vand _ _ _ _ => true
  | .vor _ _ _ _ => true
  | .vxor _ _ _ _ => true
  | .vshl _ _ _ _ => true
  | .vshr _ _ _ _ => true
  | .vsar _ _ _ _ => true
  | .vsel _ _ _ _ => true
  | .vmov _ _ _ => true
  | .vbc _ _ _ => true
  | .vaddi _ _ _ _ => true
  | .vmuli _ _ _ _ => true
  | .vrecip _ _ _ => true
  | .vrsqrt _ _ _ => true
  | .vexp2 _ _ _ => true
  | .vlog2 _ _ _ => true
  | .vclamp _ _ _ _ => true
  | .vround _ _ _ => true
  | .vcmp _ _ _ _ => true
  | .vmulh _ _ _ _ => true
  | .vsatadd _ _ _ _ => true
  | .vsatsub _ _ _ _ => true
  | .vaddw _ _ _ _ => true
  | .vmacw _ _ _ _ => true
  | .vcvt _ _ _ _ => true
  | .vq8 _ _ _ _ => true
  | .vdq8 _ _ _ _ => true
  | .vredsum _ _ _ _ => true
  | .vredmax _ _ _ _ => true
  | .vredmin _ _ _ _ => true
  | .vscan _ _ _ _ => true
  | .vperm _ _ _ _ => true
  | .vrot _ _ _ _ => true
  | .vshuf _ _ _ _ => true
  | .vpackh _ _ _ _ => true
  | .vunpk _ _ _ _ => true
  | .vrand _ _ _ _ => true
  | .vext _ _ _ _ => true
  | .vins _ _ _ _ => true
  | .vbsum _ _ _ => true
  | .vbmax _ _ _ => true
  | .vld _ _ _ _ => true
  | .vst _ _ _ _ => true
  | .vstm _ _ _ _ => true
  | .vldx _ _ _ _ => true
  | .vstx _ _ _ _ => true
  | .vstxa _ _ _ _ => true
  | .bset _ _ => true
  | .bseek _ _ _ => true
  | .bpos _ _ _ => true
  | .bstat _ _ _ => true
  | .bstatGather _ _ => true
  | .bflush _ _ => true
  | .bdone _ _ => true
  | .pand _ _ _ => true
  | .por _ _ _ => true
  | .pxor _ _ _ => true
  | .pandn _ _ _ => true
  | .pnot _ _ => true
  | .pmov _ _ => true
  | .pset _ _ => true
  | .pcnt _ _ => true
  | .pfirst _ _ => true
  | .ppack _ _ => true
  | .punpk _ _ => true
  | .ptest _ _ _ => true
  | .pmask _ _ => true
  | .mcall _ => true
  | .mtsh _ _ => true
  | .mfsh _ _ => true
  | .mpar _ _ => true
  | .mfpar _ _ => true
  | .mldv _ _ _ _ => true
  | .mstv _ _ _ _ => true
  | .mzero _ => true
  | .mstat _ _ => true
  | .mresume => true
  | .mnop _ => false
  | .mmac _ _ _ _ _ _ => false
  | .mmacs _ _ _ _ _ _ => false
  | .mmacq _ _ _ _ _ _ => false
  | .microMzero _ => false
  | .microMldv _ _ _ _ => false
  | .microMstv _ _ _ _ => false
  | .mtrn _ _ => false
  | .maddt _ _ _ => false
  | .mloop _ _ => false
  | .mbr _ _ _ => false
  | .mpset _ _ _ => false
  | .mstep => false
  | .mend => false
  | .cpy _ => true
  | .cpyset _ _ => true
  | .cpyd _ _ _ => true
  | .gath _ _ _ => true
  | .scat _ _ _ => true
  | .drain _ => true
  | .ckarm _ _ => true
  | .stage _ _ _ => true
  | .bmchk _ _ _ => true
  | .bmset _ => true
  | .send _ _ _ => true
  | .recv _ _ => true
  | .fsend _ _ => true
  | .expect _ _ => true
  | .frecv _ _ _ => true
  | .gbind _ _ => true
  | .gfree _ => true
  | .red _ _ _ _ => true
  | .mcast _ _ => true
  | .digest _ _ _ => true
  | .nstat _ _ => true
  | .mfc _ _ => true
  | .mtc _ _ => true
  | .rfe => true
  | .thaw _ => true
  | .rewind _ => true
  | .swap _ _ => true
  | .taskpost _ _ => true
  | .taskdone _ => true
  | .twin _ _ => true
  | .bank _ _ => true
  | .halt => true
  | .spillv _ _ _ => true
  | .fillv _ _ _ => true
  | .spills _ _ _ => true
  | .fills _ _ _ => true
  | .spillp _ _ _ => true
  | .fillp _ _ _ => true
  | .tokchk _ _ _ => true
  | .salloc _ _ => true
  | .sfree _ _ => true
  | .freezeRecordsComplete _ => false
  | .eventTake _ => false
  | .freezeActionEffect _ _ _ => false
  | .slipDebtSkip _ => false
  | .runBudgetExpiry _ _ => false
  | .sourceTick _ _ _ => false
  | .samplePayloadArrival _ _ _ _ => false
  | .mediaPduIngress _ _ _ _ _ _ _ => false
  | .hostRecordTick _ _ => false
  | .ptmRequest => false
  | .ptmTimeout _ => false
  | .regionTick _ => false
  | .acquireComplete _ => false
  | .tickLoss _ => false
  | .holdtExpiry _ => false
  | .relock _ => false
  | .hem _ => false
  | .patternRestart _ _ => false
  | .admission _ => false
  | .preloadComplete _ _ => false
  | .taskAging _ => false
  | .completionBitTest _ _ => false
  | .ringReturn _ => false
  | .dupCompare _ _ => false
  | .twinCompare _ _ => false
  | .copyComplete _ _ => false
  | .stageComplete _ => false
  | .bmsetBitSet _ _ => false
  | .sendArrival _ _ _ _ => false
  | .bankWakeComplete _ _ => false
  | .fragmentArrival _ _ => false
  | .messageClose _ => false
  | .groupDrainEnd _ _ => false
  | .fragmentExpiry _ => false
  | .pathDown _ => false
  | .laneRetrainComplete _ => false
  | .doorbell _ => false
  | .submit _ _ _ _ _ _ _ _ => false
  | .cards _ _ _ => false
  | .ttypes _ _ _ => false
  | .region _ _ _ _ _ _ => false
  | .regionStart _ => false
  | .regionStop _ => false
  | .wheel _ _ => false
  | .range _ _ _ => false
  | .crate _ _ => false
  | .preempt _ => false
  | .resume _ => false
  | .kill _ => false
  | .sanitise => false
  | .sanitiseComplete => false
  | .jobEnd _ => false
  | .killWrite _ _ => false
  | .dhold _ _ => false
  | .dholdKill _ _ => false
  | .dholdKillJob _ _ => false
  | .dretry _ => false
  | .dringConfigWrite _ _ _ => false
  | .savebWrite _ _ => false
  | .gcfgWrite _ _ => false
  | .gstepWrite _ _ => false
  | .crcfgWrite _ _ => false
  | .holdtWrite _ _ => false
  | .rsync _ => false
  | .tagTableClear _ => false
  | .clrpend _ _ => false
  | .clrlate _ => false
  | .clrloss _ => false
  | .clrdig _ => false
  | .clrnov _ => false
  | .clrcrc _ => false
  | .counterClear _ _ => false
  | .spare _ _ => false
  | .lgrt _ => false
  | .ppr _ => false
  | .pprCopyComplete _ => false
  | .ldgo => false
  | .loadListComplete => false
  | .cringConfigWrite _ _ => false
  | .bar2winWrite _ => false
  | .hstailWrite _ _ => false
  | .registerWrite _ _ _ => false
  | .bar2Read _ _ => false
  | .bar2Write _ _ _ => false
  | .flr => false
  | .coldPowerUp _ => false
  | .surpriseLinkLoss => false
  | .telemetry => false
  | .freezeDump _ => false
  | .warmReset => false
  | .coldReset => false
  | .counterAdvance _ _ _ _ => false
  | .getMeasurements _ => false
  | .thermalWarning => false
  | .thermalTrip => false
  | .powerTrip => false
  | .hbmScrub _ _ _ => false
  | .controlTwinMismatch _ => false
  | .ptmResponse _ => false
  | .pldmFirmwareUpdate _ _ => false
  | .segmentExpansionComplete _ _ => false
  | .hbmRefresh _ => false
  | .phyRecalibration _ => false

end Sys2Proof
end

