-- ==== Sys2Proof/Decode.lean ====
section
/-! DEFINITION. The decoder of slot words (R82 to R87, R91) and of microwords (R218, R220), total on any bits, and the
encoder written from the same tables. A word is a number with bit 0 least significant; a field is read by `fld`. -/

namespace Sys2Proof

/-- What decoding a slot word gives: an instruction, or the ILLENC subcause of R87. -/
abbrev Decoded := Except Nat Instr

/-- An instruction if the must-be-zero bits are zero, else ILLENC 3 (R83, R87). -/
def mbz (ok : Bool) (d : Decoded) : Decoded := if ok then d else .error 3

/-- An instruction unless the condition holds, else the subcause given. -/
def refuse (bad : Bool) (sub : Nat) (d : Decoded) : Decoded := if bad then .error sub else d

/-- Class 0 of the opcode map (R91). -/
def decodeClass0 (f w : Nat) : Decoded :=
  match f with
  | 0 => mbz (decide (fld w 19 2 = 0 ∧ fld w 12 2 = 0 ∧ fld w 5 2 = 0)) (.ok (.add (fldB w 21) (fldV w 14 5) (fldV w 7 5) (fldV w 0 5)))
  | 1 => mbz (decide (fld w 19 2 = 0 ∧ fld w 12 2 = 0 ∧ fld w 5 2 = 0)) (.ok (.sub (fldB w 21) (fldV w 14 5) (fldV w 7 5) (fldV w 0 5)))
  | 2 => mbz (decide (fld w 19 2 = 0 ∧ fld w 12 2 = 0 ∧ fld w 5 2 = 0)) (.ok (.and (fldB w 21) (fldV w 14 5) (fldV w 7 5) (fldV w 0 5)))
  | 3 => mbz (decide (fld w 19 2 = 0 ∧ fld w 12 2 = 0 ∧ fld w 5 2 = 0)) (.ok (.or (fldB w 21) (fldV w 14 5) (fldV w 7 5) (fldV w 0 5)))
  | 4 => mbz (decide (fld w 19 2 = 0 ∧ fld w 12 2 = 0 ∧ fld w 5 2 = 0)) (.ok (.xor (fldB w 21) (fldV w 14 5) (fldV w 7 5) (fldV w 0 5)))
  | 5 => mbz (decide (fld w 19 2 = 0 ∧ fld w 12 2 = 0 ∧ fld w 5 2 = 0)) (.ok (.andn (fldB w 21) (fldV w 14 5) (fldV w 7 5) (fldV w 0 5)))
  | 6 => mbz (decide (fld w 19 2 = 0 ∧ fld w 12 2 = 0 ∧ fld w 5 2 = 0)) (.ok (.shl (fldB w 21) (fldV w 14 5) (fldV w 7 5) (fldV w 0 5)))
  | 7 => mbz (decide (fld w 19 2 = 0 ∧ fld w 12 2 = 0 ∧ fld w 5 2 = 0)) (.ok (.shr (fldB w 21) (fldV w 14 5) (fldV w 7 5) (fldV w 0 5)))
  | 8 => mbz (decide (fld w 19 2 = 0 ∧ fld w 12 2 = 0 ∧ fld w 5 2 = 0)) (.ok (.sar (fldB w 21) (fldV w 14 5) (fldV w 7 5) (fldV w 0 5)))
  | 9 => mbz (decide (fld w 19 2 = 0 ∧ fld w 12 2 = 0 ∧ fld w 5 2 = 0)) (.ok (.rotl (fldB w 21) (fldV w 14 5) (fldV w 7 5) (fldV w 0 5)))
  | 10 => mbz (decide (fld w 19 2 = 0 ∧ fld w 12 2 = 0 ∧ fld w 5 2 = 0)) (.ok (.min (fldB w 21) (fldV w 14 5) (fldV w 7 5) (fldV w 0 5)))
  | 11 => mbz (decide (fld w 19 2 = 0 ∧ fld w 12 2 = 0 ∧ fld w 5 2 = 0)) (.ok (.max (fldB w 21) (fldV w 14 5) (fldV w 7 5) (fldV w 0 5)))
  | 12 => mbz (decide (fld w 19 2 = 0 ∧ fld w 12 2 = 0 ∧ fld w 5 2 = 0)) (.ok (.minn (fldB w 21) (fldV w 14 5) (fldV w 7 5) (fldV w 0 5)))
  | 13 => mbz (decide (fld w 19 2 = 0 ∧ fld w 12 2 = 0 ∧ fld w 5 2 = 0)) (.ok (.maxn (fldB w 21) (fldV w 14 5) (fldV w 7 5) (fldV w 0 5)))
  | 14 => mbz (decide (fld w 19 2 = 0 ∧ fld w 12 2 = 0 ∧ fld w 5 2 = 0)) (.ok (.mul (fldB w 21) (fldV w 14 5) (fldV w 7 5) (fldV w 0 5)))
  | 15 => mbz (decide (fld w 19 2 = 0 ∧ fld w 12 2 = 0 ∧ fld w 5 2 = 0)) (.ok (.mulh (fldB w 21) (fldV w 14 5) (fldV w 7 5) (fldV w 0 5)))
  | 16 => mbz (decide (fld w 19 2 = 0 ∧ fld w 12 2 = 0 ∧ fld w 5 2 = 0)) (.ok (.mulhn (fldB w 21) (fldV w 14 5) (fldV w 7 5) (fldV w 0 5)))
  | 17 => mbz (decide (fld w 19 2 = 0 ∧ fld w 12 2 = 0 ∧ fld w 5 2 = 0)) (.ok (.div (fldB w 21) (fldV w 14 5) (fldV w 7 5) (fldV w 0 5)))
  | 18 => mbz (decide (fld w 19 2 = 0 ∧ fld w 12 2 = 0 ∧ fld w 5 2 = 0)) (.ok (.divn (fldB w 21) (fldV w 14 5) (fldV w 7 5) (fldV w 0 5)))
  | 19 => mbz (decide (fld w 19 2 = 0 ∧ fld w 12 2 = 0 ∧ fld w 5 2 = 0)) (.ok (.rem (fldB w 21) (fldV w 14 5) (fldV w 7 5) (fldV w 0 5)))
  | 20 => mbz (decide (fld w 19 2 = 0 ∧ fld w 12 2 = 0 ∧ fld w 5 2 = 0)) (.ok (.remn (fldB w 21) (fldV w 14 5) (fldV w 7 5) (fldV w 0 5)))
  | 21 => mbz (decide (fld w 19 2 = 0 ∧ fld w 12 2 = 0 ∧ fld w 0 7 = 0)) (.ok (.clz (fldB w 21) (fldV w 14 5) (fldV w 7 5)))
  | 22 => mbz (decide (fld w 19 2 = 0 ∧ fld w 12 2 = 0 ∧ fld w 0 7 = 0)) (.ok (.ctz (fldB w 21) (fldV w 14 5) (fldV w 7 5)))
  | 23 => mbz (decide (fld w 19 2 = 0 ∧ fld w 12 2 = 0 ∧ fld w 0 7 = 0)) (.ok (.popc (fldB w 21) (fldV w 14 5) (fldV w 7 5)))
  | 24 => mbz (decide (fld w 19 2 = 0 ∧ fld w 12 2 = 0 ∧ fld w 5 2 = 0)) (.ok (.sext (fldB w 21) (fldV w 14 5) (fldV w 7 5) (fldV w 0 5)))
  | 25 => mbz (decide (fld w 19 2 = 0 ∧ fld w 12 2 = 0 ∧ fld w 5 2 = 0)) (.ok (.zext (fldB w 21) (fldV w 14 5) (fldV w 7 5) (fldV w 0 5)))
  | 26 => mbz (decide (fld w 19 2 = 0 ∧ fld w 12 2 = 0 ∧ fld w 0 7 = 0)) (.ok (.mov (fldB w 21) (fldV w 14 5) (fldV w 7 5)))
  | 27 => mbz (decide (fld w 19 2 = 0 ∧ fld w 12 2 = 0 ∧ fld w 5 2 = 0)) (.ok (.csel (fldB w 21) (fldV w 14 5) (fldV w 7 5) (fldV w 0 5)))
  | 28 => if fldB w 21 = false then mbz (decide (fld w 21 1 = 0 ∧ fld w 12 3 = 0 ∧ fld w 5 2 = 0)) (refuse (decide (fld w 18 3 = 7)) 6 (.ok (.kcmp (fldV w 18 3) (fldV w 15 3) (fldV w 7 5) (fldV w 0 5)))) else mbz (decide (fld w 21 1 = 1 ∧ fld w 12 3 = 0)) (refuse (decide (fld w 18 3 = 7)) 6 (.ok (.kcmpImm (fldV w 18 3) (fldV w 15 3) (fldV w 7 5) (fldV w 0 7))))
  | 29 => mbz (decide (fld w 21 1 = 0 ∧ fld w 10 5 = 0 ∧ fld w 3 4 = 0)) (refuse (decide (fld w 18 3 = 7)) 6 (.ok (.klog (fldV w 18 3) (fldV w 15 3) (fldV w 7 3) (fldV w 0 3))))
  | _ => .error 2

/-- Class 1 of the opcode map (R91). -/
def decodeClass1 (f w : Nat) : Decoded :=
  match f with
  | 0 => mbz (decide (fld w 19 2 = 0)) (.ok (.addi (fldB w 21) (fldV w 14 5) (fldV w 0 14)))
  | 1 => mbz (decide (fld w 19 2 = 0)) (.ok (.andi (fldB w 21) (fldV w 14 5) (fldV w 0 14)))
  | 2 => mbz (decide (fld w 19 2 = 0)) (.ok (.ori (fldB w 21) (fldV w 14 5) (fldV w 0 14)))
  | 3 => mbz (decide (fld w 19 2 = 0)) (.ok (.xori (fldB w 21) (fldV w 14 5) (fldV w 0 14)))
  | 4 => mbz (decide (fld w 19 2 = 0)) (.ok (.shli (fldB w 21) (fldV w 14 5) (fldV w 0 14)))
  | 5 => mbz (decide (fld w 19 2 = 0)) (.ok (.shri (fldB w 21) (fldV w 14 5) (fldV w 0 14)))
  | 6 => mbz (decide (fld w 19 2 = 0)) (.ok (.sari (fldB w 21) (fldV w 14 5) (fldV w 0 14)))
  | 7 => mbz (decide (fld w 19 2 = 0)) (.ok (.movi (fldB w 21) (fldV w 14 5) (fldV w 0 14)))
  | 8 => mbz (decide (fld w 19 3 = 0)) (.ok (.movhi (fldV w 14 5) (fldV w 0 14)))
  | 9 => mbz (decide (fld w 19 2 = 0)) (.ok (.muli (fldB w 21) (fldV w 14 5) (fldV w 0 14)))
  | 10 => mbz (decide (fld w 19 3 = 0)) (.ok (.addpc (fldV w 14 5) (fldV w 0 14)))
  | _ => .error 2

/-- Class 2 of the opcode map (R91). -/
def decodeClass2 (f w : Nat) : Decoded :=
  match f with
  | 0 => .ok (.br (fldV w 0 22))
  | 1 => .ok (.bk (fldB w 21) (fldV w 18 3) (fldV w 0 18))
  | 2 => .ok (.call (fldV w 0 22))
  | 3 => mbz (decide (fld w 12 10 = 0 ∧ fld w 0 7 = 0)) (.ok (.jr (fldV w 7 5)))
  | 4 => mbz (decide (fld w 12 10 = 0 ∧ fld w 0 7 = 0)) (.ok (.callr (fldV w 7 5)))
  | 5 => mbz (decide (fld w 0 22 = 0)) (.ok (.ret))
  | 6 => .ok (.loopb (fldV w 0 22))
  | 7 => .ok (.loopc (fldV w 0 22))
  | 8 => mbz (decide (fld w 19 3 = 0)) (.ok (.loopset (fldV w 14 5) (fldV w 0 14)))
  | 9 => mbz (decide (fld w 0 22 = 0)) (.ok (.notch))
  | 10 => mbz (decide (fld w 0 22 = 0)) (.ok (.hemsync))
  | 11 => mbz (decide (fld w 0 22 = 0)) (.ok (.smpl))
  | 12 => mbz (decide (fld w 0 22 = 0)) (.ok (.yield))
  | 13 => mbz (decide (fld w 0 22 = 0)) (.ok (.retire))
  | 14 => mbz (decide (fld w 12 10 = 0 ∧ fld w 0 7 = 0)) (.ok (.setfmt (fldV w 7 5)))
  | 15 => mbz (decide (fld w 0 22 = 0)) (.ok (.nop))
  | 16 => mbz (decide (fld w 14 8 = 0)) (.ok (.trapi (fldV w 0 14)))
  | 17 => mbz (decide (fld w 0 22 = 0)) (.ok (.brkpt))
  | 18 => mbz (decide (fld w 0 22 = 0)) (.ok (.sstep))
  | 19 => mbz (decide (fld w 14 8 = 0)) (.ok (.fence (fldV w 0 14)))
  | _ => .error 2

/-- Class 3 of the opcode map (R91). -/
def decodeClass3 (f w : Nat) : Decoded :=
  match f with
  | 0 => mbz (decide (fld w 19 2 = 0 ∧ fld w 12 2 = 0)) (refuse (decide ((fldB w 21 = true ∧ fld w 14 5 = fld w 7 5 ∧ fld w 14 5 ≠ 0))) 4 (.ok (.ldb (fldB w 21) (fldV w 14 5) (fldV w 7 5) (fldV w 0 7))))
  | 1 => mbz (decide (fld w 19 2 = 0 ∧ fld w 12 2 = 0)) (refuse (decide ((fldB w 21 = true ∧ fld w 14 5 = fld w 7 5 ∧ fld w 14 5 ≠ 0))) 4 (.ok (.ldbn (fldB w 21) (fldV w 14 5) (fldV w 7 5) (fldV w 0 7))))
  | 2 => mbz (decide (fld w 19 2 = 0 ∧ fld w 12 2 = 0)) (refuse (decide ((fldB w 21 = true ∧ fld w 14 5 = fld w 7 5 ∧ fld w 14 5 ≠ 0))) 4 (.ok (.ldh (fldB w 21) (fldV w 14 5) (fldV w 7 5) (fldV w 0 7))))
  | 3 => mbz (decide (fld w 19 2 = 0 ∧ fld w 12 2 = 0)) (refuse (decide ((fldB w 21 = true ∧ fld w 14 5 = fld w 7 5 ∧ fld w 14 5 ≠ 0))) 4 (.ok (.ldhn (fldB w 21) (fldV w 14 5) (fldV w 7 5) (fldV w 0 7))))
  | 4 => mbz (decide (fld w 19 2 = 0 ∧ fld w 12 2 = 0)) (refuse (decide ((fldB w 21 = true ∧ fld w 14 5 = fld w 7 5 ∧ fld w 14 5 ≠ 0))) 4 (.ok (.ldw (fldB w 21) (fldV w 14 5) (fldV w 7 5) (fldV w 0 7))))
  | 5 => mbz (decide (fld w 19 2 = 0 ∧ fld w 12 2 = 0)) (refuse (decide ((fldB w 21 = true ∧ fld w 14 5 = fld w 7 5 ∧ fld w 14 5 ≠ 0))) 4 (.ok (.ldwn (fldB w 21) (fldV w 14 5) (fldV w 7 5) (fldV w 0 7))))
  | 6 => mbz (decide (fld w 19 2 = 0 ∧ fld w 12 2 = 0)) (refuse (decide ((fldB w 21 = true ∧ fld w 14 5 = fld w 7 5 ∧ fld w 14 5 ≠ 0))) 4 (.ok (.ldd (fldB w 21) (fldV w 14 5) (fldV w 7 5) (fldV w 0 7))))
  | 7 => mbz (decide (fld w 19 2 = 0 ∧ fld w 12 2 = 0)) (.ok (.stb (fldB w 21) (fldV w 14 5) (fldV w 7 5) (fldV w 0 7)))
  | 8 => mbz (decide (fld w 19 2 = 0 ∧ fld w 12 2 = 0)) (.ok (.sth (fldB w 21) (fldV w 14 5) (fldV w 7 5) (fldV w 0 7)))
  | 9 => mbz (decide (fld w 19 2 = 0 ∧ fld w 12 2 = 0)) (.ok (.stw (fldB w 21) (fldV w 14 5) (fldV w 7 5) (fldV w 0 7)))
  | 10 => mbz (decide (fld w 19 2 = 0 ∧ fld w 12 2 = 0)) (.ok (.std (fldB w 21) (fldV w 14 5) (fldV w 7 5) (fldV w 0 7)))
  | 11 => mbz (decide (fld w 19 3 = 0 ∧ fld w 12 2 = 0)) (.ok (.amoadd (fldV w 14 5) (fldV w 7 5) (fldV w 0 7)))
  | 12 => mbz (decide (fld w 19 3 = 0 ∧ fld w 12 2 = 0)) (.ok (.amoswap (fldV w 14 5) (fldV w 7 5) (fldV w 0 7)))
  | 13 => mbz (decide (fld w 19 3 = 0 ∧ fld w 12 3 = 0)) (.ok (.amocas (fldV w 15 4) (fldV w 7 5) (fldV w 0 7)))
  | 14 => mbz (decide (fld w 19 3 = 0 ∧ fld w 12 2 = 0)) (.ok (.amomin (fldV w 14 5) (fldV w 7 5) (fldV w 0 7)))
  | 15 => mbz (decide (fld w 19 3 = 0 ∧ fld w 12 2 = 0)) (.ok (.amomax (fldV w 14 5) (fldV w 7 5) (fldV w 0 7)))
  | 16 => mbz (decide (fld w 19 3 = 0 ∧ fld w 12 2 = 0)) (.ok (.amominn (fldV w 14 5) (fldV w 7 5) (fldV w 0 7)))
  | 17 => mbz (decide (fld w 19 3 = 0 ∧ fld w 12 2 = 0)) (.ok (.amomaxn (fldV w 14 5) (fldV w 7 5) (fldV w 0 7)))
  | 18 => mbz (decide (fld w 19 3 = 0 ∧ fld w 12 2 = 0)) (.ok (.amoand (fldV w 14 5) (fldV w 7 5) (fldV w 0 7)))
  | 19 => mbz (decide (fld w 19 3 = 0 ∧ fld w 12 2 = 0)) (.ok (.amoor (fldV w 14 5) (fldV w 7 5) (fldV w 0 7)))
  | 20 => mbz (decide (fld w 19 3 = 0 ∧ fld w 12 2 = 0)) (.ok (.amoxor (fldV w 14 5) (fldV w 7 5) (fldV w 0 7)))
  | 21 => mbz (decide (fld w 19 3 = 0 ∧ fld w 12 2 = 0)) (.ok (.lookup (fldV w 14 5) (fldV w 7 5) (fldV w 0 7)))
  | 22 => mbz (decide (fld w 19 3 = 0 ∧ fld w 12 2 = 0)) (.ok (.tagset (fldV w 14 5) (fldV w 7 5) (fldV w 0 7)))
  | 23 => mbz (decide (fld w 12 10 = 0)) (.ok (.tagclr (fldV w 7 5) (fldV w 0 7)))
  | 24 => mbz (decide (fld w 19 3 = 0 ∧ fld w 12 2 = 0)) (.ok (.lea (fldV w 14 5) (fldV w 7 5) (fldV w 0 7)))
  | _ => .error 2

/-- Class 4 of the opcode map (R91). -/
def decodeClass4 (f w : Nat) : Decoded :=
  match f with
  | 0 => .ok (.vadd (fldB w 21) (fldV w 14 7) (fldV w 7 7) (fldV w 0 7))
  | 1 => .ok (.vsub (fldB w 21) (fldV w 14 7) (fldV w 7 7) (fldV w 0 7))
  | 2 => .ok (.vmul (fldB w 21) (fldV w 14 7) (fldV w 7 7) (fldV w 0 7))
  | 3 => .ok (.vfma (fldB w 21) (fldV w 14 7) (fldV w 7 7) (fldV w 0 7))
  | 4 => .ok (.vfms (fldB w 21) (fldV w 14 7) (fldV w 7 7) (fldV w 0 7))
  | 5 => .ok (.vmin (fldB w 21) (fldV w 14 7) (fldV w 7 7) (fldV w 0 7))
  | 6 => .ok (.vmax (fldB w 21) (fldV w 14 7) (fldV w 7 7) (fldV w 0 7))
  | 7 => mbz (decide (fld w 0 7 = 0)) (.ok (.vabs (fldB w 21) (fldV w 14 7) (fldV w 7 7)))
  | 8 => mbz (decide (fld w 0 7 = 0)) (.ok (.vneg (fldB w 21) (fldV w 14 7) (fldV w 7 7)))
  | 9 => .ok (.vand (fldB w 21) (fldV w 14 7) (fldV w 7 7) (fldV w 0 7))
  | 10 => .ok (.vor (fldB w 21) (fldV w 14 7) (fldV w 7 7) (fldV w 0 7))
  | 11 => .ok (.vxor (fldB w 21) (fldV w 14 7) (fldV w 7 7) (fldV w 0 7))
  | 12 => .ok (.vshl (fldB w 21) (fldV w 14 7) (fldV w 7 7) (fldV w 0 7))
  | 13 => .ok (.vshr (fldB w 21) (fldV w 14 7) (fldV w 7 7) (fldV w 0 7))
  | 14 => .ok (.vsar (fldB w 21) (fldV w 14 7) (fldV w 7 7) (fldV w 0 7))
  | 15 => .ok (.vsel (fldB w 21) (fldV w 14 7) (fldV w 7 7) (fldV w 0 7))
  | 16 => mbz (decide (fld w 0 7 = 0)) (.ok (.vmov (fldB w 21) (fldV w 14 7) (fldV w 7 7)))
  | 17 => mbz (decide (fld w 12 2 = 0 ∧ fld w 0 7 = 0)) (.ok (.vbc (fldB w 21) (fldV w 14 7) (fldV w 7 5)))
  | 18 => .ok (.vaddi (fldB w 21) (fldV w 14 7) (fldV w 7 7) (fldV w 0 7))
  | 19 => .ok (.vmuli (fldB w 21) (fldV w 14 7) (fldV w 7 7) (fldV w 0 7))
  | 20 => mbz (decide (fld w 0 7 = 0)) (.ok (.vrecip (fldB w 21) (fldV w 14 7) (fldV w 7 7)))
  | 21 => mbz (decide (fld w 0 7 = 0)) (.ok (.vrsqrt (fldB w 21) (fldV w 14 7) (fldV w 7 7)))
  | 22 => mbz (decide (fld w 0 7 = 0)) (.ok (.vexp2 (fldB w 21) (fldV w 14 7) (fldV w 7 7)))
  | 23 => mbz (decide (fld w 0 7 = 0)) (.ok (.vlog2 (fldB w 21) (fldV w 14 7) (fldV w 7 7)))
  | 24 => .ok (.vclamp (fldB w 21) (fldV w 14 7) (fldV w 7 7) (fldV w 0 7))
  | 25 => mbz (decide (fld w 0 7 = 0)) (.ok (.vround (fldB w 21) (fldV w 14 7) (fldV w 7 7)))
  | 26 => mbz (decide (fld w 14 1 = 0)) (refuse (decide (fld w 19 3 = 7)) 6 (.ok (.vcmp (fldV w 19 3) (fldV w 15 4) (fldV w 7 7) (fldV w 0 7))))
  | 27 => .ok (.vmulh (fldB w 21) (fldV w 14 7) (fldV w 7 7) (fldV w 0 7))
  | 28 => .ok (.vsatadd (fldB w 21) (fldV w 14 7) (fldV w 7 7) (fldV w 0 7))
  | 29 => .ok (.vsatsub (fldB w 21) (fldV w 14 7) (fldV w 7 7) (fldV w 0 7))
  | 30 => .ok (.vaddw (fldB w 21) (fldV w 14 7) (fldV w 7 7) (fldV w 0 7))
  | 31 => .ok (.vmacw (fldB w 21) (fldV w 14 7) (fldV w 7 7) (fldV w 0 7))
  | _ => .error 2

/-- Class 5 of the opcode map (R91). -/
def decodeClass5 (f w : Nat) : Decoded :=
  match f with
  | 0 => mbz (decide (fld w 2 5 = 0)) (.ok (.vcvt (fldB w 21) (fldV w 14 7) (fldV w 7 7) (fldV w 0 2)))
  | 1 => mbz (decide (fld w 2 5 = 0)) (refuse (decide (fld w 14 7 ≥ 120)) 7 (.ok (.vq8 (fldB w 21) (fldV w 14 7) (fldV w 7 7) (fldV w 0 2))))
  | 2 => mbz (decide (fld w 2 5 = 0)) (refuse (decide (fld w 7 7 ≥ 120)) 7 (.ok (.vdq8 (fldB w 21) (fldV w 14 7) (fldV w 7 7) (fldV w 0 2))))
  | 3 => .ok (.vredsum (fldB w 21) (fldV w 14 7) (fldV w 7 7) (fldV w 0 7))
  | 4 => .ok (.vredmax (fldB w 21) (fldV w 14 7) (fldV w 7 7) (fldV w 0 7))
  | 5 => .ok (.vredmin (fldB w 21) (fldV w 14 7) (fldV w 7 7) (fldV w 0 7))
  | 6 => .ok (.vscan (fldB w 21) (fldV w 14 7) (fldV w 7 7) (fldV w 0 7))
  | 7 => .ok (.vperm (fldB w 21) (fldV w 14 7) (fldV w 7 7) (fldV w 0 7))
  | 8 => mbz (decide (fld w 5 2 = 0)) (.ok (.vrot (fldB w 21) (fldV w 14 7) (fldV w 7 7) (fldV w 0 5)))
  | 9 => .ok (.vshuf (fldB w 21) (fldV w 14 7) (fldV w 7 7) (fldV w 0 7))
  | 10 => .ok (.vpackh (fldB w 21) (fldV w 14 7) (fldV w 7 7) (fldV w 0 7))
  | 11 => mbz (decide (fld w 2 5 = 0)) (.ok (.vunpk (fldB w 21) (fldV w 14 7) (fldV w 7 7) (fldV w 0 2)))
  | 12 => mbz (decide (fld w 12 2 = 0)) (.ok (.vrand (fldB w 21) (fldV w 14 7) (fldV w 7 5) (fldV w 0 7)))
  | 13 => mbz (decide (fld w 19 2 = 0 ∧ fld w 5 2 = 0)) (.ok (.vext (fldB w 21) (fldV w 14 5) (fldV w 7 7) (fldV w 0 5)))
  | 14 => mbz (decide (fld w 12 2 = 0 ∧ fld w 5 2 = 0)) (.ok (.vins (fldB w 21) (fldV w 14 7) (fldV w 7 5) (fldV w 0 5)))
  | 15 => mbz (decide (fld w 0 7 = 0)) (.ok (.vbsum (fldB w 21) (fldV w 14 7) (fldV w 7 7)))
  | 16 => mbz (decide (fld w 0 7 = 0)) (.ok (.vbmax (fldB w 21) (fldV w 14 7) (fldV w 7 7)))
  | _ => .error 2

/-- Class 6 of the opcode map (R91). -/
def decodeClass6 (f w : Nat) : Decoded :=
  match f with
  | 0 => mbz (decide (fld w 12 2 = 0)) (refuse (decide (fld w 14 7 ≥ 120)) 7 (.ok (.vld (fldB w 21) (fldV w 14 7) (fldV w 7 5) (fldV w 0 7))))
  | 1 => mbz (decide (fld w 12 2 = 0)) (refuse (decide (fld w 14 7 ≥ 120)) 7 (.ok (.vst (fldB w 21) (fldV w 14 7) (fldV w 7 5) (fldV w 0 7))))
  | 2 => mbz (decide (fld w 12 2 = 0)) (.ok (.vldx (fldB w 21) (fldV w 14 7) (fldV w 7 5) (fldV w 0 7)))
  | 3 => mbz (decide (fld w 12 2 = 0)) (.ok (.vstx (fldB w 21) (fldV w 14 7) (fldV w 7 5) (fldV w 0 7)))
  | 4 => mbz (decide (fld w 12 2 = 0)) (.ok (.vstxa (fldB w 21) (fldV w 14 7) (fldV w 7 5) (fldV w 0 7)))
  | 5 => mbz (decide (fld w 17 5 = 15)) (.ok (.bset (fldV w 14 3) (fldV w 0 14)))
  | 6 => mbz (decide (fld w 10 11 = 15 ∧ fld w 5 2 = 0)) (.ok (.bseek (fldB w 21) (fldV w 7 3) (fldV w 0 5)))
  | 7 => mbz (decide (fld w 19 2 = 0 ∧ fld w 10 4 = 15 ∧ fld w 0 7 = 0)) (.ok (.bpos (fldB w 21) (fldV w 14 5) (fldV w 7 3)))
  | 8 => if fld w 10 4 = 15 then mbz (decide (fld w 19 2 = 0 ∧ fld w 10 4 = 15 ∧ fld w 0 7 = 0)) (.ok (.bstat (fldB w 21) (fldV w 14 5) (fldV w 7 3))) else mbz (decide (fld w 19 2 = 0 ∧ fld w 0 14 = 0)) (.ok (.bstatGather (fldB w 21) (fldV w 14 5)))
  | 9 => mbz (decide (fld w 10 11 = 15 ∧ fld w 0 7 = 0)) (.ok (.bflush (fldB w 21) (fldV w 7 3)))
  | 10 => mbz (decide (fld w 10 11 = 15 ∧ fld w 0 7 = 0)) (.ok (.bdone (fldB w 21) (fldV w 7 3)))
  | 11 => mbz (decide (fld w 12 2 = 0)) (refuse (decide (fld w 14 7 ≥ 120)) 7 (.ok (.vstm (fldB w 21) (fldV w 14 7) (fldV w 7 5) (fldV w 0 7))))
  | _ => .error 2

/-- Class 7 of the opcode map (R91). -/
def decodeClass7 (f w : Nat) : Decoded :=
  match f with
  | 0 => mbz (decide (fld w 18 4 = 0 ∧ fld w 11 3 = 0 ∧ fld w 4 3 = 0)) (.ok (.pand (fldV w 14 4) (fldV w 7 4) (fldV w 0 4)))
  | 1 => mbz (decide (fld w 18 4 = 0 ∧ fld w 11 3 = 0 ∧ fld w 4 3 = 0)) (.ok (.por (fldV w 14 4) (fldV w 7 4) (fldV w 0 4)))
  | 2 => mbz (decide (fld w 18 4 = 0 ∧ fld w 11 3 = 0 ∧ fld w 4 3 = 0)) (.ok (.pxor (fldV w 14 4) (fldV w 7 4) (fldV w 0 4)))
  | 3 => mbz (decide (fld w 18 4 = 0 ∧ fld w 11 3 = 0 ∧ fld w 4 3 = 0)) (.ok (.pandn (fldV w 14 4) (fldV w 7 4) (fldV w 0 4)))
  | 4 => mbz (decide (fld w 18 4 = 0 ∧ fld w 11 3 = 0 ∧ fld w 0 7 = 0)) (.ok (.pnot (fldV w 14 4) (fldV w 7 4)))
  | 5 => mbz (decide (fld w 18 4 = 0 ∧ fld w 11 3 = 0 ∧ fld w 0 7 = 0)) (.ok (.pmov (fldV w 14 4) (fldV w 7 4)))
  | 6 => mbz (decide (fld w 18 4 = 0 ∧ fld w 12 2 = 0 ∧ fld w 0 7 = 0)) (.ok (.pset (fldV w 14 4) (fldV w 7 5)))
  | 7 => mbz (decide (fld w 19 3 = 0 ∧ fld w 11 3 = 0 ∧ fld w 0 7 = 0)) (.ok (.pcnt (fldV w 14 5) (fldV w 7 4)))
  | 8 => mbz (decide (fld w 19 3 = 0 ∧ fld w 11 3 = 0 ∧ fld w 0 7 = 0)) (.ok (.pfirst (fldV w 14 5) (fldV w 7 4)))
  | 9 => mbz (decide (fld w 21 1 = 0 ∧ fld w 11 3 = 0 ∧ fld w 0 10 = 0)) (.ok (.ppack (fldV w 14 7) (fldB w 10)))
  | 10 => mbz (decide (fld w 18 4 = 0 ∧ fld w 14 3 = 0 ∧ fld w 0 7 = 0)) (.ok (.punpk (fldB w 17) (fldV w 7 7)))
  | 11 => mbz (decide (fld w 17 5 = 0 ∧ fld w 11 3 = 0 ∧ fld w 2 5 = 0)) (refuse (decide (fld w 0 2 = 3)) 3 (.ok (.ptest (fldV w 14 3) (fldV w 7 4) (fldV w 0 2))))
  | 12 => mbz (decide (fld w 18 4 = 0 ∧ fld w 12 2 = 0 ∧ fld w 0 7 = 0)) (.ok (.pmask (fldV w 14 4) (fldV w 7 5)))
  | _ => .error 2

/-- Class 8 of the opcode map (R91). -/
def decodeClass8 (f w : Nat) : Decoded :=
  match f with
  | 0 => mbz (decide (fld w 0 12 = 0)) (.ok (.mcall (fldV w 12 10)))
  | 1 => mbz (decide (fld w 18 4 = 0 ∧ fld w 12 2 = 0 ∧ fld w 0 7 = 0)) (.ok (.mtsh (fldV w 14 4) (fldV w 7 5)))
  | 2 => mbz (decide (fld w 19 3 = 0 ∧ fld w 11 3 = 0 ∧ fld w 0 7 = 0)) (.ok (.mfsh (fldV w 14 5) (fldV w 7 4)))
  | 3 => mbz (decide (fld w 17 5 = 0 ∧ fld w 12 2 = 0 ∧ fld w 0 7 = 0)) (.ok (.mpar (fldV w 14 3) (fldV w 7 5)))
  | 4 => mbz (decide (fld w 19 3 = 0 ∧ fld w 10 4 = 0 ∧ fld w 0 7 = 0)) (.ok (.mfpar (fldV w 14 5) (fldV w 7 3)))
  | 5 => mbz (decide (fld w 18 3 = 0 ∧ fld w 5 2 = 0)) (.ok (.mldv (fldB w 21) (fldV w 14 4) (fldV w 7 7) (fldV w 0 5)))
  | 6 => mbz (decide (fld w 11 3 = 0 ∧ fld w 5 2 = 0)) (.ok (.mstv (fldB w 21) (fldV w 14 7) (fldV w 7 4) (fldV w 0 5)))
  | 7 => mbz (decide (fld w 18 4 = 0 ∧ fld w 0 14 = 0)) (.ok (.mzero (fldV w 14 4)))
  | 8 => mbz (decide (fld w 19 3 = 0 ∧ fld w 5 9 = 0)) (.ok (.mstat (fldV w 14 5) (fldV w 0 5)))
  | 9 => mbz (decide (fld w 0 22 = 0)) (.ok (.mresume))
  | _ => .error 2

/-- Class 9 of the opcode map (R91). -/
def decodeClass9 (f w : Nat) : Decoded :=
  match f with
  | 0 => mbz (decide (fld w 14 8 = 0)) (.ok (.cpy (fldV w 0 14)))
  | 1 => mbz (decide (fld w 19 3 = 0)) (.ok (.cpyset (fldV w 14 5) (fldV w 0 14)))
  | 2 => mbz (decide (fld w 19 3 = 0 ∧ fld w 12 2 = 0 ∧ fld w 5 2 = 0)) (.ok (.cpyd (fldV w 14 5) (fldV w 7 5) (fldV w 0 5)))
  | 3 => mbz (decide (fld w 19 3 = 0 ∧ fld w 12 2 = 0 ∧ fld w 5 2 = 0)) (.ok (.gath (fldV w 14 5) (fldV w 7 5) (fldV w 0 5)))
  | 4 => mbz (decide (fld w 19 3 = 0 ∧ fld w 12 2 = 0 ∧ fld w 5 2 = 0)) (.ok (.scat (fldV w 14 5) (fldV w 7 5) (fldV w 0 5)))
  | 5 => mbz (decide (fld w 14 8 = 0)) (.ok (.drain (fldV w 0 14)))
  | 6 => mbz (decide (fld w 12 10 = 0 ∧ fld w 5 2 = 0)) (.ok (.ckarm (fldV w 7 5) (fldV w 0 5)))
  | 7 => mbz (decide (fld w 19 3 = 0 ∧ fld w 12 2 = 0 ∧ fld w 5 2 = 0)) (.ok (.stage (fldV w 14 5) (fldV w 7 5) (fldV w 0 5)))
  | 8 => if fld w 18 3 = 7 then .error 6
    else mbz (decide (fld w 19 3 = 0 ∧ fld w 12 3 = 0 ∧ fld w 0 7 = 0)) (.ok (.bmchk (fldB w 18) (fldV w 15 3) (fldV w 7 5)))
  | 9 => mbz (decide (fld w 12 10 = 0 ∧ fld w 0 7 = 0)) (.ok (.bmset (fldV w 7 5)))
  | _ => .error 2

/-- Class 10 of the opcode map (R91). -/
def decodeClass10 (f w : Nat) : Decoded :=
  match f with
  | 0 => mbz (decide (fld w 17 5 = 0 ∧ fld w 5 2 = 0)) (.ok (.send (fldV w 14 3) (fldV w 7 7) (fldV w 0 5)))
  | 1 => mbz (decide (fld w 21 1 = 0 ∧ fld w 10 4 = 0 ∧ fld w 0 7 = 0)) (.ok (.recv (fldV w 14 7) (fldV w 7 3)))
  | 2 => mbz (decide (fld w 12 10 = 0 ∧ fld w 5 2 = 0)) (.ok (.fsend (fldV w 7 5) (fldV w 0 5)))
  | 3 => mbz (decide (fld w 19 3 = 0)) (.ok (.expect (fldV w 14 5) (fldV w 0 14)))
  | 4 => mbz (decide (fld w 19 3 = 0 ∧ fld w 12 2 = 0 ∧ fld w 5 2 = 0)) (.ok (.frecv (fldV w 14 5) (fldV w 7 5) (fldV w 0 5)))
  | 5 => mbz (decide (fld w 12 10 = 0 ∧ fld w 5 2 = 0)) (.ok (.gbind (fldV w 7 5) (fldV w 0 5)))
  | 6 => mbz (decide (fld w 12 10 = 0 ∧ fld w 0 7 = 0)) (.ok (.gfree (fldV w 7 5)))
  | 7 => refuse (decide ((fld w 14 7 ≥ 120 ∨ fld w 7 7 ≥ 120))) 7 (.ok (.red (fldB w 21) (fldV w 14 7) (fldV w 7 7) (fldV w 0 7)))
  | 8 => mbz (decide (fld w 12 10 = 0 ∧ fld w 5 2 = 0)) (.ok (.mcast (fldV w 7 5) (fldV w 0 5)))
  | 9 => mbz (decide (fld w 19 3 = 0 ∧ fld w 12 2 = 0 ∧ fld w 5 2 = 0)) (.ok (.digest (fldV w 14 5) (fldV w 7 5) (fldV w 0 5)))
  | 10 => mbz (decide (fld w 19 3 = 0 ∧ fld w 5 9 = 0)) (.ok (.nstat (fldV w 14 5) (fldV w 0 5)))
  | _ => .error 2

/-- Class 11 of the opcode map (R91). -/
def decodeClass11 (f w : Nat) : Decoded :=
  match f with
  | 0 => mbz (decide (fld w 19 3 = 0)) (.ok (.mfc (fldV w 14 5) (fldV w 0 14)))
  | 1 => mbz (decide (fld w 19 3 = 0)) (.ok (.mtc (fldV w 14 5) (fldV w 0 14)))
  | 2 => mbz (decide (fld w 0 22 = 0)) (.ok (.rfe))
  | 3 => mbz (decide (fld w 12 10 = 0 ∧ fld w 0 7 = 0)) (.ok (.thaw (fldV w 7 5)))
  | 4 => mbz (decide (fld w 12 10 = 0 ∧ fld w 0 7 = 0)) (.ok (.rewind (fldV w 7 5)))
  | 5 => mbz (decide (fld w 19 3 = 0)) (.ok (.swap (fldV w 14 5) (fldV w 0 14)))
  | 6 => mbz (decide (fld w 18 4 = 0 ∧ fld w 12 3 = 0 ∧ fld w 0 7 = 0)) (.ok (.taskpost (fldV w 15 3) (fldV w 7 5)))
  | 7 => mbz (decide (fld w 12 10 = 0 ∧ fld w 0 7 = 0)) (.ok (.taskdone (fldV w 7 5)))
  | 8 => mbz (decide (fld w 19 3 = 0)) (.ok (.twin (fldV w 14 5) (fldV w 0 14)))
  | 9 => mbz (decide (fld w 19 3 = 0)) (.ok (.bank (fldV w 14 5) (fldV w 0 14)))
  | 10 => mbz (decide (fld w 0 22 = 0)) (.ok (.halt))
  | _ => .error 2

/-- Class 12 of the opcode map (R91). -/
def decodeClass12 (f w : Nat) : Decoded :=
  match f with
  | 0 => mbz (decide (fld w 21 1 = 0 ∧ fld w 12 2 = 0)) (refuse (decide (fld w 14 7 ≥ 120)) 7 (.ok (.spillv (fldV w 14 7) (fldV w 7 5) (fldV w 0 7))))
  | 1 => mbz (decide (fld w 21 1 = 0 ∧ fld w 12 2 = 0)) (refuse (decide (fld w 14 7 ≥ 120)) 7 (.ok (.fillv (fldV w 14 7) (fldV w 7 5) (fldV w 0 7))))
  | 2 => mbz (decide (fld w 19 3 = 0 ∧ fld w 12 2 = 0)) (.ok (.spills (fldV w 14 5) (fldV w 7 5) (fldV w 0 7)))
  | 3 => mbz (decide (fld w 19 3 = 0 ∧ fld w 12 2 = 0)) (.ok (.fills (fldV w 14 5) (fldV w 7 5) (fldV w 0 7)))
  | 4 => mbz (decide (fld w 18 4 = 0 ∧ fld w 12 2 = 0)) (.ok (.spillp (fldV w 14 4) (fldV w 7 5) (fldV w 0 7)))
  | 5 => mbz (decide (fld w 18 4 = 0 ∧ fld w 12 2 = 0)) (.ok (.fillp (fldV w 14 4) (fldV w 7 5) (fldV w 0 7)))
  | 6 => if fld w 18 3 = 7 then .error 6
    else mbz (decide (fld w 20 2 = 0 ∧ fld w 14 1 = 0 ∧ fld w 0 7 = 0)) (refuse (decide ((fld w 18 2 = 1 ∧ fld w 7 7 ≥ 32))) 3 (refuse (decide ((fld w 18 2 = 2 ∧ fld w 7 7 ≥ 16))) 3 (refuse (decide ((fld w 18 2 = 3 ∧ fld w 7 7 ≠ 0))) 3 (.ok (.tokchk (fldV w 18 2) (fldV w 15 3) (fldV w 7 7))))))
  | 7 => mbz (decide (fld w 19 3 = 0)) (.ok (.salloc (fldV w 14 5) (fldV w 0 14)))
  | 8 => mbz (decide (fld w 19 3 = 0)) (.ok (.sfree (fldV w 14 5) (fldV w 0 14)))
  | _ => .error 2

/-- The bundle end mark E and the instruction of a slot word (R82, R87). -/
def decodeSlot (w : Nat) : Decoded :=
  match fld w 27 4 with
  | 0 => decodeClass0 (fld w 22 5) w
  | 1 => decodeClass1 (fld w 22 5) w
  | 2 => decodeClass2 (fld w 22 5) w
  | 3 => decodeClass3 (fld w 22 5) w
  | 4 => decodeClass4 (fld w 22 5) w
  | 5 => decodeClass5 (fld w 22 5) w
  | 6 => decodeClass6 (fld w 22 5) w
  | 7 => decodeClass7 (fld w 22 5) w
  | 8 => decodeClass8 (fld w 22 5) w
  | 9 => decodeClass9 (fld w 22 5) w
  | 10 => decodeClass10 (fld w 22 5) w
  | 11 => decodeClass11 (fld w 22 5) w
  | 12 => decodeClass12 (fld w 22 5) w
  | 13 => .ok (.ext (fldV w 0 27))
  | _ => .error 1

/-- Bit [31] of a slot word: the last slot of its bundle (R82). -/
def slotEnds (w : Nat) : Bool := fldB w 31

/-- The micro-operation of a 64-bit microword; none for an illegal microword (R218, R220, R230 CAUSE 3). -/
def decodeMicro (w : Nat) : Option Instr :=
  let ta : BitVec 4 := fldV w 54 4; let tb : BitVec 4 := fldV w 50 4; let tc : BitVec 4 := fldV w 46 4
  let mode : BitVec 2 := fldV w 44 2; let wn : BitVec 4 := fldV w 40 4; let imm : BitVec 40 := fldV w 0 40
  let check (unused : Bool) (i : Instr) : Option Instr := if unused && i.wf then some i else none
  match fld w 58 6 with
  | 0 => check (decide (ta = 0 ∧ tb = 0 ∧ tc = 0 ∧ mode = 0 ∧ wn = 0 ∧ fld w 16 24 = 0)) (.mnop (fldV w 0 16))
  | 1 => check true (.mmac ta tb tc mode wn imm)
  | 2 => check true (.mmacs ta tb tc mode wn imm)
  | 3 => check true (.mmacq ta tb tc mode wn imm)
  | 4 => check (decide (ta = 0 ∧ tb = 0 ∧ mode = 0 ∧ wn = 0 ∧ imm = 0)) (.microMzero tc)
  | 5 => check (decide (ta = 0 ∧ tb = 0)) (.microMldv tc mode wn imm)
  | 6 => check (decide (tb = 0 ∧ tc = 0)) (.microMstv ta mode wn imm)
  | 7 => check (decide (tb = 0 ∧ mode = 0 ∧ wn = 0 ∧ imm = 0)) (.mtrn ta tc)
  | 8 => check (decide (mode = 0 ∧ wn = 0 ∧ imm = 0)) (.maddt ta tb tc)
  | 9 => check (decide (ta = 0 ∧ tb = 0 ∧ tc = 0 ∧ mode = 0 ∧ fld w 13 27 = 0)) (.mloop wn (fldV w 0 13))
  | 10 => check (decide (ta = 0 ∧ tb = 0 ∧ tc = 0 ∧ mode = 0 ∧ fld w 15 25 = 0)) (.mbr wn (fldV w 13 2) (fldV w 0 13))
  | 11 => check (decide (ta = 0 ∧ tb = 0 ∧ tc = 0 ∧ mode = 0 ∧ fld w 32 5 = 0)) (.mpset wn (fldV w 37 3) (fldV w 0 32))
  | 12 => check (decide (fld w 0 58 = 0)) .mstep
  | 13 => check (decide (fld w 0 58 = 0)) .mend
  | _ => none

/-- The decoder on an instruction numbered as spec/opcode_table.json numbers it: one slot word of 32 bits; a word of 64
bits is a microword. -/
def decodeTableWord (nbits w : Nat) : Option Instr :=
  if nbits ≤ 32 then (decodeSlot (w % 2 ^ 32)).toOption else decodeMicro (w % 2 ^ 64)

/-- The match bits of an encoding with 1 operand field placed, each at its low bit. -/
def enc1 (m a ai : Nat) : Nat := m + a * 2 ^ ai

/-- The match bits of an encoding with 2 operand fields placed, each at its low bit. -/
def enc2 (m a ai b bi : Nat) : Nat := m + a * 2 ^ ai + b * 2 ^ bi

/-- The match bits of an encoding with 3 operand fields placed, each at its low bit. -/
def enc3 (m a ai b bi c ci : Nat) : Nat := m + a * 2 ^ ai + b * 2 ^ bi + c * 2 ^ ci

/-- The match bits of an encoding with 4 operand fields placed, each at its low bit. -/
def enc4 (m a ai b bi c ci d di : Nat) : Nat := m + a * 2 ^ ai + b * 2 ^ bi + c * 2 ^ ci + d * 2 ^ di

/-- Bits [30:0] of the slot word of an instruction (R82, R83, R91); 0 for a step that no slot word encodes. -/
def encodeBody (i : Instr) : Nat :=
  match i with
  | .add x d a b => enc4 0 (bnat x) 21 (d.toNat) 14 (a.toNat) 7 (b.toNat) 0
  | .sub x d a b => enc4 4194304 (bnat x) 21 (d.toNat) 14 (a.toNat) 7 (b.toNat) 0
  | .and x d a b => enc4 8388608 (bnat x) 21 (d.toNat) 14 (a.toNat) 7 (b.toNat) 0
  | .or x d a b => enc4 12582912 (bnat x) 21 (d.toNat) 14 (a.toNat) 7 (b.toNat) 0
  | .xor x d a b => enc4 16777216 (bnat x) 21 (d.toNat) 14 (a.toNat) 7 (b.toNat) 0
  | .andn x d a b => enc4 20971520 (bnat x) 21 (d.toNat) 14 (a.toNat) 7 (b.toNat) 0
  | .shl x d a b => enc4 25165824 (bnat x) 21 (d.toNat) 14 (a.toNat) 7 (b.toNat) 0
  | .shr x d a b => enc4 29360128 (bnat x) 21 (d.toNat) 14 (a.toNat) 7 (b.toNat) 0
  | .sar x d a b => enc4 33554432 (bnat x) 21 (d.toNat) 14 (a.toNat) 7 (b.toNat) 0
  | .rotl x d a b => enc4 37748736 (bnat x) 21 (d.toNat) 14 (a.toNat) 7 (b.toNat) 0
  | .min x d a b => enc4 41943040 (bnat x) 21 (d.toNat) 14 (a.toNat) 7 (b.toNat) 0
  | .max x d a b => enc4 46137344 (bnat x) 21 (d.toNat) 14 (a.toNat) 7 (b.toNat) 0
  | .minn x d a b => enc4 50331648 (bnat x) 21 (d.toNat) 14 (a.toNat) 7 (b.toNat) 0
  | .maxn x d a b => enc4 54525952 (bnat x) 21 (d.toNat) 14 (a.toNat) 7 (b.toNat) 0
  | .mul x d a b => enc4 58720256 (bnat x) 21 (d.toNat) 14 (a.toNat) 7 (b.toNat) 0
  | .mulh x d a b => enc4 62914560 (bnat x) 21 (d.toNat) 14 (a.toNat) 7 (b.toNat) 0
  | .mulhn x d a b => enc4 67108864 (bnat x) 21 (d.toNat) 14 (a.toNat) 7 (b.toNat) 0
  | .div x d a b => enc4 71303168 (bnat x) 21 (d.toNat) 14 (a.toNat) 7 (b.toNat) 0
  | .divn x d a b => enc4 75497472 (bnat x) 21 (d.toNat) 14 (a.toNat) 7 (b.toNat) 0
  | .rem x d a b => enc4 79691776 (bnat x) 21 (d.toNat) 14 (a.toNat) 7 (b.toNat) 0
  | .remn x d a b => enc4 83886080 (bnat x) 21 (d.toNat) 14 (a.toNat) 7 (b.toNat) 0
  | .clz x d a => enc3 88080384 (bnat x) 21 (d.toNat) 14 (a.toNat) 7
  | .ctz x d a => enc3 92274688 (bnat x) 21 (d.toNat) 14 (a.toNat) 7
  | .popc x d a => enc3 96468992 (bnat x) 21 (d.toNat) 14 (a.toNat) 7
  | .sext x d a b => enc4 100663296 (bnat x) 21 (d.toNat) 14 (a.toNat) 7 (b.toNat) 0
  | .zext x d a b => enc4 104857600 (bnat x) 21 (d.toNat) 14 (a.toNat) 7 (b.toNat) 0
  | .mov x d a => enc3 109051904 (bnat x) 21 (d.toNat) 14 (a.toNat) 7
  | .csel x d a b => enc4 113246208 (bnat x) 21 (d.toNat) 14 (a.toNat) 7 (b.toNat) 0
  | .kcmp c k a b => enc4 117440512 (c.toNat) 18 (k.toNat) 15 (a.toNat) 7 (b.toNat) 0
  | .kcmpImm c k a i => enc4 119537664 (c.toNat) 18 (k.toNat) 15 (a.toNat) 7 (i.toNat) 0
  | .klog o k a b => enc4 121634816 (o.toNat) 18 (k.toNat) 15 (a.toNat) 7 (b.toNat) 0
  | .addi x d i => enc3 134217728 (bnat x) 21 (d.toNat) 14 (i.toNat) 0
  | .andi x d i => enc3 138412032 (bnat x) 21 (d.toNat) 14 (i.toNat) 0
  | .ori x d i => enc3 142606336 (bnat x) 21 (d.toNat) 14 (i.toNat) 0
  | .xori x d i => enc3 146800640 (bnat x) 21 (d.toNat) 14 (i.toNat) 0
  | .shli x d i => enc3 150994944 (bnat x) 21 (d.toNat) 14 (i.toNat) 0
  | .shri x d i => enc3 155189248 (bnat x) 21 (d.toNat) 14 (i.toNat) 0
  | .sari x d i => enc3 159383552 (bnat x) 21 (d.toNat) 14 (i.toNat) 0
  | .movi x d i => enc3 163577856 (bnat x) 21 (d.toNat) 14 (i.toNat) 0
  | .movhi d i => enc2 167772160 (d.toNat) 14 (i.toNat) 0
  | .muli x d i => enc3 171966464 (bnat x) 21 (d.toNat) 14 (i.toNat) 0
  | .addpc d i => enc2 176160768 (d.toNat) 14 (i.toNat) 0
  | .ext p => enc1 1744830464 (p.toNat) 0
  | .br o => enc1 268435456 (o.toNat) 0
  | .bk p k o => enc3 272629760 (bnat p) 21 (k.toNat) 18 (o.toNat) 0
  | .call o => enc1 276824064 (o.toNat) 0
  | .jr a => enc1 281018368 (a.toNat) 7
  | .callr a => enc1 285212672 (a.toNat) 7
  | .ret => 289406976
  | .loopb o => enc1 293601280 (o.toNat) 0
  | .loopc o => enc1 297795584 (o.toNat) 0
  | .loopset d i => enc2 301989888 (d.toNat) 14 (i.toNat) 0
  | .notch => 306184192
  | .hemsync => 310378496
  | .smpl => 314572800
  | .yield => 318767104
  | .retire => 322961408
  | .setfmt a => enc1 327155712 (a.toNat) 7
  | .nop => 331350016
  | .trapi i => enc1 335544320 (i.toNat) 0
  | .brkpt => 339738624
  | .sstep => 343932928
  | .fence i => enc1 348127232 (i.toNat) 0
  | .ldb x d b o => enc4 402653184 (bnat x) 21 (d.toNat) 14 (b.toNat) 7 (o.toNat) 0
  | .ldbn x d b o => enc4 406847488 (bnat x) 21 (d.toNat) 14 (b.toNat) 7 (o.toNat) 0
  | .ldh x d b o => enc4 411041792 (bnat x) 21 (d.toNat) 14 (b.toNat) 7 (o.toNat) 0
  | .ldhn x d b o => enc4 415236096 (bnat x) 21 (d.toNat) 14 (b.toNat) 7 (o.toNat) 0
  | .ldw x d b o => enc4 419430400 (bnat x) 21 (d.toNat) 14 (b.toNat) 7 (o.toNat) 0
  | .ldwn x d b o => enc4 423624704 (bnat x) 21 (d.toNat) 14 (b.toNat) 7 (o.toNat) 0
  | .ldd x d b o => enc4 427819008 (bnat x) 21 (d.toNat) 14 (b.toNat) 7 (o.toNat) 0
  | .stb x d b o => enc4 432013312 (bnat x) 21 (d.toNat) 14 (b.toNat) 7 (o.toNat) 0
  | .sth x d b o => enc4 436207616 (bnat x) 21 (d.toNat) 14 (b.toNat) 7 (o.toNat) 0
  | .stw x d b o => enc4 440401920 (bnat x) 21 (d.toNat) 14 (b.toNat) 7 (o.toNat) 0
  | .std x d b o => enc4 444596224 (bnat x) 21 (d.toNat) 14 (b.toNat) 7 (o.toNat) 0
  | .amoadd d b o => enc3 448790528 (d.toNat) 14 (b.toNat) 7 (o.toNat) 0
  | .amoswap d b o => enc3 452984832 (d.toNat) 14 (b.toNat) 7 (o.toNat) 0
  | .amocas d b o => enc3 457179136 (d.toNat) 15 (b.toNat) 7 (o.toNat) 0
  | .amomin d b o => enc3 461373440 (d.toNat) 14 (b.toNat) 7 (o.toNat) 0
  | .amomax d b o => enc3 465567744 (d.toNat) 14 (b.toNat) 7 (o.toNat) 0
  | .amominn d b o => enc3 469762048 (d.toNat) 14 (b.toNat) 7 (o.toNat) 0
  | .amomaxn d b o => enc3 473956352 (d.toNat) 14 (b.toNat) 7 (o.toNat) 0
  | .amoand d b o => enc3 478150656 (d.toNat) 14 (b.toNat) 7 (o.toNat) 0
  | .amoor d b o => enc3 482344960 (d.toNat) 14 (b.toNat) 7 (o.toNat) 0
  | .amoxor d b o => enc3 486539264 (d.toNat) 14 (b.toNat) 7 (o.toNat) 0
  | .lookup d b o => enc3 490733568 (d.toNat) 14 (b.toNat) 7 (o.toNat) 0
  | .tagset d b o => enc3 494927872 (d.toNat) 14 (b.toNat) 7 (o.toNat) 0
  | .tagclr b o => enc2 499122176 (b.toNat) 7 (o.toNat) 0
  | .lea d b o => enc3 503316480 (d.toNat) 14 (b.toNat) 7 (o.toNat) 0
  | .vadd m d a b => enc4 536870912 (bnat m) 21 (d.toNat) 14 (a.toNat) 7 (b.toNat) 0
  | .vsub m d a b => enc4 541065216 (bnat m) 21 (d.toNat) 14 (a.toNat) 7 (b.toNat) 0
  | .vmul m d a b => enc4 545259520 (bnat m) 21 (d.toNat) 14 (a.toNat) 7 (b.toNat) 0
  | .vfma m d a b => enc4 549453824 (bnat m) 21 (d.toNat) 14 (a.toNat) 7 (b.toNat) 0
  | .vfms m d a b => enc4 553648128 (bnat m) 21 (d.toNat) 14 (a.toNat) 7 (b.toNat) 0
  | .vmin m d a b => enc4 557842432 (bnat m) 21 (d.toNat) 14 (a.toNat) 7 (b.toNat) 0
  | .vmax m d a b => enc4 562036736 (bnat m) 21 (d.toNat) 14 (a.toNat) 7 (b.toNat) 0
  | .vabs m d a => enc3 566231040 (bnat m) 21 (d.toNat) 14 (a.toNat) 7
  | .vneg m d a => enc3 570425344 (bnat m) 21 (d.toNat) 14 (a.toNat) 7
  | .vand m d a b => enc4 574619648 (bnat m) 21 (d.toNat) 14 (a.toNat) 7 (b.toNat) 0
  | .vor m d a b => enc4 578813952 (bnat m) 21 (d.toNat) 14 (a.toNat) 7 (b.toNat) 0
  | .vxor m d a b => enc4 583008256 (bnat m) 21 (d.toNat) 14 (a.toNat) 7 (b.toNat) 0
  | .vshl m d a b => enc4 587202560 (bnat m) 21 (d.toNat) 14 (a.toNat) 7 (b.toNat) 0
  | .vshr m d a b => enc4 591396864 (bnat m) 21 (d.toNat) 14 (a.toNat) 7 (b.toNat) 0
  | .vsar m d a b => enc4 595591168 (bnat m) 21 (d.toNat) 14 (a.toNat) 7 (b.toNat) 0
  | .vsel m d a b => enc4 599785472 (bnat m) 21 (d.toNat) 14 (a.toNat) 7 (b.toNat) 0
  | .vmov m d a => enc3 603979776 (bnat m) 21 (d.toNat) 14 (a.toNat) 7
  | .vbc m d a => enc3 608174080 (bnat m) 21 (d.toNat) 14 (a.toNat) 7
  | .vaddi m d a i => enc4 612368384 (bnat m) 21 (d.toNat) 14 (a.toNat) 7 (i.toNat) 0
  | .vmuli m d a i => enc4 616562688 (bnat m) 21 (d.toNat) 14 (a.toNat) 7 (i.toNat) 0
  | .vrecip m d a => enc3 620756992 (bnat m) 21 (d.toNat) 14 (a.toNat) 7
  | .vrsqrt m d a => enc3 624951296 (bnat m) 21 (d.toNat) 14 (a.toNat) 7
  | .vexp2 m d a => enc3 629145600 (bnat m) 21 (d.toNat) 14 (a.toNat) 7
  | .vlog2 m d a => enc3 633339904 (bnat m) 21 (d.toNat) 14 (a.toNat) 7
  | .vclamp m d a b => enc4 637534208 (bnat m) 21 (d.toNat) 14 (a.toNat) 7 (b.toNat) 0
  | .vround m d a => enc3 641728512 (bnat m) 21 (d.toNat) 14 (a.toNat) 7
  | .vcmp c p a b => enc4 645922816 (c.toNat) 19 (p.toNat) 15 (a.toNat) 7 (b.toNat) 0
  | .vmulh m d a b => enc4 650117120 (bnat m) 21 (d.toNat) 14 (a.toNat) 7 (b.toNat) 0
  | .vsatadd m d a b => enc4 654311424 (bnat m) 21 (d.toNat) 14 (a.toNat) 7 (b.toNat) 0
  | .vsatsub m d a b => enc4 658505728 (bnat m) 21 (d.toNat) 14 (a.toNat) 7 (b.toNat) 0
  | .vaddw m d a b => enc4 662700032 (bnat m) 21 (d.toNat) 14 (a.toNat) 7 (b.toNat) 0
  | .vmacw m d a b => enc4 666894336 (bnat m) 21 (d.toNat) 14 (a.toNat) 7 (b.toNat) 0
  | .vcvt m d a p => enc4 671088640 (bnat m) 21 (d.toNat) 14 (a.toNat) 7 (p.toNat) 0
  | .vq8 m d a p => enc4 675282944 (bnat m) 21 (d.toNat) 14 (a.toNat) 7 (p.toNat) 0
  | .vdq8 m d a p => enc4 679477248 (bnat m) 21 (d.toNat) 14 (a.toNat) 7 (p.toNat) 0
  | .vredsum m d a b => enc4 683671552 (bnat m) 21 (d.toNat) 14 (a.toNat) 7 (b.toNat) 0
  | .vredmax m d a b => enc4 687865856 (bnat m) 21 (d.toNat) 14 (a.toNat) 7 (b.toNat) 0
  | .vredmin m d a b => enc4 692060160 (bnat m) 21 (d.toNat) 14 (a.toNat) 7 (b.toNat) 0
  | .vscan m d a b => enc4 696254464 (bnat m) 21 (d.toNat) 14 (a.toNat) 7 (b.toNat) 0
  | .vperm m d a b => enc4 700448768 (bnat m) 21 (d.toNat) 14 (a.toNat) 7 (b.toNat) 0
  | .vrot m d a b => enc4 704643072 (bnat m) 21 (d.toNat) 14 (a.toNat) 7 (b.toNat) 0
  | .vshuf m d a b => enc4 708837376 (bnat m) 21 (d.toNat) 14 (a.toNat) 7 (b.toNat) 0
  | .vpackh m d a b => enc4 713031680 (bnat m) 21 (d.toNat) 14 (a.toNat) 7 (b.toNat) 0
  | .vunpk m d a p => enc4 717225984 (bnat m) 21 (d.toNat) 14 (a.toNat) 7 (p.toNat) 0
  | .vrand m d a b => enc4 721420288 (bnat m) 21 (d.toNat) 14 (a.toNat) 7 (b.toNat) 0
  | .vext m d a b => enc4 725614592 (bnat m) 21 (d.toNat) 14 (a.toNat) 7 (b.toNat) 0
  | .vins m d a b => enc4 729808896 (bnat m) 21 (d.toNat) 14 (a.toNat) 7 (b.toNat) 0
  | .vbsum m d a => enc3 734003200 (bnat m) 21 (d.toNat) 14 (a.toNat) 7
  | .vbmax m d a => enc3 738197504 (bnat m) 21 (d.toNat) 14 (a.toNat) 7
  | .vld x d b o => enc4 805306368 (bnat x) 21 (d.toNat) 14 (b.toNat) 7 (o.toNat) 0
  | .vst x d b o => enc4 809500672 (bnat x) 21 (d.toNat) 14 (b.toNat) 7 (o.toNat) 0
  | .vstm x d b o => enc4 851443712 (bnat x) 21 (d.toNat) 14 (b.toNat) 7 (o.toNat) 0
  | .vldx m d a b => enc4 813694976 (bnat m) 21 (d.toNat) 14 (a.toNat) 7 (b.toNat) 0
  | .vstx m d a b => enc4 817889280 (bnat m) 21 (d.toNat) 14 (a.toNat) 7 (b.toNat) 0
  | .vstxa m d a b => enc4 822083584 (bnat m) 21 (d.toNat) 14 (a.toNat) 7 (b.toNat) 0
  | .bset n i => enc2 828243968 (n.toNat) 14 (i.toNat) 0
  | .bseek m n b => enc3 830487552 (bnat m) 21 (n.toNat) 7 (b.toNat) 0
  | .bpos m d n => enc3 834681856 (bnat m) 21 (d.toNat) 14 (n.toNat) 7
  | .bstat m d n => enc3 838876160 (bnat m) 21 (d.toNat) 14 (n.toNat) 7
  | .bstatGather m d => enc2 838860800 (bnat m) 21 (d.toNat) 14
  | .bflush m n => enc2 843070464 (bnat m) 21 (n.toNat) 7
  | .bdone m n => enc2 847264768 (bnat m) 21 (n.toNat) 7
  | .pand d a b => enc3 939524096 (d.toNat) 14 (a.toNat) 7 (b.toNat) 0
  | .por d a b => enc3 943718400 (d.toNat) 14 (a.toNat) 7 (b.toNat) 0
  | .pxor d a b => enc3 947912704 (d.toNat) 14 (a.toNat) 7 (b.toNat) 0
  | .pandn d a b => enc3 952107008 (d.toNat) 14 (a.toNat) 7 (b.toNat) 0
  | .pnot d a => enc2 956301312 (d.toNat) 14 (a.toNat) 7
  | .pmov d a => enc2 960495616 (d.toNat) 14 (a.toNat) 7
  | .pset d a => enc2 964689920 (d.toNat) 14 (a.toNat) 7
  | .pcnt d a => enc2 968884224 (d.toNat) 14 (a.toNat) 7
  | .pfirst d a => enc2 973078528 (d.toNat) 14 (a.toNat) 7
  | .ppack d a => enc2 977272832 (d.toNat) 14 (bnat a) 10
  | .punpk d a => enc2 981467136 (bnat d) 17 (a.toNat) 7
  | .ptest d a m => enc3 985661440 (d.toNat) 14 (a.toNat) 7 (m.toNat) 0
  | .pmask d a => enc2 989855744 (d.toNat) 14 (a.toNat) 7
  | .mcall i => enc1 1073741824 (i.toNat) 12
  | .mtsh t a => enc2 1077936128 (t.toNat) 14 (a.toNat) 7
  | .mfsh d t => enc2 1082130432 (d.toNat) 14 (t.toNat) 7
  | .mpar m a => enc2 1086324736 (m.toNat) 14 (a.toNat) 7
  | .mfpar d m => enc2 1090519040 (d.toNat) 14 (m.toNat) 7
  | .mldv x t a b => enc4 1094713344 (bnat x) 21 (t.toNat) 14 (a.toNat) 7 (b.toNat) 0
  | .mstv x d t b => enc4 1098907648 (bnat x) 21 (d.toNat) 14 (t.toNat) 7 (b.toNat) 0
  | .mzero t => enc1 1103101952 (t.toNat) 14
  | .mstat d s => enc2 1107296256 (d.toNat) 14 (s.toNat) 0
  | .mresume => 1111490560
  | .mnop _ => 0
  | .mmac _ _ _ _ _ _ => 0
  | .mmacs _ _ _ _ _ _ => 0
  | .mmacq _ _ _ _ _ _ => 0
  | .microMzero _ => 0
  | .microMldv _ _ _ _ => 0
  | .microMstv _ _ _ _ => 0
  | .mtrn _ _ => 0
  | .maddt _ _ _ => 0
  | .mloop _ _ => 0
  | .mbr _ _ _ => 0
  | .mpset _ _ _ => 0
  | .mstep => 0
  | .mend => 0
  | .cpy i => enc1 1207959552 (i.toNat) 0
  | .cpyset d i => enc2 1212153856 (d.toNat) 14 (i.toNat) 0
  | .cpyd d a b => enc3 1216348160 (d.toNat) 14 (a.toNat) 7 (b.toNat) 0
  | .gath d a b => enc3 1220542464 (d.toNat) 14 (a.toNat) 7 (b.toNat) 0
  | .scat d a b => enc3 1224736768 (d.toNat) 14 (a.toNat) 7 (b.toNat) 0
  | .drain i => enc1 1228931072 (i.toNat) 0
  | .ckarm a b => enc2 1233125376 (a.toNat) 7 (b.toNat) 0
  | .stage d a b => enc3 1237319680 (d.toNat) 14 (a.toNat) 7 (b.toNat) 0
  | .bmchk c k a => enc3 1241513984 (bnat c) 18 (k.toNat) 15 (a.toNat) 7
  | .bmset a => enc1 1245708288 (a.toNat) 7
  | .send c a b => enc3 1342177280 (c.toNat) 14 (a.toNat) 7 (b.toNat) 0
  | .recv d c => enc2 1346371584 (d.toNat) 14 (c.toNat) 7
  | .fsend a b => enc2 1350565888 (a.toNat) 7 (b.toNat) 0
  | .expect d i => enc2 1354760192 (d.toNat) 14 (i.toNat) 0
  | .frecv d a b => enc3 1358954496 (d.toNat) 14 (a.toNat) 7 (b.toNat) 0
  | .gbind a b => enc2 1363148800 (a.toNat) 7 (b.toNat) 0
  | .gfree a => enc1 1367343104 (a.toNat) 7
  | .red m d a b => enc4 1371537408 (bnat m) 21 (d.toNat) 14 (a.toNat) 7 (b.toNat) 0
  | .mcast a b => enc2 1375731712 (a.toNat) 7 (b.toNat) 0
  | .digest d a b => enc3 1379926016 (d.toNat) 14 (a.toNat) 7 (b.toNat) 0
  | .nstat d s => enc2 1384120320 (d.toNat) 14 (s.toNat) 0
  | .mfc d i => enc2 1476395008 (d.toNat) 14 (i.toNat) 0
  | .mtc d i => enc2 1480589312 (d.toNat) 14 (i.toNat) 0
  | .rfe => 1484783616
  | .thaw a => enc1 1488977920 (a.toNat) 7
  | .rewind a => enc1 1493172224 (a.toNat) 7
  | .swap d i => enc2 1497366528 (d.toNat) 14 (i.toNat) 0
  | .taskpost k a => enc2 1501560832 (k.toNat) 15 (a.toNat) 7
  | .taskdone a => enc1 1505755136 (a.toNat) 7
  | .twin d i => enc2 1509949440 (d.toNat) 14 (i.toNat) 0
  | .bank d i => enc2 1514143744 (d.toNat) 14 (i.toNat) 0
  | .halt => 1518338048
  | .spillv d b o => enc3 1610612736 (d.toNat) 14 (b.toNat) 7 (o.toNat) 0
  | .fillv d b o => enc3 1614807040 (d.toNat) 14 (b.toNat) 7 (o.toNat) 0
  | .spills d b o => enc3 1619001344 (d.toNat) 14 (b.toNat) 7 (o.toNat) 0
  | .fills d b o => enc3 1623195648 (d.toNat) 14 (b.toNat) 7 (o.toNat) 0
  | .spillp d b o => enc3 1627389952 (d.toNat) 14 (b.toNat) 7 (o.toNat) 0
  | .fillp d b o => enc3 1631584256 (d.toNat) 14 (b.toNat) 7 (o.toNat) 0
  | .tokchk c k a => enc3 1635778560 (c.toNat) 18 (k.toNat) 15 (a.toNat) 7
  | .salloc d i => enc2 1639972864 (d.toNat) 14 (i.toNat) 0
  | .sfree d i => enc2 1644167168 (d.toNat) 14 (i.toNat) 0
  | .freezeRecordsComplete _ => 0
  | .eventTake _ => 0
  | .freezeActionEffect _ _ _ => 0
  | .slipDebtSkip _ => 0
  | .runBudgetExpiry _ _ => 0
  | .sourceTick _ _ _ => 0
  | .samplePayloadArrival _ _ _ _ => 0
  | .mediaPduIngress _ _ _ _ _ _ _ => 0
  | .hostRecordTick _ _ => 0
  | .ptmRequest => 0
  | .ptmTimeout _ => 0
  | .regionTick _ => 0
  | .acquireComplete _ => 0
  | .tickLoss _ => 0
  | .holdtExpiry _ => 0
  | .relock _ => 0
  | .hem _ => 0
  | .patternRestart _ _ => 0
  | .admission _ => 0
  | .preloadComplete _ _ => 0
  | .taskAging _ => 0
  | .completionBitTest _ _ => 0
  | .ringReturn _ => 0
  | .dupCompare _ _ => 0
  | .twinCompare _ _ => 0
  | .copyComplete _ _ => 0
  | .stageComplete _ => 0
  | .bmsetBitSet _ _ => 0
  | .sendArrival _ _ _ _ => 0
  | .bankWakeComplete _ _ => 0
  | .fragmentArrival _ _ => 0
  | .messageClose _ => 0
  | .groupDrainEnd _ _ => 0
  | .fragmentExpiry _ => 0
  | .pathDown _ => 0
  | .laneRetrainComplete _ => 0
  | .doorbell _ => 0
  | .submit _ _ _ _ _ _ _ _ => 0
  | .cards _ _ _ => 0
  | .ttypes _ _ _ => 0
  | .region _ _ _ _ _ _ => 0
  | .regionStart _ => 0
  | .regionStop _ => 0
  | .wheel _ _ => 0
  | .range _ _ _ => 0
  | .crate _ _ => 0
  | .preempt _ => 0
  | .resume _ => 0
  | .kill _ => 0
  | .sanitise => 0
  | .sanitiseComplete => 0
  | .jobEnd _ => 0
  | .killWrite _ _ => 0
  | .dhold _ _ => 0
  | .dholdKill _ _ => 0
  | .dholdKillJob _ _ => 0
  | .dretry _ => 0
  | .dringConfigWrite _ _ _ => 0
  | .savebWrite _ _ => 0
  | .gcfgWrite _ _ => 0
  | .gstepWrite _ _ => 0
  | .crcfgWrite _ _ => 0
  | .holdtWrite _ _ => 0
  | .rsync _ => 0
  | .tagTableClear _ => 0
  | .clrpend _ _ => 0
  | .clrlate _ => 0
  | .clrloss _ => 0
  | .clrdig _ => 0
  | .clrnov _ => 0
  | .clrcrc _ => 0
  | .counterClear _ _ => 0
  | .spare _ _ => 0
  | .lgrt _ => 0
  | .ppr _ => 0
  | .pprCopyComplete _ => 0
  | .ldgo => 0
  | .loadListComplete => 0
  | .cringConfigWrite _ _ => 0
  | .bar2winWrite _ => 0
  | .hstailWrite _ _ => 0
  | .registerWrite _ _ _ => 0
  | .bar2Read _ _ => 0
  | .bar2Write _ _ _ => 0
  | .flr => 0
  | .coldPowerUp _ => 0
  | .surpriseLinkLoss => 0
  | .telemetry => 0
  | .freezeDump _ => 0
  | .warmReset => 0
  | .coldReset => 0
  | .counterAdvance _ _ _ _ => 0
  | .getMeasurements _ => 0
  | .thermalWarning => 0
  | .thermalTrip => 0
  | .powerTrip => 0
  | .hbmScrub _ _ _ => 0
  | .controlTwinMismatch _ => 0
  | .ptmResponse _ => 0
  | .pldmFirmwareUpdate _ _ => 0
  | .segmentExpansionComplete _ _ => 0
  | .hbmRefresh _ => 0
  | .phyRecalibration _ => 0

/-- The slot word of an instruction with its E bit (R82). -/
def encode (last : Bool) (i : Instr) : BitVec 32 := BitVec.ofNat 32 (bnat last * 2 ^ 31 + encodeBody i)

/-- The microword of a micro-operation (R218); 0 for a step that is none. -/
def encodeMicro (i : Instr) : BitVec 64 :=
  let word (op : Nat) (ta tb tc : BitVec 4) (mode : BitVec 2) (wn : BitVec 4) (imm : Nat) : BitVec 64 :=
    BitVec.ofNat 64 (op * 2 ^ 58 + ta.toNat * 2 ^ 54 + tb.toNat * 2 ^ 50 + tc.toNat * 2 ^ 46 + mode.toNat * 2 ^ 44 + wn.toNat * 2 ^ 40 + imm)
  match i with
  | .mnop n => word 0 0 0 0 0 0 n.toNat
  | .mmac ta tb tc mode wn imm => word 1 ta tb tc mode wn imm.toNat
  | .mmacs ta tb tc mode wn imm => word 2 ta tb tc mode wn imm.toNat
  | .mmacq ta tb tc mode wn imm => word 3 ta tb tc mode wn imm.toNat
  | .microMzero tc => word 4 0 0 tc 0 0 0
  | .microMldv tc mode wn imm => word 5 0 0 tc mode wn imm.toNat
  | .microMstv ta mode wn imm => word 6 ta 0 0 mode wn imm.toNat
  | .mtrn ta tc => word 7 ta 0 tc 0 0 0
  | .maddt ta tb tc => word 8 ta tb tc 0 0 0
  | .mloop wn target => word 9 0 0 0 0 wn target.toNat
  | .mbr wn cond target => word 10 0 0 0 0 wn (cond.toNat * 2 ^ 13 + target.toNat)
  | .mpset wn op value => word 11 0 0 0 0 wn (op.toNat * 2 ^ 37 + value.toNat)
  | .mstep => word 12 0 0 0 0 0 0
  | .mend => word 13 0 0 0 0 0 0
  | _ => 0

end Sys2Proof
end

