-- ==== Sys2Proof/Config.lean ====
section
/-! DEFINITION. What an implementation of the G9 fixes and the values the spec leaves open: constants with no body, which no
proof can see into. -/

namespace Sys2Proof.Config

/-- The fused SHA-384 of the root public keys, ROOTH (R423; log 16). -/
opaque rooth : BitVec 384

/-- The firmware image of each flash slot of each class at power-up (R421, R423; log 16). -/
opaque flash : (cls slot : Nat) → Option Image

/-- The header bytes of an image that its signature covers (R423): the spec gives the fields and not their places (log 20). -/
opaque headerBytes : Image → List Byte

/-- The image that the bytes of a firmware plane hold, if any (R423, R429; log 20). -/
opaque parseImage : List Byte → Option Image

/-- The bytes of a counter-advance record that its signature covers (R426; log 20). -/
opaque recordBytes : (cls : Nat) → (version : BitVec 32) → List Byte

/-- What MR0 receives for the boot ROM's version (R427; log 16). -/
opaque bootRom : List Byte

/-- Size of the BAR2 window as the host set it, in powers of two of 1 GiB (R412, R413; log 48). -/
opaque bar2Log : Nat

/-- The private half of the device key, which never leaves the device (R427; log 19). -/
opaque deviceKey : Nat

/-- The bytes of a measurement exchange that the device signs, and the number of ECDSA's own that it draws for the signature, one that makes neither
r nor s zero (R427; log 19). -/
opaque signedBytes : (nonce : List Byte) → (mrs : List (BitVec 384)) → List Byte
opaque signNumber : (nonce : List Byte) → (mrs : List (BitVec 384)) → Nat

/-- The rows, by controller, that fail the march test of a cold reset, by serial number (R431; log 156). -/
opaque marchRows : (serial : Nat) → List (Nat × Nat)

/-- The 4 KiB device pages that a row holds (R431; log 156). -/
opaque rowPages : (ctrl row : Nat) → List Nat

/-- Whether a failing core's state can be read, by core and serial number (R432; log 82). -/
opaque coreReads : (core serial : Nat) → Bool

/-- Spare rows of a memory controller's stack (R431, R434; log 49). -/
opaque spareRows : (ctrl : Nat) → Nat

/-- Cycles of the pairs' clock that a sanitise, its device memory, a lane group's training, a row copy and a load list take, by serial number: the spec
bounds the first two (R419, R433) and leaves the others open (log 21). -/
opaque sanitiseCycles : (serial : Nat) → Nat
opaque sanitiseDeviceCycles : (serial : Nat) → Nat
opaque retrainCycles : (serial : Nat) → Nat
opaque pprCycles : (serial : Nat) → Nat
opaque loadCycles : (serial : Nat) → Nat

/-- What the host's memory returns for a byte the package reads, at each stage's own serial number (R261, R414; log 15). -/
opaque hostByte : (serial addr : Nat) → Byte

/-- The number of cycles a preload takes: the spec counts them in no budget and gives none (R315, R367; log 21). -/
opaque preloadCycles : (cluster core ctx job card : Nat) → Nat

/-- A value the spec leaves open, drawn afresh for each serial number (log 22). -/
opaque freeWord : Nat → Word

/-- The coarse scale of a row for which the routine has formed none, by the core, the row and the cycle (R223; log 34). -/
opaque freeScale : (core row age : Nat) → BitVec 32

/-- The output of a LINEAR gusset at a consumer tick that finds no entry visible, by gusset and age (R59; log 44). -/
opaque freeLinear : (gusset age : Nat) → BitVec 6144

/-- The avtp_timestamp of an emitted PDU, by source and sequence number (R42, R51; log 144). -/
opaque freeStamp : (u seq : Nat) → BitVec 32

/-- The bytes of a freeze record that the spec gives no content: IDLE where IDLEK is not 0, and what follows the last entry (R378,
R379, R390), by core, context, region count and byte (log 37). -/
opaque freeRecord : (core ctx count i : Nat) → Byte

/-- The bytes of a seam-entry record in the save area, whose content the spec does not give, by core, context, region count and byte (R364;
log 163). -/
opaque freeSeam : (core ctx count i : Nat) → Byte

/-- What the recovery loop of a source finds at its n-th tick from a host record: the spec gives the loop's limits (R63, R64) and not its
dynamics (log 42). -/
opaque hostLoop : (u n : Nat) → LoopObs

end Sys2Proof.Config
end

