-- ==== Sys2Proof/Machine/State.lean ====
section
/-! DEFINITION. The state of the G9 as plain data: contexts, cores, regions, clusters, control pairs and the package, the
faults and refusals of a step, and the machine right after reset. Indexed state is a list of (index, value) pairs; an index
that is not listed holds the default of its type. -/

namespace Sys2Proof.Machine

/-- Indexed state: (index, value) pairs with rising index; an unlisted index holds the default value (log 5). -/
abbrev SMap (α : Type) := List (Nat × α)

/-- A memory: its non-zero bytes with addresses strictly rising, the aligned 8-byte words marked uncorrectable (R305, R205),
and those that hold a correctable single-bit error (R305), both as word indices. An unlisted byte reads 0 (log 15). -/
structure Memory where
  cells : List Host.Cell
  bad   : List Nat
  soft  : List Nat
deriving DecidableEq, Repr, Inhabited

/-- A vector register and its poison mark (R161). -/
structure VReg where
  val    : VWord
  poison : Bool
deriving DecidableEq, Repr, Inhabited

/-- A scalar register and its poison mark (R133). -/
structure Scalar where
  val    : Word
  poison : Bool
deriving DecidableEq, Repr, Inhabited

/-- Where a result in flight lands (R379): a scalar, a flag, a physical predicate, the bytes under `mask` of a physical
vector register, a control register, or the pending FMT. -/
inductive Landing where
  | s (n : Nat) (v : Word)
  | k (n : Nat) (v : Bool)
  | p (n : Nat) (v : Pred)
  | v (n : Nat) (val : VWord) (mask : ByteMask)
  | ctl (num : Nat) (v : Word)
  | fmt (v : BitVec 22)
deriving DecidableEq, Repr

/-- One register result in flight (R89, R379): readable by a bundle issued at region age `due`; `ord` is the place of its slot in
issue order, 8 times its bundle's issue age plus its position; `poison` if it lands marked. -/
structure Result where
  due    : Nat
  ord    : Nat
  what   : Landing
  poison : Bool
deriving DecidableEq, Repr

/-- What a bobbin is bound to (R191, R193), as bset took it from its entry. -/
structure Binding where
  kind   : Nat
  src    : Nat
  gus    : Nat
  strict : Bool
  base   : Nat
  cnt    : List Nat
  str    : List Int
  fill   : BitVec 32
deriving DecidableEq, Repr, Inhabited

/-- A bobbin (R191 to R199): its binding, the age from which pops and pushes may use it, stream position, EOS and GAP, and
the changes that bseek has due. -/
structure Bobbin where
  bound  : Option Binding
  usable : Nat
  pos    : Nat
  eos    : Bool
  gap    : Bool
  /-- bseeks issued and not yet in force: age, position, EOS (R197) -/
  seeks  : List (Nat × Nat × Bool)
deriving DecidableEq, Repr, Inhabited

/-- A footprint of a job card (R394). -/
structure Footprint where
  j     : Nat
  write : Bool
  base  : Nat
  len   : Nat
deriving DecidableEq, Repr, Inhabited

/-- The task a context holds (R16, R393 to R395, R403), with the values of its admission (R411). -/
structure Task where
  /-- the dispatcher's name for the task: posting order in its cluster -/
  uid    : Nat
  job    : Nat
  type   : Nat
  tag    : Nat
  prio   : Nat
  card   : Nat
  budget : Nat
  act0   : Nat
  act1   : Nat
  fps    : List Footprint
  ssCores : Nat
  ssClus : Nat
  spad   : Nat × Nat
  tile   : Nat × Nat
  seg    : Bool
  pree   : Bool
  entry  : Nat
  /-- argument words for s1 to s8 -/
  args   : List Word
  record : List Word
  /-- 0 a single task, 1 the primary, 2 the duplicate of a duplicated one (R440) -/
  dup    : Nat
deriving DecidableEq, Repr, Inhabited

/-- Whether and when a context issues (R18, R22). Ages are cycles the region has really run; `cyc` waits for the core's CYC. -/
inductive Run where
  /-- no run: the task waits to be chosen, or there is no task -/
  | none
  /-- issues at the first cycle whose age is at least `a` -/
  | at (a : Nat)
  /-- issues at the first cycle in which CYC is at least `c` (R67, R144) -/
  | cyc (c : Nat)
  /-- held by FENCE with a mask: what was issued before the age given (R149) -/
  | fence (mask i : Nat)
  /-- held by DRAIN: scope, its issue age, the first age at which it may issue so far as completed work tells, and the window closes
  that it still waits for (R260) -/
  | drain (scope a t : Nat) (closes : List Nat)
  /-- held at an SSTEP barrier issued at this age (R148) -/
  | sstep (a : Nat)
  /-- waiting at a rendezvous notch for the age given (R295) -/
  | rendezvous (a : Nat)
  /-- a control context halted by HALT (R160) -/
  | halted
deriving DecidableEq, Repr, Inhabited

/-- The seam-entry record (R146), with the counts that REWIND gives back (R281, R352). -/
structure Seam where
  pc      : Nat
  /-- E of R295; before cycle 0 for a task whose first bundle issues in cycle 0 -/
  e       : Int
  lc      : Word
  rot     : Nat
  rrb     : Nat
  prb     : Nat
  pp      : Option Nat
  hp      : Option Nat
  fmt     : BitVec 22
  masksel : BitVec 8
  bobs    : List (Nat × Bobbin)
  /-- segment header address, in segment mode (R303) -/
  seg     : Nat
  /-- expect posts made since, by decode class (R281) -/
  posts   : SMap Nat
  /-- send and digest sequence counters of the core at entry: (group, value) (R352) -/
  seqs    : List (Nat × Nat)
  dseqs   : List (Nat × Nat)
deriving DecidableEq, Repr, Inhabited

/-- A fill in flight (R266): token, age at which it lands, and the register (0 vector physical, 1 scalar, 2 predicate). -/
structure FillTok where
  tok  : Nat
  due  : Nat
  kind : Nat
  reg  : Nat
deriving DecidableEq, Repr, Inhabited

/-- An armed range (R256): first byte, length, and the serial numbers of the copies by whose completions it disarms. -/
structure Armed where
  base   : Nat
  len    : Nat
  copies : List Nat
deriving DecidableEq, Repr, Inhabited

/-- An expanded segment (R301, R302): its header's address, its words, the word that makes it malformed, and its NEXT. -/
structure Segment where
  hdr   : Nat
  words : List (BitVec 32)
  bad   : Option (BitVec 32)
  next  : Nat
deriving DecidableEq, Repr, Inhabited

/-- The loop buffer of compressed fetch (R301 to R303): the half that executes, the header under expansion or last expanded
(0xFFFF: none), the age at which its expansion ends, once it has begun, and the other half once expanded. -/
structure SegBuf where
  cur   : Option Segment
  ptr   : Nat
  due   : Option Nat
  other : Option Segment
  /-- the half that executes next is a task's first segment, or a rewind's, still to be expanded: the run waits for it (R301, R303) -/
  waits : Bool
deriving DecidableEq, Repr, Inhabited

/-- A TASKDONE whose edges are still to be satisfied (R279): its issue age, the first age at which it may satisfy them so far as completed
work tells, and its footprint mask. -/
structure TaskDone where
  issued : Nat
  from_  : Nat
  mask   : Nat
deriving DecidableEq, Repr, Inhabited

/-- A hardware context (R12, first row; R66, R75, R77, R78, R81, R143, R146, R190, R386). -/
structure Ctx where
  pc      : BitVec 16
  s       : SMap Scalar
  k       : SMap Bool
  p       : SMap Pred
  vwb     : Nat
  vws     : Nat
  rot     : Nat
  rrb     : Nat
  prb     : Nat
  lc      : Word
  masksel : BitVec 8
  fmt     : BitVec 22
  slim    : BitVec 22
  trapc   : BitVec 8
  trapi   : Word
  pp      : Option Nat
  hp      : Option Nat
  gst     : Bool
  /-- ages at which a `bstat gather` clears GST (R199) -/
  gstClr  : List Nat
  rwf     : Bool
  toks    : List FillTok
  inflight : List Result
  armed   : List Armed
  task    : Option Task
  run     : Run
  /-- CYC of the run's first bundle, from which the budget counts; none before it (R27; log 36) -/
  runFrom : Option Nat
  /-- the first bundle of the task has not issued (R146) -/
  fresh   : Bool
  /-- LC, RRB and PRB as a loop closed in this cycle leaves them: they stand over results that take force with them (R89) -/
  loop    : Option (Word × Nat × Nat)
  seam    : Option Seam
  segbuf  : Option SegBuf
  /-- a pre-emption waits for the next performed notch (R390) -/
  preempt : Bool
  /-- launch signature of a duplicated task (R440) -/
  launch  : Word
  /-- fsends, mcasts and digests: the age of issue and the window close, in region 0 counts (R148, R260) -/
  closes  : List (Nat × Nat)
  /-- edges of TASKDONEs to satisfy (R279) -/
  taskdone : List TaskDone
  /-- groups on which the seam has sent, or digested (R352) -/
  sent    : List (Bool × Nat)
deriving DecidableEq, Repr, Inhabited

/-- A context that holds a task no longer: its window size is 0 (R14). -/
def Ctx.emptied (c : Ctx) : Ctx :=
  { c with task := none, run := .none, runFrom := none, seam := none, segbuf := none, preempt := false, vwb := 0, vws := 0 }

/-- A result of MSTV in flight: the age at which it is readable, its physical register, value and mark, and the context whose register
it is (R225). -/
structure MxResult where
  due    : Nat
  reg    : Nat
  val    : VWord
  poison : Bool
  ctx    : Nat
deriving DecidableEq, Repr, Inhabited

/-- A value of cpyset to come (R246): the age from which it counts, the context that set it, register, value. -/
structure EngSet where
  due : Nat
  ctx : Nat
  reg : Nat
  val : Word
deriving DecidableEq, Repr, Inhabited

/-- A value of mtsh or mpar to come (R212): the age from which it counts, the context that set it, a shape or an m register, value. -/
structure CoreSet where
  due   : Nat
  ctx   : Nat
  shape : Bool
  reg   : Nat
  val   : Word
deriving DecidableEq, Repr, Inhabited

/-- The matrix unit (R216, R217, R233). STATE: 0 IDLE, 1 RUNNING, 2 HELD. -/
structure Matrix where
  state : Nat
  cause : Nat
  rout  : Nat
  xdone : Nat
  stepa : Nat
  upc   : Nat
  w     : SMap (BitVec 32)
  wsnap : SMap (BitVec 32)
  supp  : Nat
  /-- coarse scales once formed: FP32 bits of each row (R223) -/
  g     : Option (List (BitVec 32))
  fmt   : BitVec 22
  shapes : SMap Word
  plane : Nat
  path  : Nat
  /-- age of the MCALL or MRESUME that set it running (R149) -/
  called : Nat
  /-- context whose window the routine uses -/
  ctx   : Nat
  vwb   : Nat
  vws   : Nat
  /-- context charged with a fault, and its task (R232) -/
  owner : Nat
  ownerUid : Option Nat
  /-- the microword that occupies the unit: its address, the age it began, the ages it takes -/
  began : Nat
  takes : Nat
  /-- address of the next microword, and the age at which it begins -/
  npc   : Nat
  nextAt : Nat
  /-- the micro-operation in progress -/
  op    : Option Instr
  /-- operand X of the micro-operation in progress (R219) -/
  x     : Nat
  /-- operand bytes latched at the first cycle of a block or of MTRN (R222, R226) -/
  latch : List (List Nat)
  /-- MSTV results in flight (R225) -/
  mres  : List MxResult
deriving DecidableEq, Repr, Inhabited

/-- One iteration of a copy (R247, R250): engine addresses, source bytes, and the beats its path gives. -/
structure Iter where
  src   : Word
  dst   : Word
  len   : Nat
  /-- base latency and width of the path (R250, R319) -/
  base  : Nat
  width : Nat
  /-- wheels that the data phase consumes a slot of (R291) -/
  wheels : List Nat
  /-- D, the age at which its data phase begins (R251) -/
  d     : Nat
  /-- ages from its first read beat to D: base + stage latencies - 2 (R322) -/
  lead  : Nat
  /-- bytes written after its stages, and write beats (R251) -/
  out   : Nat
  beats : Nat
  /-- its data phase has claimed the slots of its wheels in which it starts (R251, R252) -/
  claimed : Bool
  /-- source bytes read so far, with their error marks -/
  got   : List (Byte × Bool)
deriving DecidableEq, Repr, Inhabited

/-- The kind of work an engine holds (R249). -/
inductive CopyKind where
  | plain
  | gath
  | scat
  /-- bmchk: flag, inverse, bit -/
  | bmchk (k : Nat) (inv : Bool) (bit : Nat)
  | bmset (bit : Nat)
deriving DecidableEq, Repr, Inhabited

/-- Work outstanding on a copy engine (R249 to R251, R258, R259). -/
structure Copy where
  serial : Nat
  kind   : CopyKind
  ctx    : Nat
  uid    : Option Nat
  act    : Nat
  stg    : Nat
  fmt    : BitVec 22
  /-- the iterations not yet completed, the current one first -/
  iters  : List Iter
  /-- the job of its task -/
  job    : Nat
  /-- the index list: its address, its indices read so far, and the list's length; the table offsets that an element may
  touch, from the first to before the second (R259) -/
  lim    : Nat × Nat
  list   : Nat
  idx    : List (BitVec 32)
  /-- the elements whose index was read with an uncorrectable error (R264) -/
  idxBad : List Nat
  nidx   : Nat
  esz    : Nat
  strict : Bool
  add    : Bool
  fill   : BitVec 32
  /-- issue age -/
  issued : Nat
  /-- a BANKOFF event has been posted for it (R306) -/
  bankEv : Bool
deriving DecidableEq, Repr, Inhabited

/-- A copy engine (R245, R249). -/
structure Engine where
  csrc  : Word
  cdst  : Word
  cdesc : Word
  cfill : BitVec 32
  stlen : BitVec 32
  /-- values of cpyset to come (R246) -/
  sets  : List EngSet
  copies : List Copy
deriving DecidableEq, Repr, Inhabited

/-- A receive channel (R269): content, and whether its last arrival has not been received. -/
structure Channel where
  val : VWord
  new : Bool
deriving DecidableEq, Repr, Inhabited

/-- A configuration plane of a core (R156, R428). -/
structure Plane where
  imem : SMap (BitVec 32)
  micro : SMap (BitVec 64)
  rout : SMap (BitVec 32)
  btab : SMap (BitVec 256)
  ctab : SMap (BitVec 1024)
  /-- dispatcher firmware, of a control core; sideband firmware, of control core 384 (kinds 4 and 5 of R428) -/
  fw   : Memory
  sfw  : Memory
deriving DecidableEq, Repr, Inhabited

/-- A compute core, or a control core (R12 second row, R122). -/
structure Core where
  ctxs  : SMap Ctx
  m     : SMap (BitVec 32)
  shapes : SMap Word
  /-- values of mpar and mtsh to come (R212; log 32) -/
  sets  : List CoreSet
  v     : SMap VReg
  tile  : Memory
  mx    : Matrix
  eng   : SMap Engine
  bob   : SMap Bobbin
  chan  : SMap Channel
  plane0 : Plane
  plane1 : Plane
  /-- bit i: plane of kind i that is active (R156) -/
  active : BitVec 6
  /-- bit i: the shadow plane of kind i is complete (R428) -/
  complete : BitVec 6
  /-- planes to flip at the next performed notch (R156) -/
  flips : BitVec 6
  /-- notches performed since reset (R427) -/
  notches : Nat
  /-- the context whose run holds the core -/
  cur   : Option Nat
  /-- the age from which the next run may issue (R18) -/
  gapTo : Nat
  /-- context last chosen at each priority level (R406) -/
  last  : SMap Nat
  /-- cycles by which CYC stands behind the region's free count (R295) -/
  lag   : Nat
  /-- the age at which the core issues again after a rendezvous wait: CYC is held before it (R295) -/
  heldTo : Nat
  /-- waits owed at the first performed notch with CYC at least F (R295): (F, s) -/
  owed  : List (Nat × Nat)
  twin  : BitVec 2
  /-- of a follower just joined: the age before which its matrix unit and engines stand still, two cycles behind its lead (log 45) -/
  still : Nat
  sig   : Word
  /-- of the lead of a twin pair: what it read from outside the core, by age and kind of read, for its follower two cycles later
  (R439) -/
  log   : List (Nat × Nat × List Byte × Bool)
  /-- commit records of the cycle: order, context, bytes (R438) -/
  commits : List (Nat × Nat × List Byte)
  /-- commit signatures of the last cycles, newest first (R438, R389) -/
  sigs  : List Word
  /-- of a lead just split: by what the pair's signatures of the last cycle before the hem differ (R438, R447) -/
  parted : Word
  /-- lost messages due at the next clean notch (R349): information words -/
  losses : List Word
  /-- of a follower: bundles that its lead was thawed past and that it passes in turn (R155, R389): context, address of the bundle,
  address of the one that follows -/
  passes : List (Nat × Nat × Nat)
  /-- the number of the next copy of the core's engines (R249, R256) -/
  copySerial : Nat
  /-- registers that hold a single-bit error still to be corrected (R443; log 178): kind (0 vector, 1 scalar, 2 predicate), context (0 for a
  vector register), register -/
  soft : List (Nat × Nat × Nat)
deriving DecidableEq, Repr, Inhabited

/-- One context of a freeze (R377, R378, R384): its KIND, cause and word, the action it has received. -/
structure FreezeRec where
  core  : Nat
  ctx   : Nat
  kind  : Nat
  trapc : BitVec 8
  trapi : Word
  act   : Option FreezeAct
  /-- the action has taken effect -/
  done  : Bool
  /-- a bundle raised the fault: skip passes it (R155) -/
  byBundle : Bool
deriving DecidableEq, Repr, Inhabited

/-- An event posted to a pair (R372, R373, R382). -/
structure Event where
  cause : Nat
  info  : Word
  core  : Nat
  ctx   : Nat
  region : Nat
  frz   : Bool
  rwf   : Bool
deriving DecidableEq, Repr, Inhabited

/-- A freeze record still to be written (R377): the pair cycle in which it is complete, the cluster whose save area takes it, its address
and bytes, and the freeze event posted with it, if it is of KIND 1. -/
structure LateRec where
  at_   : Nat
  clus  : Nat
  addr  : Nat
  data  : List Byte
  ev    : Option Event
deriving DecidableEq, Repr, Inhabited

/-- A region (R46, R299) with the model's own counters of the cycles it has run (log 4). -/
structure Region where
  cadl  : Nat
  cadd  : Nat
  phase : Nat
  scnt  : Nat
  slack : Nat
  slipc : Nat
  skipc : Nat
  hemc  : Nat
  holdt : Nat
  mode  : Nat
  src   : Nat
  mask  : BitVec 48
  /-- the source rate that its clock follows, in 2^-48 Hz: the clock runs at L/D of it (R62, R63; log 42) -/
  rate  : Nat
  caderr : Bool
  floor : Bool
  clamp : Bool
  unlock : Bool
  state : Nat
  /-- the visible cycle count (R45) -/
  count : Nat
  /-- count without the holds of slips: CYC of a core that owes nothing (R295) -/
  free  : Nat
  /-- cycles the region has really run -/
  age   : Nat
  sd    : Nat
  pre   : Bool
  rsync : Bool
  /-- hold cycles of a slip still to pass (R295) -/
  hold  : Nat
  /-- phase error in cycles from slips (R64, R298) -/
  perr  : Nat
  frozen : Bool
  /-- region count at the freeze -/
  fcyc  : Nat
  recs  : List FreezeRec
  /-- pair cycle at which the records are complete; none once they are (R377) -/
  recsAt : Option Nat
  /-- records of a freeze whose answers took effect before they were complete (R377) -/
  late  : List LateRec
  ingress : VWord
  ingGap : Bool
  /-- numbers of the held samples that it has taken or passed over (R49) -/
  taken : List Nat
  /-- requests for the next hem: pre-emption, park, relock, resynchronisation restart, stop (R60, R62, R299, R300) -/
  wantPre : Bool
  wantPark : Bool
  wantRelock : Bool
  wantStop : Bool
  /-- samples passed over by restarts: SCNT runs that far ahead of the ticks that the count has seen (R299) -/
  skew  : Nat
  /-- waits for the tick that restarts it (R299, R300) -/
  restart : Bool
  /-- the number of its source's sample that is its own sample 0 (R49, R299) -/
  base : Int
  /-- stopped by a link loss or a trip: only a reset restarts it (R60) -/
  stopped : Bool
  job   : Option Nat
  /-- consecutive good ticks, and consecutive ticks with little phase error (R62, R64) -/
  good  : Nat
  calm  : Nat
  /-- cycle of the pairs' clock at which HOLDOVER began -/
  holdFrom : Nat
deriving DecidableEq, Repr, Inhabited

/-- A sample received and not yet passed by every region (R49). -/
structure Sample where
  n    : Nat
  val  : VWord
  gap  : Bool
  /-- its payload has arrived -/
  arrived : Bool
deriving DecidableEq, Repr, Inhabited

/-- A push in flight to a gusset or an egress register (R53, R202): the age of the pushing region at which it lands, that region, the
core and context that pushed, the vector, and whether it was formed from a poisoned pop (R194). -/
structure Push where
  due  : Nat
  reg  : Nat
  core : Nat
  ctx  : Nat
  val  : VWord
  bad  : Bool
deriving DecidableEq, Repr, Inhabited

/-- A cadence recovery unit (R41, R49, R51, R61). -/
structure Source where
  eport : Nat
  sbytes : Nat
  port  : Nat
  lbw   : Nat
  kind  : Nat
  freq  : BitVec 48
  err   : BitVec 32
  samples : List Sample
  /-- payloads that arrived before their tick: number, vector, GAP -/
  waiting : List (Nat × VWord × Bool)
  /-- packets of a MEDIA source whose presentation time is to come: that time in femtoseconds, vector, GAP (R38) -/
  packets : List (Nat × VWord × Bool)
  /-- the greatest number given, and the ticks so far -/
  last  : Option Nat
  ticks : Nat
  /-- time of the last good tick in femtoseconds, and its number (R61; log 41) -/
  lastGood : Option (Nat × Option Nat)
  /-- times of the last two ticks, newest first -/
  prevT : List Nat
  /-- cycle of the pairs' clock at the last tick -/
  lastAt : Nat
  /-- of a host stream: no PTM response for 10 ms, the next record, and the time of the last one (R416) -/
  noPtm : Bool
  hsNext : Nat
  hsTime : Option Nat
  egress : VWord
  egGap : Bool
  /-- the bytes of the egress register are marked uncorrectable (R194) -/
  egBad : Bool
  /-- something landed in the egress register during the interval -/
  landed : Bool
  bound : Option (Nat × Nat)
  pushes : List Push
deriving DecidableEq, Repr, Inhabited

/-- A media stream entry (R42). -/
structure Media where
  ssid : Word
  cfg  : Word
  dir  : Word
deriving DecidableEq, Repr, Inhabited

/-- An entry of a gusset: the consumer age at which it landed, its vector, and whether its bytes are marked uncorrectable (R194). -/
structure GusEnt where
  at_ : Nat
  val : VWord
  bad : Bool
deriving DecidableEq, Repr, Inhabited

/-- A gusset (R53 to R59). -/
structure Gusset where
  err  : Bool
  cfg  : BitVec 23
  gstep : BitVec 40
  ovrc : BitVec 32
  undc : BitVec 32
  /-- entries, oldest first -/
  ents : List GusEnt
  visible : Nat
  /-- pushes that found an ELASTIC gusset full and wait for the pops of its consumer's cycle (R69) -/
  late : List GusEnt
  /-- the last entry returned -/
  lastOut : VWord
  lastBad : Bool
  started : Bool
  a    : BitVec 32
  /-- the output of LINEAR mode -/
  lin  : VWord
  linBad : Bool
  linGap : Bool
  /-- consumer ages at which a bflush removes the visible entries (R200) -/
  flushes : List Nat
  prod : Option (Nat × Nat)
  cons : Option (Nat × Nat)
  pushes : List Push
deriving DecidableEq, Repr, Inhabited

/-- The operand values a vector slot read at issue (R89, R161, R164): enough to form its result whenever its popped vector
arrives. `lanes` is the merge predicate, all ones for an unmerged slot (R77). -/
structure VEnv where
  fmt   : BitVec 22
  lanes : Pred
  a     : VWord
  b     : VWord
  d     : VWord
  /-- companions of A (vdq8, red) and of D (vq8, red) -/
  c     : VWord
  cd    : VWord
  /-- p(MASKSEL.P), as vsel reads it (R169) -/
  sel   : Pred
  sa    : Word
  sb    : Word
  poison : Bool
deriving DecidableEq, Repr, Inhabited

/-- Where a vector slot's result goes (R72, R76, R165): a physical register, a predicate, a scalar, or a push of a bobbin
under the binding and position it was issued with. -/
inductive VDest where
  | v (phys : Nat)
  | p (phys : Nat)
  | s (n : Nat)
  /-- scratchpad push: the address written -/
  | spad (addr : Nat)
  | egress (src : Nat)
  | gusset (g : Nat)
  /-- a tile row: byte address and length (R213) -/
  | tile (addr len : Nat)
  /-- a timed send: destination core and channel (R269) -/
  | send (dst ch : Nat)
deriving DecidableEq, Repr

/-- An access of a slot to its cluster's scratchpad, tag table or banks, not yet performed (R131, R322). `land` is the
latency from the perform cycle to the cycle at which the result is readable. -/
inductive Access where
  | load (addr size : Nat) (signed : Bool) (d : Nat) (land : Nat)
  | amo (fn : Nat) (addr : Nat) (v swap : Word) (d : Nat) (land : Nat)
  /-- an AMO of a control pair whose result has been given before the end of its region's cycle (R448): the word it read, whether that was
  marked, and whether a freeze record has been written to it since -/
  | amoTold (fn : Nat) (addr : Nat) (v swap old : Word) (bad late : Bool)
  /-- store, spills: `size` low bytes of the value; `bad` if the bytes are written marked uncorrectable -/
  | store (addr size : Nat) (v : Word) (bad spill : Bool)
  | vload (addr : Nat) (d : Nat) (land : Nat)
  /-- vst, vstm, spillv, pushes: the bytes under the mask -/
  | vstore (addr : Nat) (v : VWord) (mask : ByteMask) (bad spill : Bool)
  /-- a vector slot whose pops read the scratchpad (R165): each address and the operand positions (0 D, 1 A, 2 B) that take
  its bytes, and the destinations -/
  | pop (srcs : List (Nat × List Nat)) (i : Instr) (env : VEnv) (dests : List VDest) (land : Nat)
  /-- vldx: the operand environment, the destinations -/
  | gather (base : Nat) (idx : VWord) (e : VEnv) (dests : List VDest) (land : Nat)
  | scatter (base : Nat) (idx v : VWord) (lanes : Pred) (bad : Bool)
  | scatterAdd (base : Nat) (idx v : VWord) (lanes : Pred) (fmt : BitVec 22) (bad : Bool)
  | fillS (addr d tok : Nat) (land : Nat)
  | fillV (addr d tok : Nat) (land : Nat)
  | fillP (addr d tok : Nat) (land : Nat)
  | spillP (addr : Nat) (v : Pred)
  | lookup (va : Word) (d : Nat) (land : Nat)
  | tagset (va : Word) (way : Nat)
  | tagclr (va : Word)
  /-- the control pair's write of CLR (R308) -/
  | tagwipe
  | bank (sel : BitVec 8) (on : Bool)
  /-- bytes of a received message (R274) -/
  | bytes (addr : Nat) (data : List Byte) (bad : Bool)
  /-- the read of 256 bytes, from `addr`, of the payload of the message of a serial number (R272, R276) -/
  | payload (addr len : Nat) (serial : Nat)
  /-- the read of a member table for a binding (R271) -/
  | members (addr count : Nat) (group cls route : Nat)
  /-- the read of a task record (R278) -/
  | post (addr : Nat) (k : Nat) (land : Nat)
deriving DecidableEq, Repr

/-- An access with its agent: global core index, context, place in issue order (8 × age + slot), and the cycle in which it performs, counted by the
age of the agent's region, or on the pairs' clock for a control core. -/
structure Pending where
  core : Nat
  ctx  : Nat
  uid  : Option Nat
  ord  : Nat
  due  : Nat
  acc  : Access
deriving DecidableEq, Repr

/-- An access to the tile store by a class 8 slot, not yet performed (R213). -/
inductive TileAcc where
  /-- row bytes written at a tile-store byte address -/
  | put (addr len : Nat) (v : VWord) (bad : Bool)
  /-- mldv fed by a scratchpad pop: the row is written when the vector arrives (R165, R213) -/
  | get (addr len : Nat) (dest : VDest) (land : Nat)
  | zero (ranges : List (Nat × Nat))
deriving DecidableEq, Repr

structure TilePending where
  ctx : Nat
  ord : Nat
  due : Nat
  acc : TileAcc
deriving DecidableEq, Repr

/-- A timed send in flight (R35, R269): arrival age, issue age, source and destination cores, channel, vector. -/
structure Flight where
  due  : Nat
  issued : Nat
  src  : Nat
  srcCtx : Nat
  dst  : Nat
  ch   : Nat
  val  : VWord
deriving DecidableEq, Repr

/-- One way of a set of the tag table (R135). -/
structure Way where
  valid : Bool
  tag   : BitVec 39
deriving DecidableEq, Repr, Inhabited

/-- A set of the tag table: its ways and its recency order, least recent way first. -/
structure TagSet where
  ways  : SMap Way
  order : List Nat
deriving DecidableEq, Repr, Inhabited

/-- A write on its way to a cluster from another cluster or another region (R323, R329): the rank of its issuer, address, bytes,
error mark, and the format under which a scatter adds it. -/
structure Remote where
  by_  : Nat
  addr : Nat
  data : List Byte
  bad  : Bool
  add  : Option (BitVec 22)
deriving DecidableEq, Repr, Inhabited

/-- The state of a queued task (R398, R401, R404, R408). -/
inductive QState where
  | queued
  | ring
  | preloading (core ctx : Nat)
  | resident (core ctx : Nat)
deriving DecidableEq, Repr, Inhabited

/-- What a KIND 3 record keeps of a pre-empted task (R390, R303): PC, segment header in segment mode, s1 to s8. -/
structure Saved where
  pc   : Nat
  seg  : Nat
  regs : List Word
deriving DecidableEq, Repr, Inhabited

/-- An entry of the dispatcher's queue, or a task that has left it for its context (R395, R398). -/
structure QEnt where
  uid   : Nat
  words : List Word
  level : Nat
  slot  : Nat
  held  : Bool
  /-- the bit it waits for: device physical byte address and bit, and whether it was seen set (R403) -/
  wb    : Option (Nat × Nat)
  wbSet : Bool
  /-- wheel turns begun up to the last test of the bit (R403) -/
  tested : Nat
  /-- notches counted at this level (R29) -/
  waited : Nat
  state : QState
  /-- core on which it runs, and which instance it is (R440): 0 single, 1 primary, 2 duplicate -/
  core  : Nat
  dup   : Nat
  /-- KIND 3 record of a pre-empted task (R390, R408) -/
  saved : Option Saved
  /-- of its admission (R411): its card's footprints and superstep word, and its task-type entry -/
  fps   : List Footprint
  sset  : Nat
  entry : Nat
  /-- it has come back from the ring and its record is still to be read (R399) -/
  reads : Bool
deriving DecidableEq, Repr, Inhabited

/-- A copy of activity 56 between a cluster and its overflow ring that has yet to take its slot (R399): a record written at a device
physical address, or the record there read for a task. -/
inductive RingOp where
  | put (pa : Nat) (words : List Word)
  | get (pa uid : Nat)
deriving DecidableEq, Repr, Inhabited

/-- An edge (R397): earlier task, its footprint, whether that footprint writes, later task. -/
structure Edge where
  src : Nat
  j   : Nat
  write : Bool
  dst : Nat
deriving DecidableEq, Repr, Inhabited

/-- An allotment (R403): unit kind (0 vector registers, 1 scratchpad, 2 tile store), core, first unit, units, owner; and the
age at which it returns, once the task has ended (R147). -/
structure Allot where
  kind  : Nat
  core  : Nat
  start : Nat
  len   : Nat
  uid   : Nat
  until_ : Option Nat
deriving DecidableEq, Repr, Inhabited

/-- A translation held for admitted tasks of a job (R315): first va, bytes, physical address, permissions, users. -/
structure Xlat where
  job   : Nat
  va    : Nat
  len   : Nat
  pa    : Nat
  rd    : Bool
  wr    : Bool
  /-- it takes an entry of the translation buffer; a footprint inside one range entry takes none (R315) -/
  counted : Bool
  users : List Nat
deriving DecidableEq, Repr, Inhabited

/-- A stage queued in a cluster (R261, R320). -/
structure Stage where
  serial : Nat
  src   : Word
  dst   : Word
  len   : Nat
  done  : Nat
  /-- physical addresses of the 4,096-byte units of the device side, and of the completion byte, as translated at issue -/
  pas   : List Nat
  bitPa : Nat
  bit   : Nat
  bad   : Option Word
deriving DecidableEq, Repr, Inhabited

/-- A group bound in a cluster (R271). -/
structure Group where
  id    : BitVec 12
  cls   : Nat
  route : Nat
  /-- members taken: package and core -/
  members : List (Nat × Nat)
  /-- usable from this age (c + 16 of R271) -/
  usable : Nat
  draining : Bool
  /-- region 0 count from which the 256 cycles of draining run: the gfree's issue, or the close of its last message -/
  last : Nat
  /-- send sequence counters of the member cores of this cluster: (core, next number) -/
  seqs  : List (Nat × Nat)
  /-- digest sequence counters -/
  dseqs : List (Nat × Nat)
  /-- own digests: (core, sequence, value, close) -/
  own   : List (Nat × Nat × Word × Nat)
  /-- the member cores of this cluster, each with the number after the last own digest that has closed (R356) -/
  shut  : List (Nat × Nat)
  /-- digests received whole that a member core has still to compare: member, number, value (R356) -/
  heard : List (Nat × Nat × List Byte)
deriving DecidableEq, Repr, Inhabited

/-- A message that a cluster sends, while its payload is read and coded (R272, R276, R338). -/
structure Outgoing where
  serial : Nat
  core  : Nat
  ctx   : Nat
  group : BitVec 12
  seq   : Nat
  dig   : Bool
  close : Nat
  len   : Nat
  /-- destination of an fsend: package and core -/
  dest  : Option (Nat × Nat)
  /-- payload bytes read so far -/
  data  : List Byte
  /-- region 0's age at its issue, and CRATE of its route class then (R341) -/
  at_   : Nat
  rate  : BitVec 28
  /-- register of a digest, and the age at which it is readable -/
  reg   : Nat
  land  : Nat
  /-- only the register is written: a follower or a duplicate sent it (R439, R440) -/
  mute  : Bool
deriving DecidableEq, Repr, Inhabited

/-- A message open, closed or recorded at a receiving cluster (R347, R348). -/
structure Incoming where
  group : BitVec 12
  smem  : Nat
  seq   : Nat
  dig   : Bool
  k     : Nat
  m     : Nat
  len   : Nat
  close : Nat
  cls   : Nat
  frags : List (Nat × List Byte)
  dest  : Option Nat
  closed : Bool
  lost  : Bool
  buf   : Bool
  poison : Bool
deriving DecidableEq, Repr, Inhabited

/-- A message delivered to a decode class, oldest first (R348). -/
structure Delivered where
  group : BitVec 12
  seq   : Nat
  len   : Nat
  lost  : Bool
  data  : List Byte
  /-- it holds a decode buffer (R350) -/
  buf   : Bool
deriving DecidableEq, Repr, Inhabited

/-- An EXPECT post not yet in force (R273): age, class, count, and the context that made it. -/
structure ExpPost where
  due   : Nat
  cls   : Nat
  count : Nat
  core  : Nat
  ctx   : Nat
deriving DecidableEq, Repr, Inhabited

/-- A record offered to a dispatcher (R396): the record, its poster, and the flag that a TASKPOST has waiting with its place in
issue order and its age. -/
structure Post where
  words : List Word
  ord   : Nat
  core  : Nat
  ctx   : Nat
  k     : Option Nat
  land  : Nat
deriving DecidableEq, Repr, Inhabited

/-- A duplicated launch (R440, R441): the uids of primary and duplicate, job and tag; the primary's footprints, kept once it has retired;
the instances that have retired with results still to land, each by uid, core and context; and the launch signature of each once those have
landed. -/
structure Dup where
  a   : Nat
  b   : Nat
  job : Nat
  tag : Nat
  fps : List Footprint
  open_ : List (Nat × Nat × Nat)
  sa  : Option Word
  sb  : Option Word
deriving DecidableEq, Repr, Inhabited

/-- A cluster (R8, R304 to R309, R315, R347, R393 to R400, R443). -/
structure Cluster where
  spad  : Memory
  /-- banks: 0 up, 1 down, 2 waking (R158) -/
  banks : SMap Nat
  wake  : SMap Nat
  pend  : List Pending
  remote : List Remote
  tags  : SMap TagSet
  /-- pending counts of the decode classes (R273) -/
  cpend : SMap Nat
  /-- posts of rewound seams whose messages had opened already: later posts of the class make them good first (R281) -/
  cdebt : SMap Nat
  /-- EXPECT posts due at c+2 (R273) -/
  posts : List ExpPost
  queues : SMap (List Delivered)
  groups : List Group
  out   : List Outgoing
  inc   : List Incoming
  serial : Nat
  /-- LATEC, LOSSC, DIGMC, NOVRC, CRCFC (R277), by index 0 to 4 -/
  cnt   : SMap (BitVec 32)
  /-- CECC, UECC, TWMC, DUPMC (R443), by index 0 to 3 -/
  fleet : SMap (BitVec 32)
  stages : List Stage
  xlats : List Xlat
  /-- task types and cards (R393, R394) and the other plain registers of the pair, by control register number -/
  regs  : SMap Word
  queue : List QEnt
  edges : List Edge
  allots : List Allot
  nextUid : Nat
  ringHead : Nat
  ringCount : Nat
  drovf : Bool
  /-- ring pages translated so far, each with its device physical address (R400), and the ring's copies to come -/
  ringPages : List (Nat × Nat)
  ringOps : List RingOp
  drreason : Nat
  /-- posts judged at the end of this cycle -/
  postq : List Post
  /-- a core of the cluster has issued a notch in this cycle (R29) -/
  notched : Bool
  /-- pairs in twin mode, and the changes due at the next hem (R157): (pair, join) -/
  twins : List Nat
  twinReq : List (Nat × Bool)
  /-- planes to flip at the region's next hem (R156) -/
  flips : BitVec 6
  /-- spare: register, state (R432) -/
  spare : Word
  spareUsed : Bool
  spareReq : Option Nat
  dups  : List Dup
deriving DecidableEq, Repr, Inhabited

/-- A control-core pair (R381 to R383); its context is context 0 of core 384 + cluster. -/
structure Pair where
  save  : Nat
  evo   : BitVec 22
  hvec  : BitVec 16
  epc   : BitVec 16
  ovf   : Bool
  /-- asynchronous events, and freeze events, oldest first -/
  evs   : List Event
  frzs  : List Event
  handler : Bool
  /-- halted on a fault or a mismatch (R383) -/
  dead  : Bool
deriving DecidableEq, Repr, Inhabited

/-- A wheel (R291): its map, the shadow map, the slots consumed since the last hem of region 0. -/
structure Wheel where
  map    : SMap (BitVec 8)
  shadow : Option (SMap (BitVec 8))
  used   : List Nat
deriving DecidableEq, Repr, Inhabited

/-- A job (R409, R410). -/
structure Job where
  num    : Nat
  root   : Nat
  regions : BitVec 16
  pattern : Bool
  /-- TWIN mode, and the task types launched twice (R437) -/
  twin   : Bool
  dupMask : Word
  status : Nat
  killed : Nat
  /-- first killed task: TAG, TRAPC, TRAPI -/
  first  : Option (Nat × BitVec 8 × Word)
  whole  : Bool
  reason : Nat
  rtag   : Nat
  pree   : Bool
deriving DecidableEq, Repr, Inhabited

/-- A leg of a route (R342, R344): the path it takes, if it is one on which fragments wait for each other, the cycles it holds the path,
and its further cycles. -/
structure Leg where
  path  : Option PathId
  xfer  : Nat
  fixed : Nat
deriving DecidableEq, Repr

/-- A fragment on its way (R344, R345): its sender, the package and cluster it is for, the legs left, region 0's age at its coming to the
first of them, and the cycles that it still holds that leg's path. -/
structure Transit where
  frag  : Fragment
  core  : Nat
  pkg   : Nat
  clus  : Nat
  legs  : List Leg
  at_   : Nat
  left  : Nat
  /-- the path on whose fixed cycles it is, and the age at which it has crossed it: the path's retraining loses it until then (R435) -/
  cross : Option (PathId × Nat)
deriving DecidableEq, Repr

/-- A PDU that a media port emits (R42): port, stream_id, destination address, VLAN tag, avtp_timestamp, and the sample header's sequence
number, GAP flag and length, with the vector whose first `len` bytes it carries. -/
structure Pdu where
  port  : Bool
  id    : Word
  dmac  : BitVec 48
  vid   : BitVec 12
  pcp   : BitVec 3
  stamp : BitVec 32
  seq   : BitVec 32
  gap   : Bool
  len   : Nat
  val   : VWord
deriving DecidableEq, Repr

/-- What the package tells the outside (R42, R51, R415, R416, R420, R422, R383). -/
inductive Outward where
  | media (p : Pdu)
  | hostRecord (stream : Nat) (gap : Bool) (v : VWord)
  | msix (n : Nat)
  | report (code : Nat) (w : Word)
  | readData (data : List Byte) (poisoned : Bool)
  | ptmRequest
  /-- for another package and cluster, by the port that the fragment names (R343) -/
  | fragment (pkg : Nat) (clus : Nat) (f : Fragment)
  | measurements (nonce : List Byte) (mrs : List (BitVec 384)) (sig : List Byte)
  | linkDown
  | dump (clus : Nat) (area : List Byte) (evs : List Event)
  | telemetry (counters : List Word)
deriving DecidableEq, Repr

/-- A SUBMIT that has records left to post (R410): its job, whether it is a pattern job, and the records. -/
structure Submission where
  job     : Nat
  pattern : Bool
  rest    : List (List Word)
deriving DecidableEq, Repr, Inhabited

/-- What the host has sent on the link and what waits behind it (R414, R415): a read or a write of device memory, at an address as BAR2WIN
placed it, a doorbell, the tail of a host stream. -/
inductive HostOp where
  | read (a len : Nat)
  | write (a : Nat) (data : List Byte) (poisoned : Bool)
  | doorbell (tail : Nat)
  | hstail (n : Nat) (v : Word)
deriving DecidableEq, Repr

/-- An entry of a load list (R428). -/
structure LoadEnt where
  kind : Nat
  clus : Nat
  mask : Nat
  last : Bool
  off  : Nat
  src  : Nat
  len  : Nat
deriving DecidableEq, Repr

/-- The package-wide state: regions, sources, gussets, memories, wheels, host interface, boot (R311, R318, R409 to R435). -/
structure Pack where
  regions : SMap Region
  sources : SMap Source
  media   : SMap Media
  gussets : SMap Gusset
  /-- range entries: die × 128 + entry (R311) -/
  ranges  : SMap (BitVec 256)
  wheels  : SMap Wheel
  crate   : SMap (BitVec 28)
  dev     : Memory
  /-- bad symbols of each block of device memory, of its 64 bytes and 4 check bytes, where there are one or two: a read corrects them (R442;
  log 181) -/
  weak    : SMap (Fin 3)
  /-- blocks of device memory that reads have corrected and that are still to be written back, and whether the scrub slot of that is under way
  (R442, R447) -/
  scrub   : List (Nat × Bool)
  cxl     : Memory
  host    : Memory
  /-- Row Hammer and repair: HCECC, HUECC, PPRC, BUDGC by number (R443) -/
  counters : SMap (BitVec 32)
  jobs    : List Job
  flights : List Flight
  transit : List Transit
  downs   : List PathId
  retrain : List PathId
  /-- control window and other plain package registers by control register number (R413) -/
  regs    : SMap Word
  ready   : Bool
  recov   : Bool
  dberr   : Bool
  lloss   : Bool
  /-- the host link is fenced, until a reset (R420) -/
  fenced  : Bool
  sanit   : Bool
  ptm     : Word
  ptmLast : Nat
  /-- host accesses and what waits behind them, in the order of the link (R414, R415) -/
  hostq   : List HostOp
  /-- a command of the ring is in execution and completes in a later step (SANITISE) -/
  cmdBusy : Bool
  /-- a command that has ended but for effects on device memory: its STATUS, and the job whose end it waits for (R415) -/
  ending  : Option (Nat × Option Nat)
  /-- a trip or a link loss has stopped every region: none starts until a reset (R420, R446) -/
  halted  : Bool
  submit  : Option Submission
  ldlist  : Word
  /-- the list that the loader is taking (R428) -/
  ldcur   : Nat
  ldstat  : Word
  ldbusy  : Bool
  /-- its entries taken, the bytes of the next one moved, its first error, and that it has taken its last (R428, R429) -/
  ldents  : List LoadEnt
  ldoff   : Nat
  lderr   : Option (Nat × Nat)
  ldover  : Bool
  /-- anti-rollback counters of the two classes (R426), the versions of the images that run, the dispatcher firmware's of pair k at k and the
  sideband firmware's at 48, and the flash slots: 2 × class + slot -/
  thermo  : SMap (BitVec 32)
  running : SMap (Option (BitVec 32))
  slots   : SMap (Option Image)
  mrs     : SMap (BitVec 384)
  repairs : List (Nat × Nat)
  /-- device pages, by number, that rows without a spare row retire (R431) -/
  retired : List Nat
  pprReq  : List (Nat × Nat)
  pprWait : List (Nat × Nat)
  /-- the package's number in its fabric system (log 29) -/
  pkg     : Nat
  /-- SYSREF has stopped (R60) -/
  sysrefDown : Bool
  out     : List Outward
  serial  : Nat
deriving DecidableEq, Repr, Inhabited

/-- When an event of the agenda is due: an age or count of a region, a cycle of the pairs, or at once. -/
inductive Due where
  | age (r n : Nat)
  | count (r n : Nat)
  | pair (n : Nat)
  | now
deriving DecidableEq, Repr, Inhabited

/-- A step that the machine itself owes (the constructor of `Instr` of the same name). -/
inductive Owed where
  | freezeRecordsComplete (r : RegionId)
  | eventTake (k : ClusterId)
  | freezeActionEffect (n : CoreId) (x : CtxId) (act : FreezeAct)
  | slipDebtSkip (r : RegionId)
  | runBudgetExpiry (n : CoreId) (x : CtxId)
  | sourceTick (u : SourceId) (t : Nat) (obs : LoopObs)
  | ptmRequest
  | hostRecordTick (u : SourceId) (obs : LoopObs)
  | ptmTimeout (u : SourceId)
  | regionTick (r : RegionId)
  | acquireComplete (r : RegionId)
  | tickLoss (r : RegionId)
  | holdtExpiry (r : RegionId)
  | relock (r : RegionId)
  | hem (r : RegionId)
  | patternRestart (r : RegionId) (tick : Nat)
  | admission (n : CoreId)
  | preloadComplete (n : CoreId) (x : CtxId)
  | taskAging (k : ClusterId)
  | completionBitTest (k : ClusterId) (entry : Fin 256)
  | ringReturn (k : ClusterId)
  | dupCompare (k : ClusterId) (pair : Nat)
  | twinCompare (k : ClusterId) (j : Fin 4)
  | copyComplete (n : CoreId) (e : EngineId)
  | stageComplete (k : ClusterId)
  | sendArrival (n : CoreId) (ch : Fin 8) (src : CoreId) (data : VWord)
  | bankWakeComplete (k : ClusterId) (bank : Fin 8)
  | fragmentArrival (k : ClusterId) (f : Fragment)
  | messageClose (k : ClusterId)
  | groupDrainEnd (k : ClusterId) (group : BitVec 12)
  | fragmentExpiry (p : PathId)
  | jobEnd (job : Byte)
  | killWrite (k : ClusterId) (v : Word)
  | dhold (k : ClusterId) (entry : Byte)
  | dholdKill (k : ClusterId) (entry : Byte)
  | dholdKillJob (k : ClusterId) (entry : Byte)
  | dretry (k : ClusterId)
  | dringConfigWrite (k : ClusterId) (cfg : Bool) (v : Word)
  | savebWrite (k : ClusterId) (v : Word)
  | gcfgWrite (g : Fin 64) (v : Word)
  | gstepWrite (g : Fin 64) (v : Word)
  | crcfgWrite (u : SourceId) (v : Word)
  | holdtWrite (r : RegionId) (v : Word)
  | rsync (r : RegionId)
  | clrpend (k : ClusterId) (cls : Fin 8)
  | clrlate (k : ClusterId)
  | clrloss (k : ClusterId)
  | clrdig (k : ClusterId)
  | clrnov (k : ClusterId)
  | clrcrc (k : ClusterId)
  | counterClear (k : ClusterId) (num : BitVec 14)
  | spare (k : ClusterId) (v : Word)
  | lgrt (v : Word)
  | laneRetrainComplete (p : PathId)
  | ppr (v : Word)
  | pprCopyComplete (ctrl : Fin 16)
  | ldgo
  | loadListComplete
  | registerWrite (k : ClusterId) (num : BitVec 14) (v : Word)
  | sanitiseComplete
  | sanitiseDevice
  | segmentExpansionComplete (n : CoreId) (x : CtxId)
  /-- the command at the head of the ring, as the row of its OP (R409) -/
  | command
  /-- records of a SUBMIT are posted at the end of a cycle (R396, R410) -/
  | posting
  /-- a command's effects on device memory have all taken place (R415) -/
  | settled
deriving DecidableEq, Repr

/-- The machine: everything the spec gives the part. Cores 0 to 383 are the exposed compute cores by global index; core
384 + k is the control core of cluster k. -/
structure Mach where
  cores : SMap Core
  tile  : SMap (List TilePending)
  clus  : SMap Cluster
  pairs : SMap Pair
  pack  : Pack
  /-- cycles of the pairs' clock (R376) -/
  pclk  : Nat
  /-- the machine's own steps to come, in the order in which they were scheduled -/
  owed  : List (Due × Owed)
deriving DecidableEq, Repr, Inhabited

/-- A clock domain: a region, or the control pairs (R11, R376). -/
inductive Domain where
  | region (r : Fin 16)
  | pairs
deriving DecidableEq, Repr, Inhabited

/-- A fault found for a context: cause and information word (R372, R373). -/
structure Exc where
  cause : Nat
  info  : Word
deriving DecidableEq, Repr, Inhabited

/-- The bundle under assembly (R86, R88): where it starts, the slots issued, and the first fault so far with its place in the
order of R88 (log 2). -/
structure Turn where
  /-- the events that open a cycle have been taken -/
  begun : Bool
  /-- the slots of a cycle are being issued -/
  open_ : Bool
  dom   : Domain
  /-- cores that have still to issue in this cycle, the issuing core first -/
  cores : List Nat
  /-- cores whose matrix unit begins a microword in this cycle -/
  micro : List Nat
  core  : Nat
  ctx   : Nat
  /-- address of the bundle, or its offset in the segment -/
  addr  : Nat
  pos   : Nat
  word  : BitVec 32
  words : List (BitVec 32)
  ext   : Option (BitVec 27)
  fault : Option (Nat × Exc)
  /-- where the next bundle of the context issues: target, if a slot has set one -/
  target : Option Nat
  /-- when it issues, if a slot has set it -/
  next  : Option Run
  /-- what the bundle ends: 1 YIELD, 2 RETIRE, 3 a performed NOTCH -/
  ends  : Nat
  /-- faults of this cycle: core, context, cause and word, whether a bundle raised it -/
  faults : List (Nat × Nat × Exc × Bool)
  /-- engine work that stopped on a fault in this cycle and stays stopped through the freeze: core, 0 the matrix unit or 1 + e
  for engine e, copy (R231, R242) -/
  stops  : List (Nat × Nat × Nat)
  /-- cores that performed a notch in this cycle (R402) -/
  points : List Nat
  /-- the ranges that CKARMs of the bundle arm, and the copies the bundle has issued (R256) -/
  arm    : List (Nat × Nat)
  copied : List Nat
  /-- the machine before the bundle under assembly, to which a faulting control bundle returns (R90, R383) -/
  snap  : Option Mach
  /-- the machine before the bmsets and the sample ticks with which the cycle opened: a freeze in this cycle undoes them (R375) -/
  undo  : Option Mach
deriving DecidableEq, Repr, Inhabited

/-- The machine in the middle of a cycle: as the cycle found it (`arch`, to which a freeze returns), as the slots of the cycle
read it (`view`), as the cycle leaves it (`next`); the bundle under assembly; the machine's steps owed at once (`todo`); what comes from
outside (`agenda`); the order of clock edges to come (`plan`, empty: every domain in turn) (log 1 to 4). -/
structure State where
  arch   : Mach
  view   : Mach
  next   : Mach
  turn   : Turn
  todo   : List Owed
  agenda : List (Due × Instr)
  plan   : List Domain
  /-- serial number of the next free value (log 22) -/
  draws  : Nat
deriving DecidableEq, Repr, Inhabited

/-- Why the model stops with a fault. -/
inductive Fault where
  /-- raised by a step whose event is not owed in this state (an event of the agenda that the machine cannot take). Safe. -/
  | notDue (what : String)
deriving DecidableEq, Repr

/-- Why the model refuses an instruction. -/
inductive Refusal where
  /-- an instruction with no meaning yet: raised by an arm of `exec`. Safe. -/
  | notModelled (mnemonic : String)
deriving DecidableEq, Repr

/-- A region at reset (R46): region 0 is in RUN with every cluster, L 90 and D 1; the others are IDLE and empty. -/
def Region.init (r : Nat) : Region :=
  { (default : Region) with
    holdt := 1000000
    cadl := if r = 0 then 90 else 0
    cadd := if r = 0 then 1 else 0
    mask := if r = 0 then BitVec.allOnes 48 else 0
    rate := if r = 0 then 25000000 * 2 ^ 48 else 0
    state := if r = 0 then 2 else 0
    ingGap := true }

/-- A recovery unit at reset (R41): SBYTES 768, LBW 1; the egress vector is the zero vector flagged GAP (R51). -/
def Source.init : Source := { (default : Source) with sbytes := 768, lbw := 1, egGap := true }

/-- A gusset at reset (R54): START 8, DEPTH 16. -/
def Gusset.init : Gusset := { (default : Gusset) with cfg := BitVec.ofNat 23 (8 * 2 ^ 7 + 16 * 2), linGap := true }

/-- A pair at reset (R381): SAVEB 23; its context is halted until the boot starts its firmware or an event comes (log 14). -/
def Pair.init : Pair := { (default : Pair) with save := 23 }

/-- A set of the tag table when its region enters RUN (R308). -/
def TagSet.init : TagSet := { ways := [], order := [0, 1, 2, 3, 4, 5, 6, 7] }

/-- The list of f 0 to f (n - 1) as indexed state. -/
def SMap.tab {α : Type} (n : Nat) (f : Nat → α) : SMap α := (List.range n).map fun i => (i, f i)

/-- A control core at reset: its context 0 is halted (log 14). -/
def Core.control : Core :=
  { (default : Core) with ctxs := [(0, { (default : Ctx) with run := .halted })], cur := some 0 }

/-- The machine right after reset (R43, R46, R417): registers and memories zero, no task, region 0 running from count 0. -/
def Mach.init : Mach :=
  { (default : Mach) with
    cores := (List.range 48).map fun k => (384 + k, Core.control)
    pairs := SMap.tab 48 fun _ => Pair.init
    pack := { (default : Pack) with
      regions := SMap.tab 16 Region.init
      sources := SMap.tab 16 fun _ => Source.init
      gussets := SMap.tab 64 fun _ => Gusset.init
      crate := SMap.tab 8 fun _ => BitVec.ofNat 28 (0xFFFF * 2 ^ 12 + 2 * 2 ^ 4 + 1)
      slots := SMap.tab 4 fun i => Config.flash (i / 2) (i % 2) } }

/-- The state right after reset: nothing under way, region 0 at the start of its cycle 0. -/
def State.reset : State := { (default : State) with arch := Mach.init, view := Mach.init, next := Mach.init }

end Sys2Proof.Machine
end

