-- ==== Sys2Proof/Machine/Mem.lean ====
section
/-! DEFINITION. Indexed state, bytes and vectors as numbers, and the operations on a memory: every read and write of a byte
of any memory goes through `Memory.byte` and `Memory.put`. -/

namespace Sys2Proof.Machine

/-- The value at an index. -/
def rd {α : Type} [Inhabited α] (m : SMap α) (k : Nat) : α :=
  match m with
  | [] => default
  | (j, v) :: rest => if j = k then v else rd rest k

/-- The map with one index set. -/
def wr {α : Type} (m : SMap α) (k : Nat) (v : α) : SMap α :=
  match m with
  | [] => [(k, v)]
  | (j, w) :: rest => if j = k then (k, v) :: rest else if k < j then (k, v) :: (j, w) :: rest else (j, w) :: wr rest k v

/-- The map with one index changed by a function. -/
def up {α : Type} [Inhabited α] (m : SMap α) (k : Nat) (f : α → α) : SMap α := wr m k (f (rd m k))

/-! ### bytes, elements and lanes -/

/-- The n low bytes of a number, least significant first (R82). -/
def leBytes (n v : Nat) : List Byte :=
  match n with
  | 0 => []
  | n + 1 => BitVec.ofNat 8 v :: leBytes n (v / 256)

/-- The number that little-endian bytes make. -/
def ofBytes (bs : List Byte) : Nat :=
  match bs with
  | [] => 0
  | b :: rest => b.toNat + 256 * ofBytes rest

/-- A list in pieces of n; n is not 0. -/
def chunks {α : Type} (n : Nat) (l : List α) : List (List α) :=
  (List.range ((l.length + n - 1) / n)).map fun i => (l.drop (n * i)).take n

/-- f 0 + f 1 · B + ... + f (n-1) · B^(n-1). -/
def digits (B : Nat) (f : Nat → Nat) (n i : Nat) : Nat :=
  match n with
  | 0 => 0
  | n + 1 => f i % B + B * digits B f n (i + 1)

/-- Element e of a vector of w-byte elements (R96). -/
def elt (w : Nat) (v : VWord) (e : Nat) : Nat := v.toNat / 2 ^ (8 * w * e) % 2 ^ (8 * w)

/-- The vector whose first n elements of w bytes are f 0 ... f (n-1), the rest zero. -/
def vecOf (w n : Nat) (f : Nat → Nat) : VWord := BitVec.ofNat 6144 (digits (2 ^ (8 * w)) f n 0)

/-- How many elements of w bytes a vector holds (R96). -/
def eltCount (w : Nat) : Nat := 768 / w

/-- Lane i of a vector (R96). -/
def lane (v : VWord) (i : Nat) : Nat := elt 4 v i

/-- The predicate whose bit i is f i. -/
def predOf (f : Nat → Bool) : Pred := BitVec.ofNat 192 (digits 2 (fun i => bnat (f i)) 192 0)

/-- The byte mask whose bit j is f j. -/
def maskOf (f : Nat → Bool) : ByteMask := BitVec.ofNat 768 (digits 2 (fun i => bnat (f i)) 768 0)

/-- Every byte of the vector. -/
def fullMask : ByteMask := BitVec.allOnes 768

/-- The bytes of the lanes a predicate selects (R96). -/
def laneMask (p : Pred) : ByteMask :=
  if p = BitVec.allOnes 192 then fullMask else maskOf fun j => p.getLsbD (j / 4)

/-- The bytes lo to lo + n - 1. -/
def rangeMask (lo n : Nat) : ByteMask := BitVec.ofNat 768 ((2 ^ n - 1) * 2 ^ lo)

/-- The bits of the bytes of a mask. -/
def maskBits (m : ByteMask) : VWord :=
  if m = fullMask then BitVec.allOnes 6144
  else BitVec.ofNat 6144 (digits 256 (fun j => if m.getLsbD j then 255 else 0) 768 0)

/-- The bytes of `new` under the mask, of `old` elsewhere. -/
def merge (old new : VWord) (m : ByteMask) : VWord := (old &&& ~~~ maskBits m) ||| (new &&& maskBits m)

/-! ### memories -/

/-- The byte of a cell list at an address; 0 where none is listed. -/
def cellAt (cs : List Host.Cell) (a : Nat) : Byte :=
  match cs with
  | [] => 0
  | (b, v) :: rest => if b = a then v else if a < b then 0 else cellAt rest a

/-- The cell list with one byte set, in canonical form. -/
def putCell (cs : List Host.Cell) (a : Nat) (v : Byte) : List Host.Cell :=
  match cs with
  | [] => if v = 0 then [] else [(a, v)]
  | (b, w) :: rest =>
    if b = a then (if v = 0 then rest else (a, v) :: rest)
    else if a < b then (if v = 0 then (b, w) :: rest else (a, v) :: (b, w) :: rest)
    else (b, w) :: putCell rest a v

/-- The canonical form: addresses strictly rising above `lo`, no byte zero. -/
def cellsWf (lo : Nat) (cs : List Host.Cell) : Bool :=
  match cs with
  | [] => true
  | (a, v) :: rest => decide (lo ≤ a) && decide (v ≠ 0) && cellsWf (a + 1) rest

/-- The memory is in canonical form. -/
def Memory.wf (m : Memory) : Bool := cellsWf 0 m.cells

/-- The byte at an address. -/
def Memory.byte (m : Memory) (a : Nat) : Byte := cellAt m.cells a

/-- The memory with one byte written; marks are not touched. -/
def Memory.put (m : Memory) (a : Nat) (v : Byte) : Memory := { m with cells := putCell m.cells a v }

/-- n bytes from an address. -/
def Memory.bytes (m : Memory) (a n : Nat) : List Byte :=
  match n with
  | 0 => []
  | n + 1 => m.byte a :: m.bytes (a + 1) n

/-- Bytes written from an address up. -/
def Memory.putBytes (m : Memory) (a : Nat) (bs : List Byte) : Memory :=
  match bs with
  | [] => m
  | b :: rest => (m.put a b).putBytes (a + 1) rest

/-- The little-endian number in n bytes (R82). -/
def Memory.nat (m : Memory) (a n : Nat) : Nat := ofBytes (m.bytes a n)

/-- The word indices that the bytes a to a + n - 1 touch. -/
def wordsOf (a n : Nat) : List Nat :=
  if n = 0 then [] else (List.range ((a + n - 1) / 8 - a / 8 + 1)).map (a / 8 + ·)

/-- Those of them that the bytes cover wholly. -/
def wordsIn (a n : Nat) : List Nat := (wordsOf a n).filter fun w => decide (a ≤ 8 * w ∧ 8 * w + 8 ≤ a + n)

/-- A rising list with one number added. -/
def addIx (l : List Nat) (k : Nat) : List Nat :=
  match l with
  | [] => [k]
  | j :: rest => if j = k then l else if k < j then k :: l else j :: addIx rest k

/-- A byte of a touched word is uncorrectable (R305). -/
def Memory.isBad (m : Memory) (a n : Nat) : Bool := (wordsOf a n).any m.bad.contains

/-- Words among those touched that hold a correctable error. -/
def Memory.softIn (m : Memory) (a n : Nat) : List Nat := (wordsOf a n).filter m.soft.contains

/-- The memory with every touched word marked uncorrectable, which leaves it no error that could be corrected. -/
def Memory.mark (m : Memory) (a n : Nat) : Memory :=
  let w := wordsOf a n
  { m with bad := w.foldl addIx m.bad, soft := m.soft.filter (fun x => !w.contains x) }

/-- The marks of the words that a good write covers wholly are cleared (R305, R205). -/
def Memory.clean (m : Memory) (a n : Nat) : Memory :=
  let w := wordsIn a n
  { m with bad := m.bad.filter (fun x => !w.contains x), soft := m.soft.filter (fun x => !w.contains x) }

/-- A write of bytes with good data, or of bytes marked uncorrectable (R305, R194, R264). -/
def Memory.store (m : Memory) (a : Nat) (bs : List Byte) (bad : Bool) : Memory :=
  let m' := m.putBytes a bs
  if bad then m'.mark a bs.length else m'.clean a bs.length

/-- A write of the bytes of a vector under a mask, as the runs of consecutive bytes it selects. -/
def Memory.storeMask (m : Memory) (a : Nat) (v : VWord) (mask : ByteMask) (bad : Bool) : Memory :=
  if mask = fullMask then m.store a (leBytes 768 v.toNat) bad
  else
    (List.range 96).foldl (fun m w =>
      let sel := (List.range 8).filter fun j => mask.getLsbD (8 * w + j)
      if sel.isEmpty then m
      else
        let m' := sel.foldl (fun m j => m.put (a + 8 * w + j) (BitVec.ofNat 8 (v.toNat / 2 ^ (64 * w + 8 * j)))) m
        if bad then m'.mark (a + 8 * w) 8 else if sel.length = 8 then m'.clean (a + 8 * w) 8 else m') m

/-- A vector of 768 bytes. -/
def Memory.vec (m : Memory) (a : Nat) : VWord := BitVec.ofNat 6144 (m.nat a 768)

/-- A correctable error of a word is corrected in memory (R305). -/
def Memory.correct (m : Memory) (w : Nat) : Memory := { m with soft := m.soft.filter (· ≠ w) }

end Sys2Proof.Machine
end

