-- ==== Sys2Proof/Machine/Digest.lean ====
section
/-! DEFINITION. SHA-384, and the making and verification of an ECDSA signature on brainpoolP384r1, as the standards that the spec names state them (R7,
R423, R424, R427; log 20). -/

namespace Sys2Proof.Machine

/-! ### SHA-384 (FIPS 180-4) -/

/-- The constants of the 80 rounds. -/
def shaK : List (BitVec 64) :=
  [0x428A2F98D728AE22, 0x7137449123EF65CD, 0xB5C0FBCFEC4D3B2F, 0xE9B5DBA58189DBBC,
   0x3956C25BF348B538, 0x59F111F1B605D019, 0x923F82A4AF194F9B, 0xAB1C5ED5DA6D8118,
   0xD807AA98A3030242, 0x12835B0145706FBE, 0x243185BE4EE4B28C, 0x550C7DC3D5FFB4E2,
   0x72BE5D74F27B896F, 0x80DEB1FE3B1696B1, 0x9BDC06A725C71235, 0xC19BF174CF692694,
   0xE49B69C19EF14AD2, 0xEFBE4786384F25E3, 0x0FC19DC68B8CD5B5, 0x240CA1CC77AC9C65] ++
  [0x2DE92C6F592B0275, 0x4A7484AA6EA6E483, 0x5CB0A9DCBD41FBD4, 0x76F988DA831153B5,
   0x983E5152EE66DFAB, 0xA831C66D2DB43210, 0xB00327C898FB213F, 0xBF597FC7BEEF0EE4,
   0xC6E00BF33DA88FC2, 0xD5A79147930AA725, 0x06CA6351E003826F, 0x142929670A0E6E70,
   0x27B70A8546D22FFC, 0x2E1B21385C26C926, 0x4D2C6DFC5AC42AED, 0x53380D139D95B3DF,
   0x650A73548BAF63DE, 0x766A0ABB3C77B2A8, 0x81C2C92E47EDAEE6, 0x92722C851482353B] ++
  [0xA2BFE8A14CF10364, 0xA81A664BBC423001, 0xC24B8B70D0F89791, 0xC76C51A30654BE30,
   0xD192E819D6EF5218, 0xD69906245565A910, 0xF40E35855771202A, 0x106AA07032BBD1B8,
   0x19A4C116B8D2D0C8, 0x1E376C085141AB53, 0x2748774CDF8EEB99, 0x34B0BCB5E19B48A8,
   0x391C0CB3C5C95A63, 0x4ED8AA4AE3418ACB, 0x5B9CCA4F7763E373, 0x682E6FF3D6B2B8A3,
   0x748F82EE5DEFB2FC, 0x78A5636F43172F60, 0x84C87814A1F0AB72, 0x8CC702081A6439EC] ++
  [0x90BEFFFA23631E28, 0xA4506CEBDE82BDE9, 0xBEF9A3F7B2C67915, 0xC67178F2E372532B,
   0xCA273ECEEA26619C, 0xD186B8C721C0C207, 0xEADA7DD6CDE0EB1E, 0xF57D4F7FEE6ED178,
   0x06F067AA72176FBA, 0x0A637DC5A2C898A6, 0x113F9804BEF90DAE, 0x1B710B35131C471B,
   0x28DB77F523047D84, 0x32CAAB7B40C72493, 0x3C9EBE0A15C9BEBC, 0x431D67C49C100D4C,
   0x4CC5D4BECB3E42B6, 0x597F299CFC657E2A, 0x5FCB6FAB3AD6FAEC, 0x6C44198C4A475817]

/-- The initial hash value. -/
def shaH : List (BitVec 64) :=
  [0xCBBB9D5DC1059ED8, 0x629A292A367CD507, 0x9159015A3070DD17, 0x152FECD8F70E5939,
   0x67332667FFC00B31, 0x8EB44A8768581511, 0xDB0C2E0D64F98FA7, 0x47B5481DBEFA4FA4]

/-- The message with its padding: a 1 bit, zeros, and the length in bits, to whole blocks of 128 bytes. -/
def shaPad (bs : List Byte) : List Byte :=
  bs ++ [0x80#8] ++ List.replicate ((239 - bs.length % 128) % 128) 0 ++ (leBytes 16 (8 * bs.length)).reverse

/-- The 64-bit words of bytes, most significant byte first. -/
def shaWords (bs : List Byte) (n : Nat) : List (BitVec 64) := (List.range n).map fun i => BitVec.ofNat 64 (ofBytes ((bs.drop (8 * i)).take 8).reverse)

/-- The message schedule, the newest word first, after n further words. -/
def shaSchedule (n : Nat) (w : List (BitVec 64)) : List (BitVec 64) :=
  match n with
  | 0 => w
  | k + 1 =>
    let a := w.getD 1 0
    let b := w.getD 14 0
    let s1 := a.rotateRight 19 ^^^ a.rotateRight 61 ^^^ a >>> 6
    let s0 := b.rotateRight 1 ^^^ b.rotateRight 8 ^^^ b >>> 7
    shaSchedule k ((s1 + w.getD 6 0 + s0 + w.getD 15 0) :: w)

/-- One round on the eight working words. -/
def shaRound (v : List (BitVec 64)) (kw : BitVec 64) : List (BitVec 64) :=
  match v with
  | [a, b, c, d, e, f, g, h] =>
    let t1 := h + (e.rotateRight 14 ^^^ e.rotateRight 18 ^^^ e.rotateRight 41) + ((e &&& f) ^^^ (~~~e &&& g)) + kw
    let t2 := (a.rotateRight 28 ^^^ a.rotateRight 34 ^^^ a.rotateRight 39) + ((a &&& b) ^^^ (a &&& c) ^^^ (b &&& c))
    [t1 + t2, a, b, c, d + t1, e, f, g]
  | v => v

/-- One block. -/
def shaBlock (h : List (BitVec 64)) (block : List Byte) : List (BitVec 64) :=
  let w := (shaSchedule 64 (shaWords block 16).reverse).reverse
  let v := (shaK.zip w).foldl (fun v (k, w) => shaRound v (k + w)) h
  (h.zip v).map fun (x, y) => x + y

/-- The SHA-384 of a byte string; its first byte is bits 7 to 0. -/
def sha384 (bs : List Byte) : BitVec 384 :=
  let h := (chunks 128 (shaPad bs)).foldl shaBlock shaH
  BitVec.ofNat 384 (ofBytes ((h.take 6).flatMap fun w => (leBytes 8 w.toNat).reverse))

/-! ### brainpoolP384r1 (RFC 5639) -/

def bpP : Nat := 0x8CB91E82A3386D280F5D6F7E50E641DF152F7109ED5456B412B1DA197FB71123ACD3A729901D1A71874700133107EC53
def bpA : Nat := 0x7BC382C63D8C150C3C72080ACE05AFA0C2BEA28E4FB22787139165EFBA91F90F8AA5814A503AD4EB04A8C7DD22CE2826
def bpB : Nat := 0x04A8C7DD22CE28268B39B55416F0447C2FB77DE107DCD2A62E880EA53EEB62D57CB4390295DBC9943AB78696FA504C11
/-- The base point and its order. -/
def bpG : Nat × Nat :=
  (0x1D1C64F068CF45FFA2A63A81B7C13F6B8847A3E77EF14FE3DB7FCAFE0CBD10E8E826E03436D646AAEF87B2E247D4AF1E,
   0x8ABE1D7520F9C2A45CB1EB8E95CFD55262B70B29FEEC5864E19C054FF99129280E4646217791811142820341263C5315)
def bpQ : Nat := 0x8CB91E82A3386D280F5D6F7E50E641DF152F7109ED5456B31F166E6CAC0425A7CF3AB6AF6B7FC3103B883202E9046565

/-- a to the power e modulo m, over the n low bits of e. -/
def powMod (n a e m : Nat) : Nat :=
  match n with
  | 0 => 1 % m
  | k + 1 => let r := powMod k (a * a % m) (e / 2) m; if e % 2 = 1 then a * r % m else r

/-- The inverse modulo a prime of at most 384 bits. -/
def invMod (a m : Nat) : Nat := powMod 384 (a % m) (m - 2) m

/-- The sum of two points; none is the point at infinity. -/
def bpAdd (a b : Option (Nat × Nat)) : Option (Nat × Nat) :=
  match a, b with
  | none, b => b
  | a, none => a
  | some (x, y), some (u, v) =>
    if x = u ∧ (y + v) % bpP = 0 then none
    else
      let l := if x = u then (3 * x * x + bpA) * invMod (2 * y) bpP % bpP else (v + bpP - y) * invMod (u + bpP - x) bpP % bpP
      let w := (l * l + 2 * bpP - x - u) % bpP
      some (w, (l * (x + bpP - w) + bpP - y) % bpP)

/-- n times a point, over the low `bits` bits of n. -/
def bpMul (bits n : Nat) (a : Option (Nat × Nat)) : Option (Nat × Nat) :=
  match bits with
  | 0 => none
  | k + 1 => let r := bpMul k (n / 2) (bpAdd a a); if n % 2 = 1 then bpAdd a r else r

/-! ### ECDSA -/

/-- A number of bytes, the most significant first. -/
def bigEnd (bs : List Byte) : Nat := ofBytes bs.reverse

/-- The signature (r, s) of a digest is valid under an uncompressed public key. -/
def verifies (key sig : List Byte) (digest : BitVec 384) : Bool :=
  let x := bigEnd ((key.drop 1).take 48)
  let y := bigEnd (key.drop 49)
  let r := bigEnd (sig.take 48)
  let s := bigEnd (sig.drop 48)
  let e := bigEnd (leBytes 48 digest.toNat)
  key.length == 97 && key.headD 0 == 4#8 && sig.length == 96 && decide (x < bpP ∧ y < bpP ∧ 0 < r ∧ r < bpQ ∧ 0 < s ∧ s < bpQ) &&
    y * y % bpP == (x * x * x + bpA * x + bpB) % bpP &&
    match bpAdd (bpMul 384 (e * invMod s bpQ % bpQ) (some bpG)) (bpMul 384 (r * invMod s bpQ % bpQ) (some (x, y))) with
    | none => false
    | some (u, _) => u % bpQ == r

/-- The signature (r, s) of a digest under a private key, with the number k drawn for it; key and number lie between 1 and the order less 1. -/
def signs (key k : Nat) (digest : BitVec 384) : List Byte :=
  let d := key % (bpQ - 1) + 1
  let k := k % (bpQ - 1) + 1
  let r := ((bpMul 384 k (some bpG)).map fun p => p.1 % bpQ).getD 0
  let e := bigEnd (leBytes 48 digest.toNat)
  let s := invMod k bpQ * (e + r * d) % bpQ
  (leBytes 48 r).reverse ++ (leBytes 48 s).reverse

/-- The signature of a measurement response by the device key (R427; log 19). -/
def deviceSig (nonce : List Byte) (mrs : List (BitVec 384)) : List Byte :=
  signs Config.deviceKey (Config.signNumber nonce mrs) (sha384 (Config.signedBytes nonce mrs))

end Sys2Proof.Machine
end

