-- ==== Sys2Proof/Machine/Ops.lean ====
section
/-! DEFINITION. The named operations over the machine: who is where, reading and writing registers, the faults a slot checks
for, results in flight, and taking an exception. -/

namespace Sys2Proof.Machine

/-- What a step answers. -/
abbrev Out := Host.Outcome State Fault Refusal

/-! ### parts of the machine -/

/-- The cluster of a core (R81): a compute core's by global index, or a control core's own. -/
def clusOf (n : Nat) : Nat := if n < 384 then n / 8 else n - 384

/-- The die of a core. -/
def dieOf (n : Nat) : Nat := clusOf n / 12

/-- A core is a control core (R10, R122). -/
def isControl (n : Nat) : Bool := decide (384 ≤ n)

def Mach.core (m : Mach) (n : Nat) : Core := rd m.cores n
def Mach.ctx (m : Mach) (n x : Nat) : Ctx := rd (m.core n).ctxs x
def Mach.cl (m : Mach) (k : Nat) : Cluster := rd m.clus k
def Mach.pair (m : Mach) (k : Nat) : Pair := rd m.pairs k
def Mach.region (m : Mach) (r : Nat) : Region := rd m.pack.regions r
def Mach.source (m : Mach) (u : Nat) : Source := rd m.pack.sources u
def Mach.gusset (m : Mach) (g : Nat) : Gusset := rd m.pack.gussets g

def Mach.modCore (m : Mach) (n : Nat) (f : Core → Core) : Mach := { m with cores := up m.cores n f }
def Mach.modCtx (m : Mach) (n x : Nat) (f : Ctx → Ctx) : Mach := m.modCore n fun c => { c with ctxs := up c.ctxs x f }
def Mach.modCl (m : Mach) (k : Nat) (f : Cluster → Cluster) : Mach := { m with clus := up m.clus k f }
def Mach.modPair (m : Mach) (k : Nat) (f : Pair → Pair) : Mach := { m with pairs := up m.pairs k f }
def Mach.modPack (m : Mach) (f : Pack → Pack) : Mach := { m with pack := f m.pack }
def Mach.modRegion (m : Mach) (r : Nat) (f : Region → Region) : Mach :=
  m.modPack fun p => { p with regions := up p.regions r f }
def Mach.modSource (m : Mach) (u : Nat) (f : Source → Source) : Mach :=
  m.modPack fun p => { p with sources := up p.sources u f }
def Mach.modGusset (m : Mach) (g : Nat) (f : Gusset → Gusset) : Mach :=
  m.modPack fun p => { p with gussets := up p.gussets g f }
def Mach.modEng (m : Mach) (n e : Nat) (f : Engine → Engine) : Mach := m.modCore n fun c => { c with eng := up c.eng e f }
def Mach.modBob (m : Mach) (n b : Nat) (f : Bobbin → Bobbin) : Mach := m.modCore n fun c => { c with bob := up c.bob b f }
def Mach.modMx (m : Mach) (n : Nat) (f : Matrix → Matrix) : Mach := m.modCore n fun c => { c with mx := f c.mx }

/-- The region of a cluster: the one whose RMASK holds its bit (R11, R43, R47). -/
def Mach.regionOf (m : Mach) (k : Nat) : Nat := ((List.range 16).find? fun r => (m.region r).mask.getLsbD k).getD 0

/-- The clusters of a region. -/
def Mach.clustersOf (m : Mach) (r : Nat) : List Nat := (List.range 48).filter fun k => (m.region r).mask.getLsbD k

/-- The compute cores of a region that hold anything, in ascending global index. -/
def Mach.coresOf (m : Mach) (r : Nat) : List Nat :=
  (m.cores.map Prod.fst).filter fun n => decide (n < 384) && (m.region r).mask.getLsbD (n / 8)

/-- The cycle of an agent's own clock: its region's age, or the pairs' clock (R376). -/
def Mach.now (m : Mach) (n : Nat) : Nat := if isControl n then m.pclk else (m.region (m.regionOf (clusOf n))).age

/-- The region clock runs and issues: RUN or HOLDOVER, not frozen, not waiting to restart (R62, R375, R299). -/
def Region.runs (g : Region) : Bool := (g.state == 2 || g.state == 3) && !g.frozen

/-- CYC of a core (R81, R295): the region's count without the holds of slips, less what the core itself has waited; while it waits, CYC
is held. -/
def Mach.cyc (m : Mach) (n : Nat) : Nat :=
  let g := m.region (m.regionOf (clusOf n))
  let c := m.core n
  g.free + (c.heldTo - (g.age + 1)) - c.lag

/-! ### twin pairs and duplicates (R438 to R440) -/

/-- The core is the lead, or the follower, of a twin pair. -/
def Mach.isLead (m : Mach) (n : Nat) : Bool := (m.core n).twin == 1
def Mach.follows (m : Mach) (n : Nat) : Bool := (m.core n).twin == 2

/-- The other core of a twin pair. -/
def Mach.partner (m : Mach) (n : Nat) : List Nat := if m.isLead n then [n + 1] else if m.follows n then [n - 1] else []

/-- An instance of a duplicated task that has retired from a context with work still to land (R440): whether it is the duplicate. -/
def Mach.ending (m : Mach) (n x : Nat) : Option Bool :=
  (m.cl (clusOf n)).dups.findSome? fun d => (d.open_.find? fun q => q.2 == (n, x)).map fun q => q.1 == d.b

/-- A spilled record waits on an unmapped page in queue entry 255 (R400): DRSTAT.BLK. -/
def Cluster.blocked (c : Cluster) : Bool := c.queue.any fun q => q.slot == 255

/-- The context's commit records enter a signature. -/
def Mach.tracks (m : Mach) (n x : Nat) : Bool :=
  (m.core n).twin != 0 || (m.ctx n x).task.any (fun t => t.dup != 0) || (m.ending n x).isSome

/-- A commit record: its place in the order of R438, and its bytes. -/
def Mach.commit (m : Mach) (n x order : Nat) (bs : List Byte) : Mach :=
  if m.tracks n x then m.modCore n fun c => { c with commits := c.commits ++ [(order, x, bs)] } else m

/-- The record of a register result that lands (R438): kind and DEST of R379, and VALUE. -/
def Mach.commitReg (m : Mach) (n x kind reg : Nat) (v : Word) : Mach :=
  m.commit n x (kind * 2 ^ 16 + reg) (leBytes 2 kind ++ leBytes 2 reg ++ leBytes 8 v.toNat)

/-- The record of a memory or tile-store write (R438): space, address, bytes. -/
def Mach.commitWrite (m : Mach) (n x space a : Nat) (bs : List Byte) : Mach :=
  m.commit n x (2 ^ 40) (leBytes 1 space ++ leBytes 8 a ++ bs)

/-- The record of another effect outside the core, performed or suppressed (R439): among the writes, under a space of its own: 8 a send, 9 a
message's fragments, 10 a stage, 11 a TASKPOST (log 160). -/
def Mach.commitOut (m : Mach) (n x what a : Nat) (bs : List Byte) : Mach := m.commitWrite n x what a bs

/-- What a read from outside the core is taken by: 0 an access to storage, 16 + b a pop of bobbin b, 32 + c a receive of channel c,
48 FRECV, 49 the flag of TASKPOST, 50 MFC, 51 the stop of a routine (no read: R389). -/
def popKey (b : Nat) : Nat := 16 + b
def recvKey (c : Nat) : Nat := 32 + c
def frecvKey : Nat := 48
def postKey : Nat := 49
def mfcKey : Nat := 50
def routineKey : Nat := 51

/-- A lead notes what it read from outside its core. -/
def Mach.noteRead (m : Mach) (n key : Nat) (bs : List Byte) (mark : Bool) : Mach :=
  if m.isLead n then m.modCore n fun c => { c with log := c.log ++ [(m.now n, key, bs, mark)] } else m

/-- What its lead read two cycles earlier, for a follower. -/
def Mach.leadRead (m : Mach) (n key : Nat) : Option (List Byte × Bool) :=
  if m.follows n then (((m.core (n - 1)).log.find? fun q => q.1 + 2 == m.now n && q.2.1 == key).map fun q => q.2.2) else none

/-- The follower has taken it. -/
def Mach.tookRead (m : Mach) (n key : Nat) : Mach :=
  if m.follows n then m.modCore (n - 1) fun c => { c with log := c.log.eraseP fun q => q.1 + 2 == m.now n && q.2.1 == key } else m

/-- An effect outside the core is not performed: the core is a follower, or the task a duplicate (R439, R440). -/
def Mach.mute (m : Mach) (n x : Nat) : Bool := m.follows n || (m.ctx n x).task.any (fun t => t.dup == 2) || m.ending n x == some true

/-- A write of n bytes at a of cluster k's scratchpad is not performed: a duplicate writes only its own allotment. -/
def Mach.muteAt (m : Mach) (n x k a len : Nat) : Bool :=
  m.follows n || m.ending n x == some true || (m.ctx n x).task.any fun t => t.dup == 2 &&
    !(k == clusOf n && decide (t.spad.1 ≤ a ∧ a + len ≤ t.spad.1 + t.spad.2))

/-! ### registers as the issuing context sees them -/

/-- The physical slot of a vector code below the window size (R73). -/
def Ctx.phys (c : Ctx) (code : Nat) : Nat :=
  c.vwb + (if code < c.vws - c.rot ∨ c.rot = 0 then code
           else c.vws - c.rot + (code - (c.vws - c.rot) + c.rrb) % c.rot)

/-- The physical predicate of a predicate name (R73). -/
def Ctx.physP (c : Ctx) (n : Nat) : Nat := if n < 8 then n else 8 + (n - 8 + c.prb) % 8

/-- A scalar register's value; s0 reads 0 (R70). -/
def Ctx.sval (c : Ctx) (n : Nat) : Word := if n = 0 then 0 else (rd c.s n).val

/-- A flag; k0 reads 1 (R70). -/
def Ctx.kval (c : Ctx) (n : Nat) : Bool := if n = 0 then true else rd c.k n

/-- A physical predicate; p0 reads all ones (R70). -/
def Ctx.pphys (c : Ctx) (n : Nat) : Pred := if n = 0 then BitVec.allOnes 192 else rd c.p n

/-- A predicate by name (R70, R73). -/
def Ctx.pval (c : Ctx) (n : Nat) : Pred := c.pphys (c.physP n)

/-- A fill to the register is outstanding (R266): kind 0 vector, 1 scalar, 2 predicate. -/
def Ctx.filling (c : Ctx) (kind reg : Nat) : Bool := c.toks.any fun t => t.kind == kind && t.reg == reg

/-- TOK (R81): bit n set while fill token n is outstanding. -/
def Ctx.tok (c : Ctx) : Nat := c.toks.foldl (fun w t => w ||| 2 ^ t.tok) 0

/-- The issuing core, context, and their state as the slots of the cycle read it. -/
def State.n (s : State) : Nat := s.turn.core
def State.x (s : State) : Nat := s.turn.ctx
def State.clus (s : State) : Nat := clusOf s.turn.core
def State.me (s : State) : Ctx := s.view.ctx s.turn.core s.turn.ctx
def State.myCore (s : State) : Core := s.view.core s.turn.core
def State.myCl (s : State) : Cluster := s.view.cl s.clus
/-- Nothing outside the core changes by the issuing context (R439, R440). -/
def State.muted (s : State) : Bool := s.view.mute s.n s.x
def State.myRegion (s : State) : Nat := s.view.regionOf s.clus
/-- The issue cycle on the issuing agent's own clock. -/
def State.age (s : State) : Nat := s.view.now s.turn.core
/-- The issuing slot's place in issue order (R89). -/
def State.ord (s : State) : Nat := 8 * s.age + s.turn.pos
/-- CYC at issue (R153). -/
def State.cyc (s : State) : Nat := s.view.cyc s.turn.core

/-- Scalar, flag, predicate operands, read at issue (R89). -/
def State.rs (s : State) (n : SReg) : Word := s.me.sval n.toNat
def State.rk (s : State) (n : KReg) : Bool := s.me.kval n.toNat
def State.rp (s : State) (n : PReg) : Pred := s.me.pval n.toNat

/-- The guard of MASKSEL (R77). -/
def Ctx.guard (c : Ctx) : Bool := c.kval (c.masksel.extractLsb' 4 3).toNat != c.masksel.getLsbD 7

/-- The merge predicate of MASKSEL, renamed (R77). -/
def Ctx.mergePred (c : Ctx) : Pred := c.pval (c.masksel.extractLsb' 0 4).toNat

/-- Fields of FMT (R78). -/
def fmtV (f : BitVec 22) : Nat := (f.extractLsb' 0 4).toNat
def fmtW (f : BitVec 22) : Nat := (f.extractLsb' 4 4).toNat
def fmtA (f : BitVec 22) : Nat := (f.extractLsb' 8 4).toNat
def fmtB (f : BitVec 22) : Nat := (f.extractLsb' 12 4).toNat
def fmtRM (f : BitVec 22) : Nat := (f.extractLsb' 16 2).toNat
def fmtSat (f : BitVec 22) : Bool := f.getLsbD 18
def fmtStrict (f : BitVec 22) : Bool := f.getLsbD 19
def fmtFsc (f : BitVec 22) : Bool := f.getLsbD 20
def fmtCsc (f : BitVec 22) : Bool := f.getLsbD 21

/-- The immediate of an RI slot: imm14 sign-extended, or the 41 bits that an EXT of the bundle makes with it (R84, R85). -/
def State.imm (s : State) (i : BitVec 14) : Word :=
  match s.turn.ext with
  | none => i.signExtend 64
  | some p => (p ++ i).signExtend 64

/-- The plane of a configuration kind that a core has active (R156). -/
def Core.planeOf (c : Core) (kind : Nat) : Plane := if c.active.getLsbD kind then c.plane1 else c.plane0

/-- The expanded words that execute (R303). -/
def SegBuf.words (b : SegBuf) : List (BitVec 32) := (b.cur.map Segment.words).getD []

/-- The slot word at a byte address of the active instruction plane, or at an offset of the expanded segment (R7, R303); of a control core at a
byte address of the body of the firmware image in its active plane, behind the header's 256 bytes (R423, R428; log 14). -/
def Mach.fetch (m : Mach) (n x addr : Nat) : BitVec 32 :=
  match (m.ctx n x).segbuf with
  | none => if isControl n then BitVec.ofNat 32 (((m.core n).planeOf 4).fw.nat (256 + addr) 4) else rd ((m.core n).planeOf 0).imem (addr / 4)
  | some b => b.words.getD (addr / 4) 0

/-- The slots of the bundle from an address on: up to the first with E = 1, at most `fuel` (R86). -/
def Mach.slotsFrom (m : Mach) (n x addr fuel : Nat) : Nat :=
  match fuel with
  | 0 => 0
  | k + 1 => if (m.fetch n x addr).getLsbD 31 then 1 else 1 + m.slotsFrom n x (addr + 4) k

/-- The address of the slot after the issuing bundle (R137, R146). -/
def State.after (s : State) : Nat := s.turn.addr + 4 * s.view.slotsFrom s.n s.x s.turn.addr 8

/-! ### slot words -/

/-- The class of a slot word (R82). -/
def wordClass (w : BitVec 32) : Nat := fld w.toNat 27 4

/-- The words of the bundle that starts at an address: up to the first with E = 1, at most eight, and none beyond the end of
the plane or of the segment. -/
def bundleWords (fetch : Nat → BitVec 32) (codeEnd addr fuel : Nat) : List (BitVec 32) :=
  match fuel with
  | 0 => []
  | k + 1 =>
    if codeEnd ≤ addr then []
    else
      let w := fetch addr
      if w.getLsbD 31 then [w] else w :: bundleWords fetch codeEnd (addr + 4) k

/-! ### causes and information words (R372, R88, R120) -/

def cILLENC : Nat := 0x01
def cBUNDLE : Nat := 0x02
def cWINDOW : Nat := 0x03
def cPRIV : Nat := 0x04
def cALIGN : Nat := 0x05
def cBOUNDS : Nat := 0x06
def cEARLY : Nat := 0x07
def cSTACK : Nat := 0x08
def cSTREAM : Nat := 0x09
def cDEADLINE : Nat := 0x0A
def cSLIP : Nat := 0x0B
def cMBUSY : Nat := 0x0C
def cPOISON : Nat := 0x0D
def cTWIN : Nat := 0x0E
def cBUDGET : Nat := 0x0F
def cFOOT : Nat := 0x10
def cEXPOVF : Nat := 0x11
def cGROUP : Nat := 0x12
def cLOSS : Nat := 0x13
def cBANKOFF : Nat := 0x14
def cGUSSET : Nat := 0x15
def cOPER : Nat := 0x16
def cSWTRAP : Nat := 0x17
def cBREAK : Nat := 0x18
def cSOURCE : Nat := 0x19

/-- The layout of R88: WORD [63:32], SUB [11:8], SLOT [6:4], CODE [3:0]. SUB has four bits; a greater subcause is held modulo
16 (log 23). -/
def slotInfo (word : BitVec 32) (sub slot code : Nat) : Word :=
  BitVec.ofNat 64 (word.toNat * 2 ^ 32 + sub % 16 * 2 ^ 8 + slot % 8 * 2 ^ 4 + code % 16)

/-- The information word of the issuing slot (R88). -/
def State.info (s : State) (sub : Nat) : Word := slotInfo s.turn.word sub s.turn.pos 0

def State.oper (s : State) (sub : Nat) : Exc := { cause := cOPER, info := s.info sub }
def State.plain (s : State) (cause : Nat) : Exc := { cause := cause, info := s.info 0 }
def exc (cause : Nat) (info : Word) : Exc := { cause := cause, info := info }

/-- Raise the exception if the condition holds. -/
def when (c : Bool) (e : Exc) : Except Exc Unit := if c then .error e else .ok ()

/-! ### checks every slot makes (R119, R161, R122) -/

/-- EARLY of any scalar operand, then POISON of any (R119). -/
def State.chkS (s : State) (rs : List SReg) : Except Exc Unit := do
  when (rs.any fun r => r != 0 && s.me.filling 1 r.toNat) (s.plain cEARLY)
  when (rs.any fun r => r != 0 && (rd s.me.s r.toNat).poison) (s.plain cPOISON)

/-- EARLY of any vector register or predicate operand, then POISON of any vector register (R161); bobbin codes are no
registers. `noPoison` leaves the poison check out (spillv). -/
def State.chkV (s : State) (vs : List VCode) (ps : List PReg) (noPoison : Bool) : Except Exc Unit := do
  let regs := vs.filter fun v => decide (v.toNat < 120)
  when (regs.any (fun v => s.me.filling 0 (s.me.phys v.toNat)) ||
        ps.any fun p => p != 0 && s.me.filling 2 (s.me.physP p.toNat)) (s.plain cEARLY)
  when (!noPoison && regs.any fun v => (rd s.myCore.v (s.me.phys v.toNat)).poison) (s.plain cPOISON)

/-- PRIV in a compute context (R122). -/
def State.chkPriv (s : State) : Except Exc Unit := when (!isControl s.n) (s.plain cPRIV)

/-! ### effects of a slot -/

/-- The machine that the cycle leaves, changed. -/
def State.mod (s : State) (f : Mach → Mach) : State := { s with next := f s.next }
def State.modMe (s : State) (f : Ctx → Ctx) : State := s.mod fun m => m.modCtx s.n s.x f
def State.modMyCore (s : State) (f : Core → Core) : State := s.mod fun m => m.modCore s.n f
def State.modMyCl (s : State) (f : Cluster → Cluster) : State := s.mod fun m => m.modCl s.clus f
def State.modTurn (s : State) (f : Turn → Turn) : State := { s with turn := f s.turn }

/-- What follows at the opening of this cycle is undone if the region freezes in it (R375). -/
def State.undoable (s : State) : State := s.modTurn fun t => { t with undo := some (t.undo.getD s.next) }

/-- A result of the context put in flight: readable `lat` cycles after issue (R89). -/
def Ctx.fly (c : Ctx) (r : Result) : Ctx := { c with inflight := c.inflight ++ [r] }

/-- The issuing context's result, with its latency. -/
def State.land (s : State) (lat : Nat) (w : Landing) (poison : Bool) : State :=
  s.modMe fun c => c.fly { due := s.age + lat, ord := s.ord, what := w, poison := poison }

/-- A result bound for a scalar register; s0 discards it (R71). -/
def State.putS (s : State) (d : SReg) (v : Word) (lat : Nat) : State :=
  if d = 0 then s else s.land lat (.s d.toNat v) false

/-- A result bound for a flag; k0 discards it (R71). -/
def State.putK (s : State) (d : KReg) (v : Bool) (lat : Nat) : State :=
  if d = 0 then s else s.land lat (.k d.toNat v) false

/-- A result bound for a predicate, renamed at issue (R73, R74); p0 discards it (R71). -/
def State.putP (s : State) (d : PReg) (v : Pred) (lat : Nat) : State :=
  if d = 0 then s else s.land lat (.p (s.me.physP d.toNat) v) false

/-- A control register's new value, with latency 2 (R153). -/
def State.putC (s : State) (num : Nat) (v : Word) : State := s.land 2 (.ctl num v) false

/-- The register that a destination names: its kind (1 scalar, 3 predicate, 4 vector) and number (R379). -/
def VDest.reg (d : VDest) : Option (Nat × Nat) :=
  match d with
  | .v n => some (4, n)
  | .p n => some (3, n)
  | .s n => some (1, n)
  | .spad _ | .egress _ | .gusset _ | .tile _ _ | .send _ _ => none

/-- The registers that an access will write when it performs: kind and number of R379, and the cycles from its performing to the
bundle that reads it. They are results in flight from its issue on (R379, R380; log 24), a punpk's discarded write to p0 too (log 168). -/
def Access.regs (a : Access) : List (Nat × Nat × Nat) :=
  match a with
  | .load _ _ _ d l | .amo _ _ _ _ d l | .lookup _ d l => if d = 0 then [] else [(1, d, l)]
  | .vload _ d l | .fillV _ d _ l => [(4, d, l)]
  | .fillS _ d _ l => [(1, d, l)]
  | .fillP _ d _ l => [(3, d, l)]
  | .pop _ _ _ ds l | .gather _ _ _ ds l => (ds.filterMap VDest.reg).map fun q => (q.1, q.2, l)
  | .post _ k l => if k = 0 then [] else [(2, k, l)]
  | .store _ _ _ _ _ | .amoTold _ _ _ _ _ _ _ | .vstore _ _ _ _ _ | .scatter _ _ _ _ _ | .scatterAdd _ _ _ _ _ _ | .spillP _ _ | .tagset _ _
  | .tagclr _ | .tagwipe | .bank _ _ | .bytes _ _ _ | .payload _ _ _ | .members _ _ _ _ _ => []

/-- The register that a read of the tile store will write, as `Access.regs`. -/
def TileAcc.regs (a : TileAcc) : List (Nat × Nat × Nat) :=
  match a with
  | .get _ _ d l => (d.reg.map fun q => (q.1, q.2, l)).toList
  | .put _ _ _ _ | .zero _ => []

/-- A register result that an access not yet performed will bring: when it is readable, its place in issue order, kind and number. -/
structure Coming where
  due  : Nat
  ord  : Nat
  kind : Nat
  num  : Nat
deriving DecidableEq, Repr

/-- The cycle at which a copy completes (R251): E of its last iteration. -/
def Copy.eta (c : Copy) : Nat := c.iters.foldl (fun t i => max t (i.d + i.beats)) 0

/-- The end E of the last data phase that the copies outstanding on an engine take (R251); a bmset takes none (R263). -/
def busyAfter (b : Nat) (c : Copy) : Nat :=
  match c.kind with
  | .bmset _ => b
  | .plain | .gath | .scat | .bmchk _ _ _ => max b c.eta
def Engine.busy (g : Engine) : Nat := g.copies.foldl busyAfter 0

/-- The copies outstanding on both engines of a core. -/
def Core.copies (c : Core) : List Copy := (rd c.eng 0).copies ++ (rd c.eng 1).copies

/-- The work is a copy: a bmset is none (R263). -/
def Copy.copies (c : Copy) : Bool :=
  match c.kind with
  | .bmset _ => false
  | .plain | .gath | .scat | .bmchk _ _ _ => true

/-- Work of context x that it issued before age i (R260, R279). -/
def Copy.before (c : Copy) (x i : Nat) : Bool := c.ctx == x && decide (c.issued < i)

/-- The register results that the work of a context will bring: the accesses of its cluster's storage and its core's tile store, its
digests (R276) and its bit checks (R262). -/
def Mach.coming (m : Mach) (n x : Nat) : List Coming :=
  (((m.cl (clusOf n)).pend.filter fun p => p.core == n && p.ctx == x).flatMap fun p =>
    p.acc.regs.map fun (k, i, l) => { due := p.due + l, ord := p.ord, kind := k, num := i }) ++
  (((rd m.tile n).filter fun p => p.ctx == x).flatMap fun p =>
    p.acc.regs.map fun (k, i, l) => { due := p.due + l, ord := p.ord, kind := k, num := i }) ++
  (((m.cl (clusOf n)).out.filter fun o => o.core == n && o.ctx == x && o.dig && o.reg != 0).map fun o =>
    { due := o.land, ord := 8 * o.at_ + 7, kind := 1, num := o.reg }) ++
  ((m.core n).copies.filter fun c => c.ctx == x).filterMap fun c =>
    match c.kind with
    | .bmchk k _ _ => if k = 0 then none else some { due := c.eta, ord := 8 * c.issued + 7, kind := 2, num := k }
    | .plain | .gath | .scat | .bmset _ => none

/-- Register results the context has in flight (R380), its loads not yet performed among them (log 24). -/
def State.flying (s : State) : Nat := (s.next.ctx s.n s.x).inflight.length + (s.next.coming s.n s.x).length

/-- An access of the slot to its cluster's storage, `wait` cycles after issue (R322). -/
def State.access (s : State) (wait : Nat) (a : Access) : State :=
  s.modMyCl fun c => { c with pend := c.pend ++
    [{ core := s.n, ctx := s.x, uid := s.me.task.map Task.uid, ord := s.ord, due := s.age + wait, acc := a }] }

/-- Planes of a core flip (R156, R430): each shadow becomes active, and the plane that was active is not complete. -/
def Core.flip (c : Core) (mask : BitVec 6) : Core :=
  { c with active := c.active ^^^ mask, complete := c.complete &&& ~~~ mask, flips := c.flips &&& ~~~ mask }

/-- A measurement register extended by a digest (R427). -/
def Mach.extendBy (m : Mach) (i : Nat) (d : BitVec 384) : Mach :=
  m.modPack fun p => { p with mrs := up p.mrs i fun r => sha384 (leBytes 48 r.toNat ++ leBytes 48 d.toNat) }

/-- A measurement register extended by the digest of bytes. -/
def Mach.extend (m : Mach) (i : Nat) (d : List Byte) : Mach := m.extendBy i (sha384 d)

/-! ### taking an exception -/

/-- The first fault of a bundle by the order of R88: the one of lower place stands. -/
def Turn.note (t : Turn) (place : Nat) (e : Exc) : Turn :=
  match t.fault with
  | none => { t with fault := some (place, e) }
  | some (q, f) => if place < q then { t with fault := some (place, e) } else { t with fault := some (q, f) }

/-- The issuing slot raises an execution fault (R88, R90): the bundle is annulled when it closes. -/
def State.raise (s : State) (e : Exc) : State := s.modTurn fun t => t.note (100 + t.pos) e

/-- What a slot does: its effect, or its first fault; a bundle that would hold more than 96 results in flight raises OPER 28
(R380). -/
def issue (s : State) (r : Except Exc State) : Out :=
  match r with
  | .error e => .next (s.raise e)
  | .ok t => if 96 < t.flying then .next (s.raise (s.oper 28)) else .next t

/-- Post an event to a cluster's pair (R373, R382): at most 64 wait, and one that finds them full is dropped and sets OVF. -/
def Mach.post (m : Mach) (k : Nat) (e : Event) : Mach :=
  m.modPair k fun p => if p.evs.length < 64 then { p with evs := p.evs ++ [e] } else { p with ovf := true }

/-- An asynchronous event with no core (EVO.CORE 0x1FF), of a cluster (R381). -/
def Mach.postEv (m : Mach) (k cause : Nat) (info : Word) : Mach :=
  m.post k { cause := cause, info := info, core := 0x1FF, ctx := 0, region := m.regionOf k, frz := false, rwf := false }

/-- An asynchronous event whose origin is a context of a core (R373, R381); a follower posts none (R439). -/
def Mach.postCtx (m : Mach) (n x cause : Nat) (info : Word) : Mach :=
  if m.follows n then m
  else m.post (clusOf n) { cause := cause, info := info, core := n, ctx := x, region := m.regionOf (clusOf n), frz := false,
                           rwf := (m.ctx n x).rwf }

/-- Post the event to the pair of every cluster of a region (R65, R298). -/
def Mach.postRegion (m : Mach) (r cause : Nat) (info : Word) : Mach :=
  (m.clustersOf r).foldl (fun m k => m.postEv k cause info) m

/-- The contexts of a region that hold a task, in ascending core and context (R377, R382). -/
def Mach.held (m : Mach) (r : Nat) : List (Nat × Nat) :=
  (m.coresOf r).flatMap fun n => ((List.range 8).filter fun x => (m.ctx n x).task.isSome).map fun x => (n, x)

/-- Taking an exception (R375, R377): the region freezes at the count of the machine given, which is the machine as the cycle
found it. Every context that holds a task gets a record: KIND 1 with its cause and word where a fault is charged to it, else
KIND 2; the follower of a twin pair is a partner (R389). The records are complete 32 pair cycles later. -/
def Mach.freeze (m : Mach) (r : Nat) (faults : List (Nat × Nat × Exc × Bool)) : Mach :=
  let recs := (m.held r).map fun (n, x) =>
    match faults.find? fun f => f.1 == n && f.2.1 == x with
    | some f => { core := n, ctx := x, kind := 1, trapc := BitVec.ofNat 8 f.2.2.1.cause, trapi := f.2.2.1.info, act := none,
                  done := false, byBundle := f.2.2.2 }
    | none => ({ core := n, ctx := x, kind := 2, trapc := 0, trapi := 0, act := none, done := false, byBundle := false } : FreezeRec)
  m.modRegion r fun g => { g with frozen := true, fcyc := g.count, recs := recs, recsAt := some (m.pclk + 31) }

/-- Taking an event (R382): EPC, TRAPC, TRAPI and EVO take the event, and the handler's first bundle issues 3 cycles later. -/
def Mach.takeEvent (m : Mach) (k : Nat) (e : Event) : Mach :=
  let epc := (m.ctx (384 + k) 0).pc
  let m := m.modPair k fun p =>
    { p with
      epc := epc
      handler := true
      evo := BitVec.ofNat 22 (bnat e.rwf * 2 ^ 21 + bnat e.frz * 2 ^ 20 + e.region % 16 * 2 ^ 16 + e.ctx % 8 * 2 ^ 9 + e.core % 512) }
  let hvec := (m.pair k).hvec
  m.modCtx (384 + k) 0 fun c =>
    { c with pc := hvec, trapc := BitVec.ofNat 8 e.cause, trapi := e.info, run := .at (m.pclk + 3) }

/-- The return (R154, R382): PC := EPC, TRAPC and TRAPI 0, no longer in the handler. -/
def Mach.returnEvent (m : Mach) (k : Nat) : Mach :=
  (m.modPair k fun p => { p with handler := false }).modCtx (384 + k) 0 fun c =>
    { c with pc := (m.pair k).epc &&& 0xFFFC#16, trapc := 0, trapi := 0 }

/-- A fault of a control context, or a mismatch of the twinned control cores, halts the pair (R383): the sideband reports it (R422), and
the chip command processor receives it as an event unless it is the pair that has halted (log 8), which takes no command from then on (R10,
R413; log 182). -/
def Mach.haltPair (m : Mach) (k : Nat) (e : Exc) : Mach :=
  let m := (m.modPair k fun p => { p with dead := true }).modPack fun p =>
    { p with out := p.out ++ [.report (0x200 + k) (BitVec.ofNat 64 e.cause)] }
  if k = 0 then m.modPack fun p => { p with ready := false }
  else m.post 0 { cause := e.cause, info := e.info, core := 384 + k, ctx := 0, region := m.regionOf k, frz := false, rwf := false }

end Sys2Proof.Machine
end

