-- ==== Sys2Proof/Machine/Flags.lean ====
section
/-! DEFINITION. Every condition and flag operation the spec gives: RK conditions (R126), flag logic (R127), predicate tests
(R203), the conditions of branches (R138). -/

namespace Sys2Proof.Machine

/-- The condition of a kcmp (R84, R126): eq, ne, lt, ge, ltn, gen, bitset. -/
def rkHolds (cond : BitVec 3) (a b : Word) : Bool :=
  match cond.toNat with
  | 0 => a == b
  | 1 => a != b
  | 2 => a.slt b
  | 3 => b.sle a
  | 4 => a.ult b
  | 5 => b.ule a
  | _ => a &&& b != 0

/-- The operation of a klog (R127): and, or, xor, andn, nand, nor, xnor. -/
def klogOp (op : BitVec 3) (a b : Bool) : Bool :=
  match op.toNat with
  | 0 => a && b
  | 1 => a || b
  | 2 => a != b
  | 3 => a && !b
  | 4 => !(a && b)
  | 5 => !(a || b)
  | _ => a == b

/-- The test of a ptest (R203): any bit set, all bits set, no bit set. -/
def ptestHolds (mode : BitVec 2) (p : Pred) : Bool :=
  match mode.toNat with
  | 0 => p != 0
  | 1 => p == BitVec.allOnes 192
  | _ => p == 0

/-- The predicate with bit i set where i < n (R203). -/
def predBelow (n : Nat) : Pred := BitVec.ofNat 192 (2 ^ min n 192 - 1)

/-- The predicate with bit i = bit i mod 64 of a word (R203). -/
def predRepeat (w : Word) : Pred := w ++ w ++ w

/-- How many bits of n low bits are set. -/
def popCount (n v : Nat) : Nat :=
  match n with
  | 0 => 0
  | n + 1 => v % 2 + popCount n (v / 2)

/-- The index of the lowest set bit among n, or n if none is set. -/
def lowestBit (n v : Nat) : Nat :=
  match n with
  | 0 => 0
  | n + 1 => if v % 2 = 1 then 0 else 1 + lowestBit n (v / 2)

end Sys2Proof.Machine
end

