-- ==== Sys2Proof/Machine/Operands.lean ====
section
/-! DEFINITION. The operand forms: which fields of a slot name vector registers, bobbins and destinations (R72, R76, R83,
R87), the effective addresses of M-format slots (R84, R130), and what the fields of each instruction name. -/

namespace Sys2Proof.Machine

/-- What an operand field of a slot names. Positions: 0 D, 1 A, 2 B (R88). -/
inductive Opnd where
  | readV (pos : Nat) (c : VCode)
  | writeV (pos : Nat) (c : VCode)
  /-- the companion register, one above the code (R177, R178, R275) -/
  | readComp (pos : Nat) (c : VCode)
  | writeComp (pos : Nat) (c : VCode)
  | writeS (n : SReg)
  | writeK (n : KReg)
  | writeP (n : Nat)
  /-- a bobbin named in a control field (R193, R196) -/
  | bob (n : BitVec 3)
deriving DecidableEq, Repr

/-- The base register that a post-increment writes (R130). -/
def incr (x : Bool) (b : SReg) : List Opnd := if x then [.writeS b] else []

/-- What the fields of a slot name. -/
def opnds (i : Instr) : List Opnd :=
  match i with
  | .add _ d _ _ => [.writeS d]
  | .sub _ d _ _ => [.writeS d]
  | .and _ d _ _ => [.writeS d]
  | .or _ d _ _ => [.writeS d]
  | .xor _ d _ _ => [.writeS d]
  | .andn _ d _ _ => [.writeS d]
  | .shl _ d _ _ => [.writeS d]
  | .shr _ d _ _ => [.writeS d]
  | .sar _ d _ _ => [.writeS d]
  | .rotl _ d _ _ => [.writeS d]
  | .min _ d _ _ => [.writeS d]
  | .max _ d _ _ => [.writeS d]
  | .minn _ d _ _ => [.writeS d]
  | .maxn _ d _ _ => [.writeS d]
  | .mul _ d _ _ => [.writeS d]
  | .mulh _ d _ _ => [.writeS d]
  | .mulhn _ d _ _ => [.writeS d]
  | .div _ d _ _ => [.writeS d]
  | .divn _ d _ _ => [.writeS d]
  | .rem _ d _ _ => [.writeS d]
  | .remn _ d _ _ => [.writeS d]
  | .clz _ d _ => [.writeS d]
  | .ctz _ d _ => [.writeS d]
  | .popc _ d _ => [.writeS d]
  | .sext _ d _ _ => [.writeS d]
  | .zext _ d _ _ => [.writeS d]
  | .mov _ d _ => [.writeS d]
  | .csel _ d _ _ => [.writeS d]
  | .kcmp _ k _ _ => [.writeK k]
  | .kcmpImm _ k _ _ => [.writeK k]
  | .klog _ k _ _ => [.writeK k]
  | .addi _ d _ => [.writeS d]
  | .andi _ d _ => [.writeS d]
  | .ori _ d _ => [.writeS d]
  | .xori _ d _ => [.writeS d]
  | .shli _ d _ => [.writeS d]
  | .shri _ d _ => [.writeS d]
  | .sari _ d _ => [.writeS d]
  | .movi _ d _ => [.writeS d]
  | .movhi d _ => [.writeS d]
  | .muli _ d _ => [.writeS d]
  | .addpc d _ => [.writeS d]
  | .ext _ => []
  | .br _ => []
  | .bk _ _ _ => []
  | .call _ => [.writeS 31]
  | .jr _ => []
  | .callr _ => [.writeS 31]
  | .ret => []
  | .loopb _ => []
  | .loopc _ => []
  | .loopset _ _ => []
  | .notch => []
  | .hemsync => []
  | .smpl => []
  | .yield => []
  | .retire => []
  | .setfmt _ => []
  | .nop => []
  | .trapi _ => []
  | .brkpt => []
  | .sstep => []
  | .fence _ => []
  | .ldb x d b _ => [.writeS d] ++ incr x b
  | .ldbn x d b _ => [.writeS d] ++ incr x b
  | .ldh x d b _ => [.writeS d] ++ incr x b
  | .ldhn x d b _ => [.writeS d] ++ incr x b
  | .ldw x d b _ => [.writeS d] ++ incr x b
  | .ldwn x d b _ => [.writeS d] ++ incr x b
  | .ldd x d b _ => [.writeS d] ++ incr x b
  | .stb x _ b _ => incr x b
  | .sth x _ b _ => incr x b
  | .stw x _ b _ => incr x b
  | .std x _ b _ => incr x b
  | .amoadd d _ _ => [.writeS d]
  | .amoswap d _ _ => [.writeS d]
  | .amocas d _ _ => [.writeS (d ++ 0#1)]
  | .amomin d _ _ => [.writeS d]
  | .amomax d _ _ => [.writeS d]
  | .amominn d _ _ => [.writeS d]
  | .amomaxn d _ _ => [.writeS d]
  | .amoand d _ _ => [.writeS d]
  | .amoor d _ _ => [.writeS d]
  | .amoxor d _ _ => [.writeS d]
  | .lookup d _ _ => [.writeS d]
  | .tagset _ _ _ => []
  | .tagclr _ _ => []
  | .lea d _ _ => [.writeS d]
  | .vadd _ d a b => [.readV 1 a, .readV 2 b, .writeV 0 d]
  | .vsub _ d a b => [.readV 1 a, .readV 2 b, .writeV 0 d]
  | .vmul _ d a b => [.readV 1 a, .readV 2 b, .writeV 0 d]
  | .vfma _ d a b => [.readV 0 d, .readV 1 a, .readV 2 b, .writeV 0 d]
  | .vfms _ d a b => [.readV 0 d, .readV 1 a, .readV 2 b, .writeV 0 d]
  | .vmin _ d a b => [.readV 1 a, .readV 2 b, .writeV 0 d]
  | .vmax _ d a b => [.readV 1 a, .readV 2 b, .writeV 0 d]
  | .vabs _ d a => [.readV 1 a, .writeV 0 d]
  | .vneg _ d a => [.readV 1 a, .writeV 0 d]
  | .vand _ d a b => [.readV 1 a, .readV 2 b, .writeV 0 d]
  | .vor _ d a b => [.readV 1 a, .readV 2 b, .writeV 0 d]
  | .vxor _ d a b => [.readV 1 a, .readV 2 b, .writeV 0 d]
  | .vshl _ d a b => [.readV 1 a, .readV 2 b, .writeV 0 d]
  | .vshr _ d a b => [.readV 1 a, .readV 2 b, .writeV 0 d]
  | .vsar _ d a b => [.readV 1 a, .readV 2 b, .writeV 0 d]
  | .vsel _ d a b => [.readV 1 a, .readV 2 b, .writeV 0 d]
  | .vmov _ d a => [.readV 1 a, .writeV 0 d]
  | .vbc _ d _ => [.writeV 0 d]
  | .vaddi _ d a _ => [.readV 1 a, .writeV 0 d]
  | .vmuli _ d a _ => [.readV 1 a, .writeV 0 d]
  | .vrecip _ d a => [.readV 1 a, .writeV 0 d]
  | .vrsqrt _ d a => [.readV 1 a, .writeV 0 d]
  | .vexp2 _ d a => [.readV 1 a, .writeV 0 d]
  | .vlog2 _ d a => [.readV 1 a, .writeV 0 d]
  | .vclamp _ d a b => [.readV 0 d, .readV 1 a, .readV 2 b, .writeV 0 d]
  | .vround _ d a => [.readV 1 a, .writeV 0 d]
  | .vcmp _ p a b => [.readV 1 a, .readV 2 b, .writeP p.toNat]
  | .vmulh _ d a b => [.readV 1 a, .readV 2 b, .writeV 0 d]
  | .vsatadd _ d a b => [.readV 1 a, .readV 2 b, .writeV 0 d]
  | .vsatsub _ d a b => [.readV 1 a, .readV 2 b, .writeV 0 d]
  | .vaddw _ d a b => [.readV 1 a, .readV 2 b, .writeV 0 d]
  | .vmacw _ d a b => [.readV 0 d, .readV 1 a, .readV 2 b, .writeV 0 d]
  | .vcvt _ d a _ => [.readV 1 a, .writeV 0 d]
  | .vq8 _ d a _ => [.readV 1 a, .writeV 0 d, .writeComp 0 d]
  | .vdq8 _ d a _ => [.readV 1 a, .readComp 1 a, .writeV 0 d]
  | .vredsum _ d a b => [.readV 1 a, .readV 2 b, .writeV 0 d]
  | .vredmax _ d a b => [.readV 1 a, .readV 2 b, .writeV 0 d]
  | .vredmin _ d a b => [.readV 1 a, .readV 2 b, .writeV 0 d]
  | .vscan _ d a b => [.readV 1 a, .readV 2 b, .writeV 0 d]
  | .vperm _ d a b => [.readV 1 a, .readV 2 b, .writeV 0 d]
  | .vrot _ d a _ => [.readV 1 a, .writeV 0 d]
  | .vshuf _ d a b => [.readV 1 a, .readV 2 b, .writeV 0 d]
  | .vpackh _ d a b => [.readV 1 a, .readV 2 b, .writeV 0 d]
  | .vunpk _ d a _ => [.readV 1 a, .writeV 0 d]
  | .vrand _ d _ b => [.readV 2 b, .writeV 0 d]
  | .vext _ d a _ => [.readV 1 a, .writeS d]
  | .vins _ d _ _ => [.writeV 0 d]
  | .vbsum _ d a => [.readV 1 a, .writeV 0 d]
  | .vbmax _ d a => [.readV 1 a, .writeV 0 d]
  | .vld x d b _ => [.writeV 0 d] ++ incr x b
  | .vst x d b _ => [.readV 0 d] ++ incr x b
  | .vstm x d b _ => [.readV 0 d] ++ incr x b
  | .vldx _ d _ b => [.readV 2 b, .writeV 0 d]
  | .vstx _ d _ b => [.readV 0 d, .readV 2 b]
  | .vstxa _ d _ b => [.readV 0 d, .readV 2 b]
  | .bset n _ => [.bob n]
  | .bseek _ n _ => [.bob n]
  | .bpos _ d n => [.bob n, .writeS d]
  | .bstat _ d n => [.bob n, .writeS d]
  | .bstatGather _ d => [.writeS d]
  | .bflush _ n => [.bob n]
  | .bdone _ n => [.bob n]
  | .pand d _ _ => [.writeP d.toNat]
  | .por d _ _ => [.writeP d.toNat]
  | .pxor d _ _ => [.writeP d.toNat]
  | .pandn d _ _ => [.writeP d.toNat]
  | .pnot d _ => [.writeP d.toNat]
  | .pmov d _ => [.writeP d.toNat]
  | .pset d _ => [.writeP d.toNat]
  | .pcnt d _ => [.writeS d]
  | .pfirst d _ => [.writeS d]
  | .ppack d _ => [.writeV 0 d]
  | .punpk d a => [.readV 1 a] ++ (List.range 8).map fun j => .writeP (8 * bnat d + j)
  | .ptest d _ _ => [.writeK d]
  | .pmask d _ => [.writeP d.toNat]
  | .mcall _ => []
  | .mtsh _ _ => []
  | .mfsh d _ => [.writeS d]
  | .mpar _ _ => []
  | .mfpar d _ => [.writeS d]
  | .mldv _ _ a _ => [.readV 1 a]
  | .mstv _ d _ _ => [.writeV 0 d]
  | .mzero _ => []
  | .mstat d _ => [.writeS d]
  | .mresume => []
  | .mnop _ => []
  | .mmac _ _ _ _ _ _ => []
  | .mmacs _ _ _ _ _ _ => []
  | .mmacq _ _ _ _ _ _ => []
  | .microMzero _ => []
  | .microMldv _ _ _ _ => []
  | .microMstv _ _ _ _ => []
  | .mtrn _ _ => []
  | .maddt _ _ _ => []
  | .mloop _ _ => []
  | .mbr _ _ _ => []
  | .mpset _ _ _ => []
  | .mstep => []
  | .mend => []
  | .cpy _ => []
  | .cpyset _ _ => []
  | .cpyd _ _ _ => []
  | .gath _ _ _ => []
  | .scat _ _ _ => []
  | .drain _ => []
  | .ckarm _ _ => []
  | .stage _ _ _ => []
  | .bmchk _ k _ => [.writeK k]
  | .bmset _ => []
  | .send _ a _ => [.readV 1 a]
  | .recv d _ => [.writeV 0 d]
  | .fsend _ _ => []
  | .expect _ _ => []
  | .frecv d _ _ => [.writeS d]
  | .gbind _ _ => []
  | .gfree _ => []
  | .red _ d a b => [.readV 1 a, .readComp 1 a, .readV 2 b, .writeV 0 d, .writeComp 0 d]
  | .mcast _ _ => []
  | .digest d _ _ => [.writeS d]
  | .nstat d _ => [.writeS d]
  | .mfc d _ => [.writeS d]
  | .mtc _ _ => []
  | .rfe => []
  | .thaw _ => []
  | .rewind _ => []
  | .swap _ _ => []
  | .taskpost k _ => [.writeK k]
  | .taskdone _ => []
  | .twin _ _ => []
  | .bank _ _ => []
  | .halt => []
  | .spillv d _ _ => [.readV 0 d]
  | .fillv d _ _ => [.writeV 0 d]
  | .spills _ _ _ => []
  | .fills d _ _ => [.writeS d]
  | .spillp _ _ _ => []
  | .fillp d _ _ => [.writeP d.toNat]
  | .tokchk _ k _ => [.writeK k]
  | .salloc d _ => [.writeS d]
  | .sfree d _ => [.writeS d]
  | .freezeRecordsComplete _ => []
  | .eventTake _ => []
  | .freezeActionEffect _ _ _ => []
  | .slipDebtSkip _ => []
  | .runBudgetExpiry _ _ => []
  | .sourceTick _ _ _ => []
  | .samplePayloadArrival _ _ _ _ => []
  | .mediaPduIngress _ _ _ _ _ _ _ => []
  | .hostRecordTick _ _ => []
  | .ptmRequest => []
  | .ptmTimeout _ => []
  | .regionTick _ => []
  | .acquireComplete _ => []
  | .tickLoss _ => []
  | .holdtExpiry _ => []
  | .relock _ => []
  | .hem _ => []
  | .patternRestart _ _ => []
  | .admission _ => []
  | .preloadComplete _ _ => []
  | .taskAging _ => []
  | .completionBitTest _ _ => []
  | .ringReturn _ => []
  | .dupCompare _ _ => []
  | .twinCompare _ _ => []
  | .copyComplete _ _ => []
  | .stageComplete _ => []
  | .bmsetBitSet _ _ => []
  | .sendArrival _ _ _ _ => []
  | .bankWakeComplete _ _ => []
  | .fragmentArrival _ _ => []
  | .messageClose _ => []
  | .groupDrainEnd _ _ => []
  | .fragmentExpiry _ => []
  | .pathDown _ => []
  | .laneRetrainComplete _ => []
  | .doorbell _ => []
  | .submit _ _ _ _ _ _ _ _ => []
  | .cards _ _ _ => []
  | .ttypes _ _ _ => []
  | .region _ _ _ _ _ _ => []
  | .regionStart _ => []
  | .regionStop _ => []
  | .wheel _ _ => []
  | .range _ _ _ => []
  | .crate _ _ => []
  | .preempt _ => []
  | .resume _ => []
  | .kill _ => []
  | .sanitise => []
  | .sanitiseComplete => []
  | .jobEnd _ => []
  | .killWrite _ _ => []
  | .dhold _ _ => []
  | .dholdKill _ _ => []
  | .dholdKillJob _ _ => []
  | .dretry _ => []
  | .dringConfigWrite _ _ _ => []
  | .savebWrite _ _ => []
  | .gcfgWrite _ _ => []
  | .gstepWrite _ _ => []
  | .crcfgWrite _ _ => []
  | .holdtWrite _ _ => []
  | .rsync _ => []
  | .tagTableClear _ => []
  | .clrpend _ _ => []
  | .clrlate _ => []
  | .clrloss _ => []
  | .clrdig _ => []
  | .clrnov _ => []
  | .clrcrc _ => []
  | .counterClear _ _ => []
  | .spare _ _ => []
  | .lgrt _ => []
  | .ppr _ => []
  | .pprCopyComplete _ => []
  | .ldgo => []
  | .loadListComplete => []
  | .cringConfigWrite _ _ => []
  | .bar2winWrite _ => []
  | .hstailWrite _ _ => []
  | .registerWrite _ _ _ => []
  | .bar2Read _ _ => []
  | .bar2Write _ _ _ => []
  | .flr => []
  | .coldPowerUp _ => []
  | .surpriseLinkLoss => []
  | .telemetry => []
  | .freezeDump _ => []
  | .warmReset => []
  | .coldReset => []
  | .counterAdvance _ _ _ _ => []
  | .getMeasurements _ => []
  | .thermalWarning => []
  | .thermalTrip => []
  | .powerTrip => []
  | .hbmScrub _ _ _ => []
  | .controlTwinMismatch _ => []
  | .ptmResponse _ => []
  | .pldmFirmwareUpdate _ _ => []
  | .segmentExpansionComplete _ _ => []
  | .hbmRefresh _ => []
  | .phyRecalibration _ => []

/-- The destination a field names, as a number distinct for distinct registers, flags and predicates; none for s0, k0 and p0,
which no write conflicts on (R71), and for bobbins. -/
def Opnd.dest (o : Opnd) : Option Nat :=
  match o with
  | .readV _ _ | .readComp _ _ | .bob _ => none
  | .writeV _ c => if c.toNat < 120 then some c.toNat else none
  | .writeComp _ c => some (c.toNat + 1)
  | .writeS n => if n = 0 then none else some (1000 + n.toNat)
  | .writeK n => if n = 0 then none else some (2000 + n.toNat)
  | .writeP n => if n = 0 then none else some (3000 + n)

/-- The bobbin a field names. -/
def Opnd.bobbin (o : Opnd) : Option Nat :=
  match o with
  | .readV _ c | .writeV _ c => if 120 ≤ c.toNat then some (c.toNat - 120) else none
  | .bob n => some n.toNat
  | .readComp _ _ | .writeComp _ _ | .writeS _ | .writeK _ | .writeP _ => none

/-- The field names a window register at or beyond VWS: its position (R72, R177, R178). -/
def Opnd.beyond (vws : Nat) (o : Opnd) : Option Nat :=
  match o with
  | .readV p c | .writeV p c => if c.toNat < 120 ∧ vws ≤ c.toNat then some p else none
  | .readComp p c | .writeComp p c => if vws ≤ c.toNat + 1 then some p else none
  | .bob _ | .writeS _ | .writeK _ | .writeP _ => none

/-- Positions of a slot whose fields lie beyond the window, the least first (log 25). -/
def windowFault (vws : Nat) (i : Instr) : Option Nat :=
  let ps := (opnds i).filterMap (Opnd.beyond vws)
  ps.foldl (fun acc p => some (match acc with | none => p | some q => min p q)) none

/-- ILLENC 4 or 5 of a slot against the slots before it (R87). -/
def conflict (before : List Instr) (i : Instr) : Option Nat :=
  let mine := opnds i
  let others := before.flatMap opnds
  let dests := others.filterMap Opnd.dest
  let bobs := others.filterMap Opnd.bobbin
  if (mine.filterMap Opnd.dest).any dests.contains then some 4
  else if (mine.filterMap Opnd.bobbin).any bobs.contains then some 5
  else none

/-- The scratchpad bytes end here (R31). -/
def spadEnd : Nat := 0x300000

/-- The effective address of an M-format slot without post-increment (R84, R130). -/
def effAddr (base : Word) (off : BitVec 7) (size : Nat) : Word := base + off.signExtend 64 * BitVec.ofNat 64 size

/-- The address an M-format slot accesses: the base itself under post-increment (R130). -/
def memAddr (x : Bool) (base : Word) (off : BitVec 7) (size : Nat) : Word := if x then base else effAddr base off size

/-- BOUNDS, then ALIGN, of a scalar access (R130). -/
def chkAddr (ea : Word) (size : Nat) : Except Exc Unit := do
  when (decide (spadEnd ≤ ea.toNat)) (exc cBOUNDS ea)
  when (decide (ea.toNat % size ≠ 0)) (exc cALIGN ea)

/-- A byte of the access lies in an armed range of the context whose copy is not complete in the cycle given (R257). -/
def State.inArmed (s : State) (a n atAge : Nat) : Bool :=
  s.me.armed.any fun r => decide (a < r.base + r.len ∧ r.base < a + n) &&
    s.myCore.copies.any fun c => r.copies.contains c.serial && decide (atAge < c.eta)


end Sys2Proof.Machine
end

