-- ==== Sys2Proof/Machine/Scalar.lean ====
section
/-! DEFINITION. Classes 0, 1 and 13: integer arithmetic, flag compares, immediates and the EXT prefix (R123 to R129, R85). -/

namespace Sys2Proof.Machine

/-! ### the functions of R124, at width 64 or 32 (R123) -/

/-- A binary function at width 64, or at width 32 on the low halves with the result sign-extended (R123). -/
def alu2 (x : Bool) (f : (w : Nat) → BitVec w → BitVec w → BitVec w) (a b : Word) : Word :=
  if x then (f 32 (a.setWidth 32) (b.setWidth 32)).signExtend 64 else f 64 a b

/-- A unary function in the same way. -/
def alu1 (x : Bool) (f : (w : Nat) → BitVec w → BitVec w) (a : Word) : Word :=
  if x then (f 32 (a.setWidth 32)).signExtend 64 else f 64 a

def fAdd (w : Nat) (a b : BitVec w) : BitVec w := a + b
def fSub (w : Nat) (a b : BitVec w) : BitVec w := a - b
def fAnd (w : Nat) (a b : BitVec w) : BitVec w := a &&& b
def fOr (w : Nat) (a b : BitVec w) : BitVec w := a ||| b
def fXor (w : Nat) (a b : BitVec w) : BitVec w := a ^^^ b
def fAndn (w : Nat) (a b : BitVec w) : BitVec w := a &&& ~~~ b
def fShl (w : Nat) (a b : BitVec w) : BitVec w := a <<< (b.toNat % w)
def fShr (w : Nat) (a b : BitVec w) : BitVec w := a >>> (b.toNat % w)
def fSar (w : Nat) (a b : BitVec w) : BitVec w := a.sshiftRight (b.toNat % w)
def fRotl (w : Nat) (a b : BitVec w) : BitVec w := a.rotateLeft (b.toNat % w)
def fMin (w : Nat) (a b : BitVec w) : BitVec w := if b.slt a then b else a
def fMax (w : Nat) (a b : BitVec w) : BitVec w := if a.slt b then b else a
def fMinn (w : Nat) (a b : BitVec w) : BitVec w := if b.ult a then b else a
def fMaxn (w : Nat) (a b : BitVec w) : BitVec w := if a.ult b then b else a
def fMul (w : Nat) (a b : BitVec w) : BitVec w := a * b
/-- The high half of the signed product. -/
def fMulh (w : Nat) (a b : BitVec w) : BitVec w := BitVec.ofInt w (a.toInt * b.toInt / (2 ^ w : Int))
/-- The high half of the unsigned product. -/
def fMulhn (w : Nat) (a b : BitVec w) : BitVec w := BitVec.ofNat w (a.toNat * b.toNat / 2 ^ w)
/-- R125: a divisor of zero gives all ones and the dividend; the most negative value by -1 gives the dividend and 0. -/
def fDiv (w : Nat) (a b : BitVec w) : BitVec w := if b = 0 then BitVec.allOnes w else a.sdiv b
def fDivn (w : Nat) (a b : BitVec w) : BitVec w := if b = 0 then BitVec.allOnes w else a / b
def fRem (w : Nat) (a b : BitVec w) : BitVec w := if b = 0 then a else a.srem b
def fRemn (w : Nat) (a b : BitVec w) : BitVec w := if b = 0 then a else a % b
def fClz (w : Nat) (a : BitVec w) : BitVec w := BitVec.ofNat w (if a = 0 then w else w - 1 - a.toNat.log2)
def fCtz (w : Nat) (a : BitVec w) : BitVec w := BitVec.ofNat w (lowestBit w a.toNat)
def fPopc (w : Nat) (a : BitVec w) : BitVec w := BitVec.ofNat w (popCount w a.toNat)
/-- sx(a[n:0], n) with n = b[5:0] (R124). -/
def fSext (w : Nat) (a b : BitVec w) : BitVec w := (a.setWidth (b.toNat % 64 + 1)).signExtend w
/-- zx(a[n:0], n) with n = b[5:0] (R124). -/
def fZext (w : Nat) (a b : BitVec w) : BitVec w := (a.setWidth (b.toNat % 64 + 1)).setWidth w
def fMov (w : Nat) (a : BitVec w) : BitVec w := a

/-- A class 0 slot of two operands: R119's checks, then d after the latency. -/
def rrr (s : State) (f : (w : Nat) → BitVec w → BitVec w → BitVec w) (lat : Nat) (x : Bool) (d a b : SReg) : Out :=
  issue s do
    s.chkS [a, b]
    pure (s.putS d (alu2 x f (s.rs a) (s.rs b)) lat)

/-- A class 0 slot of one operand. -/
def rr (s : State) (f : (w : Nat) → BitVec w → BitVec w) (lat : Nat) (x : Bool) (d a : SReg) : Out :=
  issue s do
    s.chkS [a]
    pure (s.putS d (alu1 x f (s.rs a)) lat)

/-- A class 1 slot that reads d: the immediate is the second operand (R128). -/
def ri (s : State) (f : (w : Nat) → BitVec w → BitVec w → BitVec w) (lat : Nat) (x : Bool) (d : SReg) (i : BitVec 14) : Out :=
  issue s do
    s.chkS [d]
    pure (s.putS d (alu2 x f (s.rs d) (s.imm i)) lat)

/-! ### class 0 -/

/-- R124: d := a + b. -/
def execAdd (x : Bool) (d a b : SReg) (s : State) : Out := rrr s fAdd 2 x d a b

/-- R124: d := a - b. -/
def execSub (x : Bool) (d a b : SReg) (s : State) : Out := rrr s fSub 2 x d a b

/-- R124: d := a AND b. -/
def execAnd (x : Bool) (d a b : SReg) (s : State) : Out := rrr s fAnd 2 x d a b

/-- R124: d := a OR b. -/
def execOr (x : Bool) (d a b : SReg) (s : State) : Out := rrr s fOr 2 x d a b

/-- R124: d := a XOR b. -/
def execXor (x : Bool) (d a b : SReg) (s : State) : Out := rrr s fXor 2 x d a b

/-- R124: d := a AND NOT b. -/
def execAndn (x : Bool) (d a b : SReg) (s : State) : Out := rrr s fAndn 2 x d a b

/-- R124: d := a shifted left by b mod 64. -/
def execShl (x : Bool) (d a b : SReg) (s : State) : Out := rrr s fShl 2 x d a b

/-- R124: d := a shifted right, logical, by b mod 64. -/
def execShr (x : Bool) (d a b : SReg) (s : State) : Out := rrr s fShr 2 x d a b

/-- R124: d := a shifted right, arithmetic, by b mod 64. -/
def execSar (x : Bool) (d a b : SReg) (s : State) : Out := rrr s fSar 2 x d a b

/-- R124: d := a rotated left by b mod 64. -/
def execRotl (x : Bool) (d a b : SReg) (s : State) : Out := rrr s fRotl 2 x d a b

/-- R124: the signed smaller. -/
def execMin (x : Bool) (d a b : SReg) (s : State) : Out := rrr s fMin 2 x d a b

/-- R124: the signed larger. -/
def execMax (x : Bool) (d a b : SReg) (s : State) : Out := rrr s fMax 2 x d a b

/-- R124: the unsigned smaller. -/
def execMinn (x : Bool) (d a b : SReg) (s : State) : Out := rrr s fMinn 2 x d a b

/-- R124: the unsigned larger. -/
def execMaxn (x : Bool) (d a b : SReg) (s : State) : Out := rrr s fMaxn 2 x d a b

/-- R124: the low 64 bits of a × b. -/
def execMul (x : Bool) (d a b : SReg) (s : State) : Out := rrr s fMul 3 x d a b

/-- R124: the high half of the signed product. -/
def execMulh (x : Bool) (d a b : SReg) (s : State) : Out := rrr s fMulh 3 x d a b

/-- R124: the high half of the unsigned product. -/
def execMulhn (x : Bool) (d a b : SReg) (s : State) : Out := rrr s fMulhn 3 x d a b

/-- R124, R125: the signed quotient. -/
def execDiv (x : Bool) (d a b : SReg) (s : State) : Out := rrr s fDiv 18 x d a b

/-- R124, R125: the unsigned quotient. -/
def execDivn (x : Bool) (d a b : SReg) (s : State) : Out := rrr s fDivn 18 x d a b

/-- R124, R125: the signed remainder. -/
def execRem (x : Bool) (d a b : SReg) (s : State) : Out := rrr s fRem 18 x d a b

/-- R124, R125: the unsigned remainder. -/
def execRemn (x : Bool) (d a b : SReg) (s : State) : Out := rrr s fRemn 18 x d a b

/-- R124: sx(a[n:0], n). -/
def execSext (x : Bool) (d a b : SReg) (s : State) : Out := rrr s fSext 2 x d a b

/-- R124: zx(a[n:0], n). -/
def execZext (x : Bool) (d a b : SReg) (s : State) : Out := rrr s fZext 2 x d a b

/-- R124: leading zero bits. -/
def execClz (x : Bool) (d a : SReg) (s : State) : Out := rr s fClz 2 x d a

/-- R124: trailing zero bits. -/
def execCtz (x : Bool) (d a : SReg) (s : State) : Out := rr s fCtz 2 x d a

/-- R124: one bits. -/
def execPopc (x : Bool) (d a : SReg) (s : State) : Out := rr s fPopc 2 x d a

/-- R124: d := a. -/
def execMov (x : Bool) (d a : SReg) (s : State) : Out := rr s fMov 2 x d a

/-- R124: a if the guard of MASKSEL holds at issue, else b; both count as read (log 26). -/
def execCsel (x : Bool) (d a b : SReg) (s : State) : Out :=
  issue s do
    s.chkS [a, b]
    pure (s.putS d (alu1 x fMov (if s.me.guard then s.rs a else s.rs b)) 2)

/-- R126: k := the condition on two registers. -/
def execKcmp (c k : BitVec 3) (a b : SReg) (s : State) : Out :=
  issue s do
    s.chkS [a, b]
    pure (s.putK k (rkHolds c (s.rs a) (s.rs b)) 2)

/-- R126: k := the condition on a register and the sign-extended imm7. -/
def execKcmpImm (c k : BitVec 3) (a : SReg) (i : BitVec 7) (s : State) : Out :=
  issue s do
    s.chkS [a]
    pure (s.putK k (rkHolds c (s.rs a) (i.signExtend 64)) 2)

/-- R127: k := op of two flags. -/
def execKlog (o k a b : BitVec 3) (s : State) : Out :=
  issue s (pure (s.putK k (klogOp o (s.rk a) (s.rk b)) 2))

/-! ### class 1 -/

/-- R128: d + imm. -/
def execAddi (x : Bool) (d : SReg) (i : BitVec 14) (s : State) : Out := ri s fAdd 2 x d i

/-- R128: d AND imm. -/
def execAndi (x : Bool) (d : SReg) (i : BitVec 14) (s : State) : Out := ri s fAnd 2 x d i

/-- R128: d OR imm. -/
def execOri (x : Bool) (d : SReg) (i : BitVec 14) (s : State) : Out := ri s fOr 2 x d i

/-- R128: d XOR imm. -/
def execXori (x : Bool) (d : SReg) (i : BitVec 14) (s : State) : Out := ri s fXor 2 x d i

/-- R128: d shifted left by imm. -/
def execShli (x : Bool) (d : SReg) (i : BitVec 14) (s : State) : Out := ri s fShl 2 x d i

/-- R128: d shifted right, logical, by imm. -/
def execShri (x : Bool) (d : SReg) (i : BitVec 14) (s : State) : Out := ri s fShr 2 x d i

/-- R128: d shifted right, arithmetic, by imm. -/
def execSari (x : Bool) (d : SReg) (i : BitVec 14) (s : State) : Out := ri s fSar 2 x d i

/-- R128: the low 64 bits of d × imm. -/
def execMuli (x : Bool) (d : SReg) (i : BitVec 14) (s : State) : Out := ri s fMul 3 x d i

/-- R128, R129: d := imm; d is not read. -/
def execMovi (x : Bool) (d : SReg) (i : BitVec 14) (s : State) : Out :=
  issue s (pure (s.putS d (alu1 x fMov (s.imm i)) 2))

/-- R128: the low half of imm above the low half of d. -/
def execMovhi (d : SReg) (i : BitVec 14) (s : State) : Out :=
  issue s do
    s.chkS [d]
    pure (s.putS d ((s.imm i).setWidth 32 ++ (s.rs d).setWidth 32) 2)

/-- R128, R129: the bundle's own address + imm; d is not read. -/
def execAddpc (d : SReg) (i : BitVec 14) (s : State) : Out :=
  issue s (pure (s.putS d (BitVec.ofNat 64 s.turn.addr + s.imm i) 2))

/-! ### class 13 -/

/-- R85: the payload waits for the RI slot that follows; nothing else. -/
def execExt (p : BitVec 27) (s : State) : Out :=
  issue s (pure (s.modTurn fun t => { t with ext := some p }))

end Sys2Proof.Machine
end

