-- ==== Sys2Proof/Machine/Control.lean ====
section
/-! DEFINITION. Class 2: branches, loops, pacing, hems, notches, runs, barriers, format, traps (R137 to R152). -/

namespace Sys2Proof.Machine

/-! ### branches (R137, R138) -/

/-- The end of what a branch may reach: the instruction plane, or the expanded segment (R137, R303). -/
def State.codeEnd (s : State) : Nat :=
  match s.me.segbuf with
  | none => 0x10000
  | some b => 4 * b.words.length

/-- BOUNDS of a taken target: outside 0x0 to 0xFFFC of the plane (R137), at or beyond 4 × ULEN of the segment (R303). -/
def State.chkTarget (s : State) (t : Word) : Except Exc Unit :=
  when (decide (if s.me.segbuf.isNone then 0xFFFC < t.toNat else s.codeEnd ≤ t.toNat)) (exc cBOUNDS t)

/-- The next bundle of the context issues at a target, `wait` cycles after this one. -/
def State.jump (s : State) (t : Word) (wait : Nat) : State :=
  s.modTurn fun u => { u with target := some t.toNat, next := some (.at (s.age + wait)) }

/-- The target of a J or JK offset: the bundle's own address plus four times it (R84). -/
def State.rel (s : State) (o : Word) : Word := BitVec.ofNat 64 s.turn.addr + o * 4

/-- A taken transfer to a target: BOUNDS, then ALIGN of a register target, then the target at c+3 (R137). -/
def State.take (s : State) (t : Word) (reg : Bool) : Except Exc State := do
  s.chkTarget t
  when (reg && decide (t.toNat % 4 ≠ 0)) (exc cALIGN t)
  pure (s.jump t 3)

/-- The return address in lr, with latency 2 (R137). -/
def State.link (s : State) : State := s.putS 31 (BitVec.ofNat 64 s.after) 2

/-- R138: always taken. -/
def execBr (o : BitVec 22) (s : State) : Out := issue s (s.take (s.rel (o.signExtend 64)) false)

/-- R138: taken when the flag equals the polarity bit. -/
def execBk (p : Bool) (k : BitVec 3) (o : BitVec 18) (s : State) : Out :=
  issue s (if s.rk k = p then s.take (s.rel (o.signExtend 64)) false else pure s)

/-- R138: always taken; writes lr. -/
def execCall (o : BitVec 22) (s : State) : Out :=
  issue s do
    let t ← s.take (s.rel (o.signExtend 64)) false
    pure t.link

/-- R138: to the address in a register. -/
def execJr (a : SReg) (s : State) : Out :=
  issue s do
    s.chkS [a]
    s.take (s.rs a) true

/-- R138: to the address in a register, read at issue; writes lr. -/
def execCallr (a : SReg) (s : State) : Out :=
  issue s do
    s.chkS [a]
    let t ← s.take (s.rs a) true
    pure t.link

/-- R138: to lr. -/
def execRet (s : State) : Out :=
  issue s do
    s.chkS [31]
    s.take (s.rs 31) true

/-! ### loops (R139 to R141) -/

/-- R139: LC from s(D), ROT from the immediate, RRB and PRB 0, in force from c+2. -/
def execLoopset (d : SReg) (i : BitVec 14) (s : State) : Out :=
  issue s do
    s.chkS [d]
    let imm := s.imm i
    when (decide (128 ≤ imm.toNat)) (s.oper 7)
    when (decide (s.me.vws < imm.toNat ∨ imm.toNat % 8 ≠ 0)) (s.oper 2)
    pure ((((s.putC 7 (s.rs d)).putC 4 imm).putC 5 0).putC 6 0)

/-- The counters after a loop-closing bundle that finds LC not 0 (R140). -/
def Ctx.turnLoop (c : Ctx) : Ctx :=
  { c with
    lc := c.lc - 1
    rrb := if c.rot = 0 then c.rrb else (c.rrb + c.rot - 1) % c.rot
    prb := (c.prb + 7) % 8 }

/-- The loop is taken: LC is neither 0 nor 1 (R140). -/
def Ctx.loops (c : Ctx) : Bool := c.lc != 0 && c.lc != 1

/-- The update of LC, RRB and PRB, in force for the next bundle (R74, R140), over an earlier result that takes force then (R89). -/
def State.closeLoop (s : State) : State :=
  if s.me.lc = 0 then s
  else s.modMe fun c => { c with
    lc := s.me.turnLoop.lc, rrb := s.me.turnLoop.rrb, prb := s.me.turnLoop.prb
    loop := some (s.me.turnLoop.lc, s.me.turnLoop.rrb, s.me.turnLoop.prb) }

/-- R140: counts LC down and turns the rotating names; a taken loopb issues its target at c+1. -/
def execLoopb (o : BitVec 22) (s : State) : Out :=
  issue s do
    let t := s.rel (o.signExtend 64)
    if s.me.loops then do
      s.chkTarget t
      pure (s.closeLoop.jump t 1)
    else pure s.closeLoop

/-- The cycle of sample n (R45). -/
def Region.tick (g : Region) (n : Nat) : Nat := n * g.cadl / g.cadd

/-- The least sample whose tick and PHASE lie after a cycle (R67). -/
def Region.nextTick (g : Region) (c : Nat) : Nat :=
  if c < g.phase then 0 else ((c - g.phase + 1) * g.cadd + g.cadl - 1) / g.cadl

/-- Pacing (R67): the sample of the pace point and the cycle T, or DEADLINE when T is not after c. -/
def State.pace (s : State) : Except Exc (Nat × Nat) := do
  let g := s.view.region s.myRegion
  let n := match s.me.pp with
    | none => g.nextTick s.cyc
    | some p => p + 1
  let t := g.tick n + g.phase
  when (decide (t ≤ s.cyc)) (exc cDEADLINE (BitVec.ofNat 64 (n % 2 ^ 32 * 2 ^ 32 + (s.cyc - t) % 2 ^ 32)))
  pure (n, t)

/-- The pace point taken, and the next bundle at T (R67). -/
def State.paced (s : State) (n t : Nat) : State :=
  (s.modMe fun c => { c with pp := some n }).modTurn fun u => { u with next := some (.cyc t) }

/-- R141: paces, then counts as loopb does; the next bundle issues at the pace cycle. -/
def execLoopc (o : BitVec 22) (s : State) : Out :=
  issue s do
    let (n, t) ← s.pace
    let tgt := s.rel (o.signExtend 64)
    if s.me.loops then do
      s.chkTarget tgt
      pure ((s.closeLoop.jump tgt 1).paced n t)
    else pure (s.closeLoop.paced n t)

/-- R142: paces the context. -/
def execSmpl (s : State) : Out :=
  issue s do
    let (n, t) ← s.pace
    pure (s.paced n t)

/-! ### hems (R143, R144) -/

/-- The last cycle of period h (R144). -/
def Region.hemOf (g : Region) (h : Nat) : Nat := (h + 1) * g.cadl - 1

/-- R144: synchronises the context to a hem; late by more than SLACK raises SLIP. -/
def execHemsync (s : State) : Out :=
  issue s do
    let g := s.view.region s.myRegion
    let c := s.cyc
    let h := match s.me.hp with
      | none => c / g.cadl
      | some p => p + 1
    let H := g.hemOf h
    when (decide (H + g.slack < c)) (exc cSLIP (BitVec.ofNat 64 (c - H)))
    let t := s.modMe fun k => { k with hp := some h }
    pure (t.modTurn fun u => { u with next := some (.cyc (if c ≤ H then H + 1 else c + 1)) })

/-! ### notches, runs and barriers (R145 to R149) -/

/-- Work of the context on the copy engines, bmchk and bmset included (R249). -/
def State.copying (s : State) : Bool := s.myCore.copies.any fun c => c.ctx == s.x

/-- A spill transfer not yet performed. -/
def Access.isSpill (a : Access) : Bool :=
  match a with
  | .store _ _ _ _ spill | .vstore _ _ _ _ spill => spill
  | .spillP _ _ => true
  | .load _ _ _ _ _ | .amo _ _ _ _ _ _ | .amoTold _ _ _ _ _ _ _ | .vload _ _ _ | .pop _ _ _ _ _ | .gather _ _ _ _ _ | .scatter _ _ _ _ _
  | .scatterAdd _ _ _ _ _ _ | .fillS _ _ _ _ | .fillV _ _ _ _ | .fillP _ _ _ _ | .lookup _ _ _ | .tagset _ _ | .tagclr _
  | .tagwipe | .bank _ _ | .bytes _ _ _ | .payload _ _ _ | .members _ _ _ _ _ | .post _ _ _ => false

/-- The context's accesses that are not yet performed. -/
def State.mine (s : State) : List Pending := s.myCl.pend.filter fun p => p.core == s.n && p.ctx == s.x

/-- A spill or fill of the context has not completed (R145, R147). -/
def State.spilling (s : State) : Bool := !s.me.toks.isEmpty || s.mine.any fun p => p.acc.isSpill

/-- A register result of the context is in flight. -/
def State.inFlight (s : State) : Bool := !s.me.inflight.isEmpty || !(s.view.coming s.n s.x).isEmpty

/-- The bundle holds nothing but the issuing slot. -/
def State.alone (s : State) : Bool := s.turn.pos == 0 && s.turn.word.getLsbD 31

/-- A byte address at which a context goes on stands past the end of its segment, which has a successor (R303). -/
def SegBuf.passed (b : SegBuf) (pc : Nat) : Bool := b.cur.isSome && decide (4 * b.words.length ≤ pc) && b.ptr != 0xFFFF

/-- The address and segment header of a seam-entry record (R146, R303): past the end of a segment they are those of offset 0 of the
next. -/
def Ctx.seamPc (c : Ctx) (pc : Nat) : Nat × Nat :=
  match c.segbuf with
  | none => (pc, 0)
  | some b => if b.passed pc then (0, b.ptr) else (pc, (b.cur.map Segment.hdr).getD b.ptr)

/-- The seeks in force for a bundle issued at age a + 1 (R197). -/
def Bobbin.sought (k : Bobbin) (a : Nat) : Bobbin :=
  (k.seeks.filter fun q => decide (q.1 ≤ a + 1)).foldl (fun k q => { k with pos := q.2.1, eos := q.2.2 })
    { k with seeks := k.seeks.filter fun q => decide (a + 1 < q.1) }

/-- The scratchpad bindings of a core as they stand at the end of its cycle of age a, seeks in force from the next included (R146). -/
def Core.seamBobs (c : Core) (a : Nat) : List (Nat × Bobbin) :=
  (c.bob.filter fun b => match b.2.bound with
    | some g => g.kind == 1 || g.kind == 2
    | none => false).map fun (b, k) => (b, k.sought a)

/-- The seam-entry record at a notch whose next bundle is at `pc` and whose cycle is `e` (R146). -/
def Mach.seamAt (m : Mach) (n x pc : Nat) (e : Int) : Seam :=
  let c := m.ctx n x
  { pc := (c.seamPc pc).1, e := e, lc := c.lc, rot := c.rot, rrb := c.rrb, prb := c.prb, pp := c.pp, hp := c.hp, fmt := c.fmt,
    masksel := c.masksel
    bobs := (m.core n).seamBobs ((m.now n : Int) - ((m.cyc n : Int) - e)).toNat
    seg := (c.seamPc pc).2
    posts := []
    seqs := (m.cl (clusOf n)).groups.map fun g => (g.id.toNat, ((g.seqs.find? fun q => q.1 == n).map Prod.snd).getD 0)
    dseqs := (m.cl (clusOf n)).groups.map fun g => (g.id.toNat, ((g.dseqs.find? fun q => q.1 == n).map Prod.snd).getD 0) }

/-- R145, R146, R217: a quiescent bundle; it writes the seam-entry record, clears RWF, discards a held routine, and is where
plane flips, pre-emption, rendezvous waits, lost messages and admission take effect (at the bundle's close). -/
def execNotch (s : State) : Out :=
  issue s do
    when (!s.alone || s.inFlight || s.copying || s.spilling || s.myCore.mx.state == 1) (s.oper 4)
    match s.myCore.losses with
    | w :: _ => .error (exc cLOSS w)
    | [] => do
      let rec_ := s.view.seamAt s.n s.x s.after s.cyc
      let t := s.modMe fun c => { c with seam := some rec_, rwf := false, sent := [] }
      let t := t.modMyCore fun c => if c.mx.state = 2 then { c with mx := { c.mx with state := 0 } } else c
      let t := t.modMyCl fun c => { c with notched := true }
      pure (t.modTurn fun u => { u with ends := 3 })

/-- R147: the run ends and the context keeps its task. -/
def execYield (s : State) : Out := issue s (pure (s.modTurn fun u => { u with ends := 1 }))

/-- R147: the task ends; OPER 5 while a copy, spill or fill of the context is outstanding. -/
def execRetire (s : State) : Out :=
  issue s do
    when (s.copying || s.spilling) (s.oper 5)
    pure (s.modTurn fun u => { u with ends := 2 })

/-- R148: the context idles until every participant has arrived. -/
def execSstep (s : State) : Out :=
  issue s (pure (s.modTurn fun u => { u with next := some (.sstep s.age) }))

/-- R149: the next bundle waits for the selected kinds of the context's work. -/
def execFence (i : BitVec 14) (s : State) : Out :=
  issue s do
    when (decide (64 ≤ (s.imm i).toNat)) (s.oper 7)
    pure (s.modTurn fun u => { u with next := some (.fence (s.imm i).toNat s.age) })

/-! ### format, traps and no-ops (R150 to R152) -/

/-- R79, R150: FMT := s(a)[21:0] for bundles from c+4; a code above 9 raises OPER 1. -/
def execSetfmt (a : SReg) (s : State) : Out :=
  issue s do
    s.chkS [a]
    let f := (s.rs a).setWidth 22
    when (decide (9 < fmtV f ∨ 9 < fmtW f ∨ 9 < fmtA f ∨ 9 < fmtB f)) (s.oper 1)
    pure (s.land 4 (.fmt f) false)

/-- R152: nothing. -/
def execNop (s : State) : Out := issue s (pure s)

/-- R151: raises SWTRAP with the immediate. -/
def execTrapi (i : BitVec 14) (s : State) : Out := issue s (.error (exc cSWTRAP (s.imm i)))

/-- R151: raises BREAK. -/
def execBrkpt (s : State) : Out := issue s (.error (exc cBREAK 0))

end Sys2Proof.Machine
end

