-- ==== Sys2Proof/Machine/Memory.lean ====
section
/-! DEFINITION. Class 3: scalar loads and stores, AMOs, the tag table, lea (R130 to R136). -/

namespace Sys2Proof.Machine

/-- The base register after a post-increment (R130), with latency 2. -/
def State.bump (s : State) (x : Bool) (b : SReg) (o : BitVec 7) (size : Nat) : State :=
  if x then s.putS b (effAddr (s.rs b) o size) 2 else s

/-- EARLY of an access that performs `wait` cycles after issue (R131, R257). -/
def State.chkArmed (s : State) (ea : Word) (size wait : Nat) : Except Exc Unit :=
  when (s.inArmed ea.toNat size (s.age + wait)) (exc cEARLY ea)

/-- A scalar load (R131): performs at c+2, readable from c+6; a load to s0 performs and discards. -/
def load (s : State) (size : Nat) (signed x : Bool) (d b : SReg) (o : BitVec 7) : Out :=
  issue s do
    s.chkS [b]
    let ea := memAddr x (s.rs b) o size
    chkAddr ea size
    s.chkArmed ea size 2
    pure ((s.access 2 (.load ea.toNat size signed d.toNat 4)).bump x b o size)

/-- A scalar store (R131): writes the low bytes of s(data) at c+2. -/
def store (s : State) (size : Nat) (x : Bool) (d b : SReg) (o : BitVec 7) : Out :=
  issue s do
    s.chkS [b, d]
    let ea := memAddr x (s.rs b) o size
    chkAddr ea size
    pure ((s.access 2 (.store ea.toNat size (s.rs d) false false)).bump x b o size)

/-- An AMO (R134): reads and writes at c+2, the old value readable from c+8. -/
def amo (s : State) (fn : Nat) (d b : SReg) (o : BitVec 7) : Out :=
  issue s do
    s.chkS [b, d]
    let ea := effAddr (s.rs b) o 8
    chkAddr ea 8
    s.chkArmed ea 8 2
    pure (s.access 2 (.amo fn ea.toNat (s.rs d) 0 d.toNat 6))

/-- The new value of an AMO (R134), by its function number. -/
def amoNew (fn : Nat) (old v swap : Word) : Word :=
  match fn with
  | 11 => old + v
  | 12 => v
  | 13 => if old = v then swap else old
  | 14 => fMin 64 old v
  | 15 => fMax 64 old v
  | 16 => fMinn 64 old v
  | 17 => fMaxn 64 old v
  | 18 => old &&& v
  | 19 => old ||| v
  | _ => old ^^^ v

/-- R131: d := the byte, sign-extended. -/
def execLdb (x : Bool) (d b : SReg) (o : BitVec 7) (s : State) : Out := load s 1 true x d b o

/-- R131: d := the byte, zero-extended. -/
def execLdbn (x : Bool) (d b : SReg) (o : BitVec 7) (s : State) : Out := load s 1 false x d b o

/-- R131: d := the halfword, sign-extended. -/
def execLdh (x : Bool) (d b : SReg) (o : BitVec 7) (s : State) : Out := load s 2 true x d b o

/-- R131: d := the halfword, zero-extended. -/
def execLdhn (x : Bool) (d b : SReg) (o : BitVec 7) (s : State) : Out := load s 2 false x d b o

/-- R131: d := the word, sign-extended. -/
def execLdw (x : Bool) (d b : SReg) (o : BitVec 7) (s : State) : Out := load s 4 true x d b o

/-- R131: d := the word, zero-extended. -/
def execLdwn (x : Bool) (d b : SReg) (o : BitVec 7) (s : State) : Out := load s 4 false x d b o

/-- R131: d := the doubleword. -/
def execLdd (x : Bool) (d b : SReg) (o : BitVec 7) (s : State) : Out := load s 8 false x d b o

/-- R131: memory := the low 1 byte of s(data). -/
def execStb (x : Bool) (d b : SReg) (o : BitVec 7) (s : State) : Out := store s 1 x d b o

/-- R131: memory := the low 2 bytes of s(data). -/
def execSth (x : Bool) (d b : SReg) (o : BitVec 7) (s : State) : Out := store s 2 x d b o

/-- R131: memory := the low 4 bytes of s(data). -/
def execStw (x : Bool) (d b : SReg) (o : BitVec 7) (s : State) : Out := store s 4 x d b o

/-- R131: memory := the low 8 bytes of s(data). -/
def execStd (x : Bool) (d b : SReg) (o : BitVec 7) (s : State) : Out := store s 8 x d b o

/-- R134: old + v. -/
def execAmoadd (d b : SReg) (o : BitVec 7) (s : State) : Out := amo s 11 d b o

/-- R134: v. -/
def execAmoswap (d b : SReg) (o : BitVec 7) (s : State) : Out := amo s 12 d b o

/-- R134: the signed smaller. -/
def execAmomin (d b : SReg) (o : BitVec 7) (s : State) : Out := amo s 14 d b o

/-- R134: the signed larger. -/
def execAmomax (d b : SReg) (o : BitVec 7) (s : State) : Out := amo s 15 d b o

/-- R134: the unsigned smaller. -/
def execAmominn (d b : SReg) (o : BitVec 7) (s : State) : Out := amo s 16 d b o

/-- R134: the unsigned larger. -/
def execAmomaxn (d b : SReg) (o : BitVec 7) (s : State) : Out := amo s 17 d b o

/-- R134: old AND v. -/
def execAmoand (d b : SReg) (o : BitVec 7) (s : State) : Out := amo s 18 d b o

/-- R134: old OR v. -/
def execAmoor (d b : SReg) (o : BitVec 7) (s : State) : Out := amo s 19 d b o

/-- R134: old XOR v. -/
def execAmoxor (d b : SReg) (o : BitVec 7) (s : State) : Out := amo s 20 d b o

/-- R134: s(data+1) if old = v, else old; data is even. -/
def execAmocas (d : BitVec 4) (b : SReg) (o : BitVec 7) (s : State) : Out :=
  issue s do
    let d0 : SReg := d ++ 0#1
    let d1 : SReg := d ++ 1#1
    s.chkS [b, d0, d1]
    let ea := effAddr (s.rs b) o 8
    chkAddr ea 8
    s.chkArmed ea 8 2
    pure (s.access 2 (.amo 13 ea.toNat (s.rs d0) (s.rs d1) d0.toNat 6))

/-- R136: performs at c+2, d readable from c+6. -/
def execLookup (d b : SReg) (o : BitVec 7) (s : State) : Out :=
  issue s do
    s.chkS [b]
    pure (s.access 2 (.lookup (effAddr (s.rs b) o 1) d.toNat 4))

/-- R136: the way s(d)[2:0] takes the tag at c+2; no register is written. -/
def execTagset (d b : SReg) (o : BitVec 7) (s : State) : Out :=
  issue s do
    s.chkS [b, d]
    pure (s.access 2 (.tagset (effAddr (s.rs b) o 1) ((s.rs d).toNat % 8)))

/-- R136: every way of the set that holds the tag is invalidated at c+2. -/
def execTagclr (b : SReg) (o : BitVec 7) (s : State) : Out :=
  issue s do
    s.chkS [b]
    pure (s.access 2 (.tagclr (effAddr (s.rs b) o 1)))

/-- R131: d := s(base) + off7, with no access. -/
def execLea (d b : SReg) (o : BitVec 7) (s : State) : Out :=
  issue s do
    s.chkS [b]
    pure (s.putS d (effAddr (s.rs b) o 1) 2)

end Sys2Proof.Machine
end

