-- ==== Sys2Proof/Machine/Number.lean ====
section
/-! DEFINITION. The number formats and exact arithmetic of R96 to R118: a floating value is a NaN, an infinity, or a sign, a
natural number and a power of two; every result is formed exactly and rounded once. -/

namespace Sys2Proof.Machine

/-! ### formats (R79, R97, R100) -/

/-- The width in bytes of a format code (R79, R207); 0 for INT4Q and the codes above it. -/
def fmtWidth (c : Nat) : Nat :=
  match c with
  | 0 | 7 => 4
  | 1 | 2 | 6 => 2
  | 3 | 4 | 5 | 8 => 1
  | _ => 0

/-- FP32, BF16, FP16: the set fl of R164. -/
def isFl (c : Nat) : Bool := decide (c ≤ 2)
/-- Any floating format. -/
def isFloat (c : Nat) : Bool := decide (c ≤ 4)
/-- INT8, INT16, INT32, N8: the set in of R164. -/
def isIn (c : Nat) : Bool := decide (5 ≤ c ∧ c ≤ 8)

/-- A floating format (R97): bits, fraction bits, bias, the code of its largest finite value, whether it has infinities, and
its canonical NaN. -/
structure FFmt where
  bits : Nat
  mant : Nat
  bias : Nat
  top  : Nat
  inf  : Bool
  nan  : Nat

def fp32 : FFmt := { bits := 32, mant := 23, bias := 127, top := 0x7F7FFFFF, inf := true, nan := 0x7FC00000 }
def bf16 : FFmt := { bits := 16, mant := 7, bias := 127, top := 0x7F7F, inf := true, nan := 0x7FC0 }
def fp16 : FFmt := { bits := 16, mant := 10, bias := 15, top := 0x7BFF, inf := true, nan := 0x7E00 }
def e4m3 : FFmt := { bits := 8, mant := 3, bias := 7, top := 0x7E, inf := false, nan := 0x7F }
def e5m2 : FFmt := { bits := 8, mant := 2, bias := 15, top := 0x7B, inf := true, nan := 0x7E }

/-- The floating format of a code (R79). -/
def ffmt (c : Nat) : FFmt :=
  match c with
  | 0 => fp32
  | 1 => bf16
  | 2 => fp16
  | 3 => e4m3
  | _ => e5m2

/-- A floating value: `fin neg m e` is (-1)^neg · m · 2^e, a zero of its sign when m = 0. -/
inductive FVal where
  | nan
  | inf (neg : Bool)
  | fin (neg : Bool) (m : Nat) (e : Int)
deriving DecidableEq, Repr

/-- The exponent of the unit of a format's subnormals. -/
def FFmt.emin (f : FFmt) : Int := 1 - f.bias - f.mant

/-- The value of a code (R97). -/
def decF (f : FFmt) (code : Nat) : FVal :=
  let neg := code / 2 ^ (f.bits - 1) % 2 == 1
  let mag := code % 2 ^ (f.bits - 1)
  if f.top < mag then (if f.inf && mag == f.top + 1 then .inf neg else .nan)
  else
    let E := mag / 2 ^ f.mant
    let M := mag % 2 ^ f.mant
    if E = 0 then .fin neg M f.emin else .fin neg (2 ^ f.mant + M) (E - f.bias - f.mant)

/-! ### rounding (R103, R104) -/

/-- m · 2^e as an integer above 2^lo, for e at least lo. -/
def scaleTo (m : Nat) (e lo : Int) : Nat := m * 2 ^ (e - lo).toNat

/-- m · 2^e ≤ n · 2^d. -/
def leDy (m : Nat) (e : Int) (n : Nat) (d : Int) : Bool :=
  let lo := min e d
  decide (scaleTo m e lo ≤ scaleTo n d lo)

/-- Whether truncation of a value is followed by a step away from zero: by the mode (0 RNE, 1 RTZ, 2 RDN, 3 RUP), the sign, the
truncated significand's oddness, and the remainder over the unit. -/
def stepUp (rm : Nat) (neg odd : Bool) (rem unit : Nat) : Bool :=
  match rm with
  | 0 => decide (unit < 2 * rem) || (2 * rem == unit && odd)
  | 1 => false
  | 2 => neg && rem != 0
  | _ => !neg && rem != 0

/-- The magnitude code of m · 2^e (m > 0) rounded with an unbounded exponent range above (R103, R115). -/
def rawCode (f : FFmt) (rm : Nat) (neg : Bool) (m : Nat) (e : Int) : Nat :=
  let len : Int := m.log2 + 1
  let q := max (e + len - (f.mant + 1)) f.emin
  let base := (q - f.emin).toNat * 2 ^ f.mant
  if q ≤ e then base + m * 2 ^ (e - q).toNat
  else
    let unit := 2 ^ (q - e).toNat
    let M := m / unit
    base + M + bnat (stepUp rm neg (M % 2 == 1) (m % unit) unit)

/-- The significand and exponent of the largest finite value. -/
def FFmt.topM (f : FFmt) : Nat := 2 ^ f.mant + f.top % 2 ^ f.mant
def FFmt.topE (f : FFmt) : Int := f.top / 2 ^ f.mant - f.bias - f.mant

/-- The magnitude code of m · 2^e (m > 0) rounded to a format, none for infinity (R103). -/
def rndMag (f : FFmt) (rm : Nat) (neg : Bool) (m : Nat) (e : Int) : Option Nat :=
  if leDy m e f.topM f.topE then some (rawCode f rm neg m e)
  else
    match rm with
    | 0 => if leDy (2 * f.topM + 1) (f.topE - 1) m e then none else some f.top
    | 1 => some f.top
    | 2 => if neg then none else some f.top
    | _ => if neg then some f.top else none

/-- A code with its sign. -/
def withSign (f : FFmt) (neg : Bool) (mag : Nat) : Nat := bnat neg * 2 ^ (f.bits - 1) + mag

/-- RND of an arithmetic result to a format that has infinities (R99, R103). -/
def encF (f : FFmt) (rm : Nat) (v : FVal) : Nat :=
  match v with
  | .nan => f.nan
  | .inf neg => withSign f neg (f.top + 1)
  | .fin neg 0 _ => withSign f neg 0
  | .fin neg m e => withSign f neg ((rndMag f rm neg m e).getD (f.top + 1))

/-- A value rounded to FP32 and read back. -/
def rndFP32 (rm : Nat) (v : FVal) : FVal := decF fp32 (encF fp32 rm v)

/-! ### exact operations (R99, R104, R167) -/

def FVal.neg (v : FVal) : FVal :=
  match v with
  | .nan => .nan
  | .inf s => .inf (!s)
  | .fin s m e => .fin (!s) m e

def FVal.abs (v : FVal) : FVal :=
  match v with
  | .nan => .nan
  | .inf _ => .inf false
  | .fin _ m e => .fin false m e

def FVal.isNan (v : FVal) : Bool := v == .nan
def FVal.isInf (v : FVal) : Bool := match v with
  | .inf _ => true
  | _ => false
def FVal.isZero (v : FVal) : Bool := match v with
  | .fin _ 0 _ => true
  | _ => false
def FVal.sign (v : FVal) : Bool := match v with
  | .nan => false
  | .inf s => s
  | .fin s _ _ => s

/-- The exact product (R104, R167). -/
def FVal.mul (a b : FVal) : FVal :=
  match a, b with
  | .nan, _ | _, .nan => .nan
  | .inf s, .inf t => .inf (s != t)
  | .inf s, .fin t m _ | .fin t m _, .inf s => if m = 0 then .nan else .inf (s != t)
  | .fin s m e, .fin t n d => .fin (s != t) (m * n) (e + d)

/-- The signed integer of a finite value above 2^lo. -/
def FVal.int (v : FVal) (lo : Int) : Int :=
  match v with
  | .fin s m e => if s then -(scaleTo m e lo : Int) else scaleTo m e lo
  | _ => 0

def FVal.exp (v : FVal) : Int := match v with
  | .fin _ _ e => e
  | _ => 0

/-- The exact sum of a list of terms (R104, R167, R180): a zero keeps the sign that all terms share, else it is +0, or -0
under RDN. -/
def sumF (rm : Nat) (ts : List FVal) : FVal :=
  if ts.any FVal.isNan then .nan
  else
    let infs := ts.filter FVal.isInf
    match infs with
    | i :: _ => if infs.any (fun j => j.sign != i.sign) then .nan else i
    | [] =>
      let lo := ts.foldl (fun l t => min l t.exp) (ts.headD (.fin false 0 0)).exp
      let S := ts.foldl (fun (a : Int) t => a + t.int lo) 0
      if S = 0 then
        let s0 := (ts.headD (.fin false 0 0)).sign
        if ts.all (fun t => t.isZero && t.sign == s0) then .fin s0 0 0 else .fin (rm == 2) 0 0
      else .fin (decide (S < 0)) S.natAbs lo

/-- a ≤ b in the order of the reals with -0 below +0; neither a NaN (R167). -/
def leTot (a b : FVal) : Bool :=
  match a, b with
  | .inf true, _ => true
  | _, .inf false => true
  | .inf false, _ => false
  | _, .inf true => false
  | .fin s m e, .fin t n d =>
    if m = 0 ∧ n = 0 then s || !t
    else
      let lo := min e d
      decide ((FVal.fin s m e).int lo ≤ (FVal.fin t n d).int lo)
  | _, _ => false

/-- a < b and a = b as reals: -0 equals +0 (R171). -/
def ltF (a b : FVal) : Bool :=
  match a, b with
  | .nan, _ | _, .nan => false
  | .inf s, .inf t => s && !t
  | .inf s, .fin _ _ _ => s
  | .fin _ _ _, .inf t => !t
  | .fin s m e, .fin t n d =>
    let lo := min e d
    decide ((FVal.fin s m e).int lo < (FVal.fin t n d).int lo)
def eqF (a b : FVal) : Bool :=
  match a, b with
  | .inf s, .inf t => s == t
  | .fin s m e, .fin t n d =>
    let lo := min e d
    decide ((FVal.fin s m e).int lo = (FVal.fin t n d).int lo)
  | _, _ => false

def minF (a b : FVal) : FVal := if a.isNan || b.isNan then .nan else if leTot a b then a else b
def maxF (a b : FVal) : FVal := if a.isNan || b.isNan then .nan else if leTot a b then b else a

/-- The integer that rounding a finite value gives (R105), in a mode. -/
def intRnd (rm : Nat) (neg : Bool) (m : Nat) (e : Int) : Int :=
  let M : Nat :=
    if 0 ≤ e then m * 2 ^ e.toNat
    else
      let unit := 2 ^ (-e).toNat
      m / unit + bnat (stepUp rm neg (m / unit % 2 == 1) (m % unit) unit)
  if neg then -(M : Int) else M

/-- A value rounded to an integral value, keeping the sign of a zero result (R167: vround). -/
def roundF (rm : Nat) (v : FVal) : FVal :=
  match v with
  | .fin neg m e => if 0 ≤ e then v else .fin neg (intRnd rm neg m e).natAbs 0
  | v => v

/-! ### reciprocals, roots, powers and logarithms (R170) -/

/-- The integer square root of n below 2^(2k), by its binary digits. -/
def isqrt (k n r : Nat) : Nat :=
  match k with
  | 0 => r
  | k + 1 => isqrt k n (if (r + 2 ^ k) * (r + 2 ^ k) ≤ n then r + 2 ^ k else r)

/-- m / n · 2^e exactly as far as rounding can see: 80 quotient bits and a sticky bit. -/
def quot (neg : Bool) (m n : Nat) (e : Int) : FVal :=
  let k := 80 + n.log2
  let q := m * 2 ^ k / n
  .fin neg (2 * q + bnat (m * 2 ^ k % n != 0)) (e - k - 1)

def recipF (v : FVal) : FVal :=
  match v with
  | .nan => .nan
  | .inf s => .fin s 0 0
  | .fin s m e => if m = 0 then .inf s else quot s 1 m (-e)

def rsqrtF (v : FVal) : FVal :=
  match v with
  | .nan => .nan
  | .inf s => if s then .nan else .fin false 0 0
  | .fin s m e =>
    if m = 0 then .inf s else if s then .nan
    else
      let m := if e % 2 = 0 then m else 2 * m
      let e := if e % 2 = 0 then e else e - 1
      -- 1 / √(m·2^e) = √(2^200 / m) · 2^(-100 - e/2)
      let n := 2 ^ 200 / m
      let r := isqrt 101 n 0
      .fin false (2 * r + bnat (r * r * m != 2 ^ 200)) (-100 - e / 2 - 1)

/-- ln 2 in units of 2^-p, below the true value by less than n + 1 units: Σ 1 / (k 2^k). -/
def ln2Series (p n k : Nat) : Nat :=
  match n with
  | 0 => 0
  | n + 1 => 2 ^ p / (k * 2 ^ k) + ln2Series p n (k + 1)

/-- Σ y^k / k! in units of 2^-p, each term truncated. -/
def expSeries (p y n k term : Nat) : Nat :=
  match n with
  | 0 => 0
  | n + 1 => term + expSeries p y n (k + 1) (term * y / 2 ^ p / (k + 1))

/-- Σ z^(2k+1) / (2k+1) in units of 2^-p, each term truncated. -/
def atanhSeries (p z2 n k pow : Nat) : Nat :=
  match n with
  | 0 => 0
  | n + 1 => pow / (2 * k + 1) + atanhSeries p z2 n (k + 1) (pow * z2 / 2 ^ p)

/-- A value known to lie strictly between lo · 2^e and hi · 2^e rounds to the one code both ends give; the widest precision
tried stands where they differ (log 27). -/
def between (f : FFmt) (rm : Nat) (neg : Bool) (tries : List (Nat × Nat × Int)) : Option (Nat × Nat × Int) :=
  match tries with
  | [] => none
  | [t] => some t
  | (lo, hi, e) :: rest =>
    if rndMag f rm neg (2 * lo + 1) (e - 1) = rndMag f rm neg (2 * hi + 1) (e - 1) then some (lo, hi, e)
    else between f rm neg rest

/-- Bounds of 2^(F / 2^n) for 0 < F < 2^n, in units of 2^-p. -/
def exp2Bounds (p F n : Nat) : Nat × Nat × Int :=
  let l := ln2Series (p + 16) (p + 16) 1
  let y := F * l / 2 ^ n / 2 ^ 16
  let v := expSeries p y 120 0 (2 ^ p)
  (v - 1, v + 512, -(p : Int))

/-- Bounds of the distance of log2 (m / 2^len) from 0, for 2^len < m < 2^(len+1), in units of 2^-p. -/
def log2Bounds (p m len : Nat) : Nat × Nat :=
  let q := p + 16
  let z := (m - 2 ^ len) * 2 ^ q / (m + 2 ^ len)
  let a := 2 * atanhSeries q (z * z / 2 ^ q) (q / 3 + 4) 0 z
  let l := ln2Series q q 1
  let v := a * 2 ^ p / l
  (v - 1, v + 1)

/-- 2^a (R170), as a value that rounds as the exact one does. -/
def exp2F (f : FFmt) (rm : Nat) (v : FVal) : FVal :=
  match v with
  | .nan => .nan
  | .inf s => if s then .fin false 0 0 else .inf false
  | .fin s m e =>
    if m = 0 then .fin false 1 0
    else if leDy 512 0 m e then (if s then .fin false 1 (-1000) else .fin false 1 1000)
    else
      -- a = floor + F / 2^n
      let n := (-e).toNat
      let a : Int := if s then -(m : Int) else m
      if 0 ≤ e then .fin false 1 (a * 2 ^ e.toNat)
      else
        let fl := a / (2 ^ n : Int)
        let F := (a % (2 ^ n : Int)).toNat
        if F = 0 then .fin false 1 fl
        else
          match between f rm false ([100, 400].map fun p => exp2Bounds p F n) with
          | some (lo, _, e) => .fin false (2 * lo + 1) (e - 1 + fl)
          | none => .nan

/-- log2 a (R170), as a value that rounds as the exact one does. -/
def log2F (f : FFmt) (rm : Nat) (v : FVal) : FVal :=
  match v with
  | .nan => .nan
  | .inf s => if s then .nan else .inf false
  | .fin s m e =>
    if m = 0 then .inf true else if s then .nan
    else
      let len := m.log2
      let E : Int := e + len
      if m = 2 ^ len then .fin (decide (E < 0)) E.natAbs 0
      else
        let tries := [100, 400].map fun (p : Nat) =>
          let (lo, hi) := log2Bounds p m len
          let u : Int := 2 ^ p
          if 0 ≤ E then ((E * u + lo).toNat, (E * u + hi).toNat, -(p : Int))
          else ((-(E * u) - hi).toNat, (-(E * u) - lo).toNat, -(p : Int))
        match between f rm (decide (E < 0)) tries with
        | some (lo, _, e) => .fin (decide (E < 0)) (2 * lo + 1) (e - 1)
        | none => .nan

/-! ### integers (R100, R168) -/

/-- The value of an integer element: signed, or unsigned for N8. -/
def intVal (c : Nat) (bits : Nat) : Int :=
  let w := 8 * fmtWidth c
  if c = 8 then bits else if bits < 2 ^ (w - 1) then bits else (bits : Int) - 2 ^ w

/-- The bits of an integer modulo 2^(8w). -/
def intBits (c : Nat) (v : Int) : Nat := (v % (2 ^ (8 * fmtWidth c) : Int)).toNat

def intMin (c : Nat) : Int := if c = 8 then 0 else -(2 ^ (8 * fmtWidth c - 1))
def intMax (c : Nat) : Int := if c = 8 then 255 else 2 ^ (8 * fmtWidth c - 1) - 1
def clampI (lo hi v : Int) : Int := max lo (min hi v)
/-- The nearest limit of the format (R105, R168). -/
def satInt (c : Nat) (v : Int) : Nat := intBits c (clampI (intMin c) (intMax c) v)

/-- SAT_INT32 (R114, R180). -/
def satI32 (v : Int) : Int := clampI (-(2 ^ 31)) (2 ^ 31 - 1) v

/-! ### conversions (R105) -/

/-- The target holds every value of the source, infinities included. -/
def holds (src dst : Nat) : Bool :=
  src == dst || dst == 0 || (src == 3 || src == 4) && (dst == 1 || dst == 2)

/-- A float converted to a floating target (R105). -/
def cvtFF (src dst rm : Nat) (sat : Bool) (v : FVal) : Nat :=
  let f := ffmt dst
  match v with
  | .nan => f.nan
  | .inf neg =>
    if holds src dst then withSign f neg (f.top + 1)
    else if sat then withSign f neg f.top
    else if f.inf then withSign f neg (f.top + 1) else f.nan
  | .fin neg 0 _ => withSign f neg 0
  | .fin neg m e =>
    match rndMag f rm neg m e with
    | some mag =>
      -- SAT = 1 gives the largest finite for every value beyond it, which is what R103 gives short of infinity
      withSign f neg mag
    | none => if sat then withSign f neg f.top else if f.inf then withSign f neg (f.top + 1) else f.nan

/-- One element converted from format src to format dst (R105). -/
def cvtElt (src dst rm : Nat) (sat : Bool) (bits : Nat) : Nat :=
  if isFloat src then
    let v := decF (ffmt src) bits
    if isFloat dst then cvtFF src dst rm sat v
    else
      match v with
      | .nan => 0
      | .inf neg => intBits dst (if neg then intMin dst else intMax dst)
      | .fin neg m e => satInt dst (intRnd rm neg m e)
  else
    let v := intVal src bits
    if isFloat dst then cvtFF src dst rm sat (.fin (decide (v < 0)) v.natAbs 0)
    else if sat then satInt dst v else intBits dst v

/-! ### INT4Q (R101, R102) -/

/-- Weight i of the 16-byte group held in a number, as BF16: rounded by R103, so that a product beyond the largest value by less than half an ulp
takes the largest, although R102 speaks of an infinity (log 194). -/
def int4q (group i : Nat) : Nat :=
  let q : Nat := group / 2 ^ (4 * i) % 16
  let sc := group / 2 ^ 96 % 2 ^ 16
  let z : Nat := group / 2 ^ 112 % 16
  let d : Int := (q : Int) - (z : Int)
  encF bf16 0 ((decF bf16 sc).mul (.fin (decide (d < 0)) d.natAbs 0))

/-! ### scales and block quantisation (R106, R115, R116) -/

/-- The value of a UE5M3 code (R106). -/
def ue5m3 (c : Nat) : FVal :=
  let fe := c / 8 % 32
  let fm := c % 8
  if fe = 31 then .nan else if fe = 0 then .fin false fm (-17) else .fin false (8 + fm) ((fe : Int) - 18)

/-- amax ≤ qmax · value(c), exactly. -/
def scaleFits (top : FFmt) (m : Nat) (e : Int) (c : Nat) : Bool :=
  match ue5m3 c with
  | .fin _ n d => leDy m e (n * top.topM) (d + top.topE)
  | _ => false

/-- The least scale code from c on that fits, among n, else 0xF7 (R115). -/
def leastScale (top : FFmt) (m : Nat) (e : Int) (n c : Nat) : Nat :=
  match n with
  | 0 => 0xF7
  | n + 1 => if scaleFits top m e c then c else leastScale top m e n (c + 1)

/-- The greatest magnitude among the finite values of a list, +0 if none (R115, R184). -/
def amaxF (xs : List FVal) : FVal :=
  xs.foldl (fun a x => if x.isNan || x.isInf then a else maxF a x.abs) (.fin false 0 0)

/-- One element of QUANT8 (R115). -/
def quantElt (f : FFmt) (sat : Bool) (scode : Nat) (x : FVal) : Nat :=
  match x with
  | .nan => f.nan
  | .inf neg => if sat then withSign f neg f.top else f.nan
  | .fin neg m e =>
    if scode = 0 ∨ m = 0 then withSign f neg 0
    else
      match ue5m3 scode with
      | .fin _ n d =>
        match quot neg m n (e - d) with
        | .fin _ qm qe =>
          let c := rawCode f 0 neg qm qe
          if f.top < c then (if sat then withSign f neg f.top else f.nan) else withSign f neg c
        | _ => f.nan
      | _ => f.nan

/-- QUANT8 (R115): the codes of a block of FP32 values and its scale code. -/
def quant8 (f : FFmt) (sat : Bool) (xs : List FVal) : List Nat × Nat :=
  let scode := match amaxF xs with
    | .fin _ m e => if m = 0 then 0 else leastScale f m e 247 1
    | _ => 0
  (xs.map (quantElt f sat scode), scode)

/-- Dequantisation (R116): element times scale, exact in FP32. -/
def dequant (x : FVal) (scode : Nat) : FVal := x.mul (ue5m3 scode)

/-! ### the block-scaled sum (R110) -/

/-- The exponent of the leading bit of a nonzero finite value. -/
def FVal.lead (v : FVal) : Int := match v with
  | .fin _ m e => e + m.log2
  | _ => 0

/-- BLOCKSUM of R110, as an FP32 value rounded in the mode given. -/
def blockSum (rm : Nat) (as bs : List FVal) (fa fb : FVal) : FVal :=
  if as.any FVal.isNan || bs.any FVal.isNan || fa.isNan || fb.isNan then .nan
  else
    let ps := as.zipWith FVal.mul bs
    if ps.any FVal.isNan then .nan
    else
      let infs := ps.filter FVal.isInf
      match infs with
      | i :: _ => if infs.any (fun j => j.sign != i.sign) || fa.isZero || fb.isZero then .nan else i
      | [] =>
        let nz := ps.filter fun p => !p.isZero
        let emax := nz.foldl (fun a p => max a p.lead) (nz.headD (.fin false 1 0)).lead
        let u := emax - 46
        let S := nz.foldl (fun (a : Int) p => match p with
          | .fin s m e =>
            let t : Nat := if u ≤ e then m * 2 ^ (e - u).toNat else m / 2 ^ (u - e).toNat
            if s then a - t else a + t
          | _ => a) 0
        if S = 0 then .fin (ps.all fun p => p.isZero && p.sign) 0 0
        else if fa.isZero || fb.isZero then .fin (decide (S < 0)) 0 0
        else rndFP32 rm ((FVal.fin (decide (S < 0)) S.natAbs u).mul (fa.mul fb))

/-! ### the random generator and check sums (R117, R248, R276) -/

/-- HASH (R117). -/
def hash32 (x lo hi layer : BitVec 32) : BitVec 32 :=
  let h := (x ^^^ lo) * 0x9E3779B1#32
  let h := (h ^^^ (h >>> 15)) ^^^ hi ^^^ layer
  let h := h * 0x85EBCA77#32
  h ^^^ (h >>> 13)

/-- One bit of a reflected CRC. -/
def crcBits32 (n : Nat) (c : BitVec 32) : BitVec 32 :=
  match n with
  | 0 => c
  | n + 1 => crcBits32 n (if c.getLsbD 0 then (c >>> 1) ^^^ 0x82F63B78#32 else c >>> 1)

/-- CRC-32C (R248): polynomial 0x1EDC6F41, reflected, initial value and final XOR all ones. -/
def crc32c (bs : List Byte) : BitVec 32 :=
  ~~~ (bs.foldl (fun c b => crcBits32 8 (c ^^^ b.setWidth 32)) (BitVec.allOnes 32))

/-- One bit of a forward CRC. -/
def crcBits64 (n : Nat) (c : BitVec 64) : BitVec 64 :=
  match n with
  | 0 => c
  | n + 1 => crcBits64 n (if c.getLsbD 63 then (c <<< 1) ^^^ 0x42F0E1EBA9EA3693#64 else c <<< 1)

/-- CRC-64 (R276): initial value 0, no reflection, no final XOR. -/
def crc64 (init : BitVec 64) (bs : List Byte) : BitVec 64 :=
  bs.foldl (fun c b => crcBits64 8 (c ^^^ ((b.setWidth 64 : BitVec 64) <<< 56))) init

end Sys2Proof.Machine
end

