-- ==== Sys2Proof/Machine/Lanes.lean ====
section
/-! DEFINITION. What the lane and cross-lane instructions of classes 4 and 5 compute from the operand values they read, whenever
those values arrive: values, formats accepted, and latencies (R164 to R184). -/

namespace Sys2Proof.Machine

/-! ### element-wise forms -/

/-- One element through a unary function of values, rounded once (R167). -/
def fl1 (c rm : Nat) (f : FVal → FVal) (x : Nat) : Nat := encF (ffmt c) rm (f (decF (ffmt c) x))
/-- The same for two operands. -/
def fl2 (c rm : Nat) (f : FVal → FVal → FVal) (x y : Nat) : Nat :=
  encF (ffmt c) rm (f (decF (ffmt c) x) (decF (ffmt c) y))

/-- One element through an integer function, modulo its width (R168). -/
def in1 (c : Nat) (f : Int → Int) (x : Nat) : Nat := intBits c (f (intVal c x))
def in2 (c : Nat) (f : Int → Int → Int) (x y : Nat) : Nat := intBits c (f (intVal c x) (intVal c y))

/-- Every element of a vector from the elements of the same index of its operands (R164). -/
def map1 (w : Nat) (f : Nat → Nat) (a : VWord) : VWord := vecOf w (eltCount w) fun e => f (elt w a e)
def map2 (w : Nat) (f : Nat → Nat → Nat) (a b : VWord) : VWord := vecOf w (eltCount w) fun e => f (elt w a e) (elt w b e)
def map3 (w : Nat) (f : Nat → Nat → Nat → Nat) (d a b : VWord) : VWord :=
  vecOf w (eltCount w) fun e => f (elt w d e) (elt w a e) (elt w b e)

/-- A two-operand instruction over fl and in. -/
def arith2 (c rm : Nat) (ff : FVal → FVal → FVal) (fi : Int → Int → Int) (a b : VWord) : VWord :=
  map2 (fmtWidth c) (if isFl c then fl2 c rm ff else in2 c fi) a b
def arith1 (c rm : Nat) (ff : FVal → FVal) (fi : Int → Int) (a : VWord) : VWord :=
  map1 (fmtWidth c) (if isFl c then fl1 c rm ff else in1 c fi) a

/-- d ± a × b, fused (R166, R167). -/
def fusedMac (c rm : Nat) (minus : Bool) (d a b : VWord) : VWord :=
  map3 (fmtWidth c) (fun d a b =>
    if isFl c then
      let p := (decF (ffmt c) a).mul (decF (ffmt c) b)
      encF (ffmt c) rm (sumF rm [decF (ffmt c) d, if minus then p.neg else p])
    else
      let p := intVal c a * intVal c b
      intBits c (if minus then intVal c d - p else intVal c d + p)) d a b

/-- A shift by b[e] mod 8w (R166, R168): 0 left, 1 right logical, 2 right arithmetic. -/
def shiftElt (w kind a b : Nat) : Nat :=
  let n := b % (8 * w)
  match kind with
  | 0 => a * 2 ^ n % 2 ^ (8 * w)
  | 1 => a / 2 ^ n
  | _ => a / 2 ^ n + (if a / 2 ^ (8 * w - 1) = 1 then 2 ^ (8 * w) - 2 ^ (8 * w - n) else 0)

/-- The immediate of vaddi and vmuli in every element: exact in a float format, modulo 2^(8w) in an integer one (R169). -/
def immElt (c : Nat) (i : Int) : Nat :=
  if isFl c then encF (ffmt c) 0 (.fin (decide (i < 0)) i.natAbs 0) else intBits c i

/-- The condition of vcmp on one element (R171). -/
def vcCond (c cond a b : Nat) : Bool :=
  if isFl c then
    let x := decF (ffmt c) a
    let y := decF (ffmt c) b
    let un := x.isNan || y.isNan
    match cond with
    | 0 => eqF x y
    | 1 => un || !eqF x y
    | 2 => ltF x y
    | 3 => ltF y x || eqF x y
    | 4 => ltF x y || eqF x y
    | 5 => ltF y x
    | _ => un
  else
    let x := intVal c a
    let y := intVal c b
    match cond with
    | 0 => x == y
    | 1 => x != y
    | 2 => decide (x < y)
    | 3 => decide (y ≤ x)
    | 4 => decide (x ≤ y)
    | 5 => decide (y < x)
    | _ => false

/-- vcmp (R171): a lane's bit is 1 where the condition holds for every element of the lane. -/
def cmpLanes (c cond : Nat) (a b : VWord) : Pred :=
  let w := fmtWidth c
  let per := 4 / w
  predOf fun i => (List.range per).all fun j => vcCond c cond (elt w a (per * i + j)) (elt w b (per * i + j))

/-- The pairs of R172. -/
def widens (v w : Nat) : Bool :=
  (v == 5 && w == 6) || (v == 8 && w == 6) || (v == 6 && w == 7) || (v == 1 && w == 0) || (v == 2 && w == 0)

/-- vaddw and vmacw (R172): t0 + t1 · u1 + t2 · u2 with exact sums, element e of the wide format. -/
def widenSum (v w rm : Nat) (base : Nat) (ts : List (Nat × Option Nat)) : Nat :=
  if isFl v then
    encF (ffmt w) rm (sumF rm (decF (ffmt w) base :: ts.map fun t => match t.2 with
      | none => decF (ffmt v) t.1
      | some y => (decF (ffmt v) t.1).mul (decF (ffmt v) y)))
  else
    intBits w (ts.foldl (fun acc t => acc + (match t.2 with
      | none => intVal v t.1
      | some y => intVal v t.1 * intVal v y)) (intVal w base))

/-! ### cross-lane forms (R174 to R184) -/

/-- The narrowing of vcvt: how many V elements make the width of one W element, 1 when it does not narrow (R174). -/
def narrows (v w : Nat) : Nat := if fmtWidth w < fmtWidth v then fmtWidth v / fmtWidth w else 1

/-- vcvt (R174), with the other elements of d kept when it narrows. -/
def vcvtVal (v w rm : Nat) (sat : Bool) (part : Nat) (d a : VWord) : VWord :=
  let wv := fmtWidth v
  let ww := fmtWidth w
  if wv ≤ ww then vecOf ww (eltCount ww) fun e => cvtElt v w rm sat (elt wv a (part * eltCount ww + e))
  else
    vecOf ww (eltCount ww) fun e =>
      if part * eltCount wv ≤ e ∧ e < (part + 1) * eltCount wv then cvtElt v w rm sat (elt wv a (e - part * eltCount wv))
      else elt ww d e

/-- QUANT8 of the eight blocks of 24 lanes (R177, R275): block q's codes, then its scale. -/
def quantLanes (w : Nat) (sat : Bool) (x : Nat → FVal) : List (List Nat × Nat) :=
  (List.range 8).map fun q => quant8 (ffmt w) sat ((List.range 24).map fun i => x (24 * q + i))

/-- The codes of quantised blocks at bytes from lo, the rest from d. -/
def placeCodes (lo : Nat) (bs : List (List Nat × Nat)) (d : VWord) : VWord :=
  let codes := bs.flatMap Prod.fst
  vecOf 1 768 fun j => if lo ≤ j ∧ j < lo + 192 then codes.getD (j - lo) 0 else elt 1 d j

/-- Their scale codes at bytes from lo of the companion, the rest from c. -/
def placeScales (lo : Nat) (bs : List (List Nat × Nat)) (c : VWord) : VWord :=
  vecOf 1 768 fun j => if lo ≤ j ∧ j < lo + 8 then (bs.map Prod.snd).getD (j - lo) 0 else elt 1 c j

/-- The elements of a vector as values, or as integers. -/
def floats (c : Nat) (a : VWord) : List FVal :=
  (List.range (eltCount (fmtWidth c))).map fun e => decF (ffmt c) (elt (fmtWidth c) a e)
def ints (c : Nat) (a : VWord) : List Int :=
  (List.range (eltCount (fmtWidth c))).map fun e => intVal c (elt (fmtWidth c) a e)

/-- vredsum, vredmax, vredmin (R180): kind 0 sum, 1 max, 2 min. -/
def reduceVal (c rm kind : Nat) (a b : VWord) : VWord :=
  if isFl c then
    let ts := decF (ffmt c) (elt (fmtWidth c) b 0) :: floats c a
    let v := match kind with
      | 0 => sumF rm ts
      | 1 => ts.tail.foldl maxF (ts.headD .nan)
      | _ => ts.tail.foldl minF (ts.headD .nan)
    BitVec.ofNat 6144 (encF (ffmt c) rm v)
  else
    let b0 := intVal 7 (lane b 0)
    let v := match kind with
      | 0 => (ints c a).foldl (· + ·) b0
      | 1 => (ints c a).foldl max b0
      | _ => (ints c a).foldl min b0
    BitVec.ofNat 6144 (intBits 7 (satI32 v))

/-- The prefixes of a list, shortest first, each with the head b. -/
def prefixes {α : Type} (acc : List α) (xs : List α) : List (List α) :=
  match xs with
  | [] => []
  | x :: rest => (acc ++ [x]) :: prefixes (acc ++ [x]) rest

/-- vscan (R181). -/
def scanVal (c rm : Nat) (a b : VWord) : VWord :=
  let w := fmtWidth c
  if isFl c then
    let out := (prefixes [decF (ffmt c) (elt w b 0)] (floats c a)).map fun ts => encF (ffmt c) rm (sumF rm ts)
    vecOf w (eltCount w) fun e => out.getD e 0
  else
    let out := (prefixes [] (ints c a)).map fun ts => intBits c (ts.foldl (· + ·) (intVal c (elt w b 0)))
    vecOf w (eltCount w) fun e => out.getD e 0

/-- vbsum and vbmax (R184): kind 0 sum, 1 largest magnitude. -/
def blockVal (c rm kind : Nat) (a : VWord) : VWord :=
  let n := eltCount (fmtWidth c) / 24
  vecOf 4 192 fun j =>
    if n ≤ j then 0
    else if isFloat c then
      let xs := (List.range 24).map fun i => decF (ffmt c) (elt (fmtWidth c) a (24 * j + i))
      encF fp32 rm (if kind = 0 then sumF rm xs else amaxF xs)
    else
      let xs := (List.range 24).map fun i => intVal c (elt (fmtWidth c) a (24 * j + i))
      intBits 7 (satI32 (if kind = 0 then xs.foldl (· + ·) 0 else xs.foldl (fun m x => max m x.natAbs) 0))

/-- red (R275): the FP32 sums of the dequantised A and B, quantised again into blocks. The scales of A come from a+1 whatever FMT.FSC holds, as
R275 writes them, although R107 has none read where FSC is 0 (log 188). -/
def redBlocks (fmt : BitVec 22) (a c b : VWord) : List (List Nat × Nat) :=
  let w := fmtW fmt
  quantLanes w (fmtSat fmt) fun i =>
    rndFP32 (fmtRM fmt) (sumF (fmtRM fmt)
      [dequant (decF (ffmt w) (elt 1 a i)) (elt 1 c (i / 24)), decF fp32 (lane b i)])

/-! ### the result of a vector slot -/

/-- What a vector slot produces: a vector, the bytes of it that are written, a companion and its bytes, predicates, or a scalar. -/
structure VOut where
  v     : VWord
  mask  : ByteMask
  comp  : VWord
  cmask : ByteMask
  preds : List Pred
  sc    : Word
deriving DecidableEq, Repr

def outV (v : VWord) : VOut := { v := v, mask := fullMask, comp := 0, cmask := 0, preds := [], sc := 0 }
def outP (ps : List Pred) : VOut := { v := 0, mask := fullMask, comp := 0, cmask := 0, preds := ps, sc := 0 }

/-- Predicate j of a packed vector (R204): bytes 24j to 24j + 23. -/
def unpackPred (a : VWord) (j : Nat) : Pred := a.extractLsb' (192 * j) 192

/-- The result of a vector slot from the operand values it read (R166 to R184, R204, R275). An instruction that is no vector
slot computes nothing. -/
def vecResult (i : Instr) (e : VEnv) : VOut :=
  let c := fmtV e.fmt
  let w := fmtW e.fmt
  let rm := fmtRM e.fmt
  let sat := fmtSat e.fmt
  match i with
  | .vadd _ _ _ _ => outV (arith2 c rm (fun x y => sumF rm [x, y]) (· + ·) e.a e.b)
  | .vsub _ _ _ _ => outV (arith2 c rm (fun x y => sumF rm [x, y.neg]) (· - ·) e.a e.b)
  | .vmul _ _ _ _ => outV (arith2 c rm FVal.mul (· * ·) e.a e.b)
  | .vfma _ _ _ _ => outV (fusedMac c rm false e.d e.a e.b)
  | .vfms _ _ _ _ => outV (fusedMac c rm true e.d e.a e.b)
  | .vmin _ _ _ _ => outV (arith2 c rm minF min e.a e.b)
  | .vmax _ _ _ _ => outV (arith2 c rm maxF max e.a e.b)
  | .vabs _ _ _ => outV (arith1 c rm FVal.abs (fun x => if x < 0 then -x else x) e.a)
  | .vneg _ _ _ => outV (arith1 c rm FVal.neg (fun x => -x) e.a)
  | .vand _ _ _ _ => outV (e.a &&& e.b)
  | .vor _ _ _ _ => outV (e.a ||| e.b)
  | .vxor _ _ _ _ => outV (e.a ^^^ e.b)
  | .vshl _ _ _ _ => outV (map2 (fmtWidth c) (shiftElt (fmtWidth c) 0) e.a e.b)
  | .vshr _ _ _ _ => outV (map2 (fmtWidth c) (shiftElt (fmtWidth c) 1) e.a e.b)
  | .vsar _ _ _ _ => outV (map2 (fmtWidth c) (shiftElt (fmtWidth c) 2) e.a e.b)
  | .vsel _ _ _ _ => outV (merge e.b e.a (laneMask e.sel))
  | .vmov _ _ _ => outV e.a
  | .vbc _ _ _ => outV (vecOf (fmtWidth c) (eltCount (fmtWidth c)) fun _ => e.sa.toNat)
  | .vaddi _ _ _ i =>
    outV (arith2 c rm (fun x y => sumF rm [x, y]) (· + ·) e.a
      (vecOf (fmtWidth c) (eltCount (fmtWidth c)) fun _ => immElt c i.toInt))
  | .vmuli _ _ _ i =>
    outV (arith2 c rm FVal.mul (· * ·) e.a (vecOf (fmtWidth c) (eltCount (fmtWidth c)) fun _ => immElt c i.toInt))
  | .vrecip _ _ _ => outV (map1 (fmtWidth c) (fl1 c rm recipF) e.a)
  | .vrsqrt _ _ _ => outV (map1 (fmtWidth c) (fl1 c rm rsqrtF) e.a)
  | .vexp2 _ _ _ => outV (map1 (fmtWidth c) (fl1 c rm (exp2F (ffmt c) rm)) e.a)
  | .vlog2 _ _ _ => outV (map1 (fmtWidth c) (fl1 c rm (log2F (ffmt c) rm)) e.a)
  | .vclamp _ _ _ _ => outV (arith2 c rm minF min (arith2 c rm maxF max e.d e.a) e.b)
  | .vround _ _ _ => outV (map1 (fmtWidth c) (fl1 c rm (roundF rm)) e.a)
  | .vcmp cond _ _ _ => outP [cmpLanes c cond.toNat e.a e.b]
  | .vmulh _ _ _ _ => outV (map2 (fmtWidth c) (in2 c fun x y => x * y / (2 ^ (8 * fmtWidth c) : Int)) e.a e.b)
  | .vsatadd _ _ _ _ => outV (map2 (fmtWidth c) (fun x y => satInt c (intVal c x + intVal c y)) e.a e.b)
  | .vsatsub _ _ _ _ => outV (map2 (fmtWidth c) (fun x y => satInt c (intVal c x - intVal c y)) e.a e.b)
  | .vaddw _ _ _ _ =>
    outV (vecOf (fmtWidth w) (eltCount (fmtWidth w)) fun n =>
      widenSum c w rm (elt (fmtWidth w) e.a n)
        [(elt (fmtWidth c) e.b (2 * n), none), (elt (fmtWidth c) e.b (2 * n + 1), none)])
  | .vmacw _ _ _ _ =>
    outV (vecOf (fmtWidth w) (eltCount (fmtWidth w)) fun n =>
      widenSum c w rm (elt (fmtWidth w) e.d n)
        [(elt (fmtWidth c) e.a (2 * n), some (elt (fmtWidth c) e.b (2 * n))),
         (elt (fmtWidth c) e.a (2 * n + 1), some (elt (fmtWidth c) e.b (2 * n + 1)))])
  | .vcvt _ _ _ p =>
    { outV (vcvtVal c w rm sat p.toNat e.d e.a) with
      mask := if narrows c w = 1 then fullMask
              else rangeMask (p.toNat * (768 / narrows c w)) (768 / narrows c w) }
  | .vq8 _ _ _ p =>
    let bs := quantLanes w sat fun i => decF fp32 (lane e.a i)
    { outV (placeCodes (192 * p.toNat) bs e.d) with
      mask := rangeMask (192 * p.toNat) 192
      comp := placeScales (8 * p.toNat) bs e.cd
      cmask := rangeMask (8 * p.toNat) 8 }
  | .vdq8 _ _ _ p =>
    outV (vecOf 4 192 fun l =>
      let x := decF (ffmt c) (elt 1 e.a (192 * p.toNat + l))
      encF fp32 0 (if fmtFsc e.fmt then dequant x (elt 1 e.c (8 * p.toNat + l / 24)) else x))
  | .vredsum _ _ _ _ => outV (reduceVal c rm 0 e.a e.b)
  | .vredmax _ _ _ _ => outV (reduceVal c rm 1 e.a e.b)
  | .vredmin _ _ _ _ => outV (reduceVal c rm 2 e.a e.b)
  | .vscan _ _ _ _ => outV (scanVal c rm e.a e.b)
  | .vperm _ _ _ _ => outV (vecOf 4 192 fun l => if lane e.b l < 192 then lane e.a (lane e.b l) else 0)
  | .vrot _ _ _ _ =>
    let n := eltCount (fmtWidth c)
    outV (vecOf (fmtWidth c) n fun k => elt (fmtWidth c) e.a ((k + n - e.sb.toNat % n) % n))
  | .vshuf _ _ _ _ =>
    outV (vecOf 1 768 fun j => if elt 1 e.b j < 96 then elt 1 e.a (96 * (j / 96) + elt 1 e.b j) else 0)
  | .vpackh _ _ _ _ =>
    let n := eltCount (fmtWidth c)
    outV (vecOf (fmtWidth w) (2 * n) fun k =>
      if k < n then cvtElt c w rm sat (elt (fmtWidth c) e.a k) else cvtElt c w rm sat (elt (fmtWidth c) e.b (k - n)))
  | .vunpk _ _ _ p =>
    outV (vecOf 2 384 fun k =>
      int4q (e.a.toNat / 2 ^ (128 * (16 * p.toNat + k / 24)) % 2 ^ 128) (k % 24))
  | .vrand _ _ _ _ =>
    outV (vecOf 4 192 fun l =>
      let h := hash32 (e.sa.setWidth 32 + BitVec.ofNat 32 l) (BitVec.ofNat 32 (lane e.b 0)) (BitVec.ofNat 32 (lane e.b 1))
        (BitVec.ofNat 32 (lane e.b 2))
      if e.sa.getLsbD 63 then (if e.sa.toNat / 2 ^ 32 % 2 ^ 24 ≤ h.toNat / 256 then 0xFFFFFFFF else 0) else h.toNat)
  | .vext _ _ _ _ =>
    let x := elt (fmtWidth c) e.a (e.sb.toNat % eltCount (fmtWidth c))
    { outV 0 with sc := if 5 ≤ c ∧ c ≤ 7 then BitVec.ofInt 64 (intVal c x) else BitVec.ofNat 64 x }
  | .vins _ _ _ _ =>
    let k := e.sb.toNat % eltCount (fmtWidth c)
    { outV (vecOf (fmtWidth c) (eltCount (fmtWidth c)) fun j => if j = k then e.sa.toNat else elt (fmtWidth c) e.d j) with
      mask := rangeMask (k * fmtWidth c) (fmtWidth c) }
  | .vbsum _ _ _ => outV (blockVal c rm 0 e.a)
  | .vbmax _ _ _ => outV (blockVal c rm 1 e.a)
  | .punpk _ _ => outP ((List.range 8).map (unpackPred e.a))
  | .red _ _ _ _ =>
    let bs := redBlocks e.fmt e.a e.c e.b
    { outV (placeCodes 0 bs e.d) with
      mask := rangeMask 0 192
      comp := placeScales 0 bs e.cd
      cmask := rangeMask 0 8 }
  | _ => outV e.a

end Sys2Proof.Machine
end

