-- ==== Sys2Proof/Machine/Bobbins.lean ====
section
/-! DEFINITION. Vector operands: pops and pushes of bobbins (R76, R194, R195), the reading of a slot's vector fields, and where
its result goes (R161, R164, R165, R77). -/

namespace Sys2Proof.Machine

/-! ### streams (R191, R192) -/

/-- A bobbin pattern-table entry (R191). -/
def bindingOf (e : BitVec 256) : Binding :=
  let n := e.toNat
  { kind := fld n 4 3, src := fld n 10 4, gus := fld n 14 6, strict := fldB n 7, base := fld n 20 22
    cnt := [fld n 88 16, fld n 128 16, fld n 168 16, fld n 208 16]
    str := [(fldV n 64 24).toInt, (fldV n 104 24).toInt, (fldV n 144 24).toInt, (fldV n 184 24).toInt]
    fill := fldV n 224 32 }

/-- A reserved bit of the entry is set (R191, R193). -/
def bindingReserved (e : BitVec 256) : Bool :=
  let n := e.toNat
  decide (fld n 0 4 ≠ 0 ∨ fld n 8 2 ≠ 0 ∨ fld n 42 22 ≠ 0)

/-- N of a scratchpad stream (R192). -/
def Binding.len (b : Binding) : Nat := b.cnt.foldl (· * ·) 1

/-- The address of a position (R192). -/
def streamAddr (cnt : List Nat) (str : List Int) (p : Nat) : Int :=
  match cnt, str with
  | c :: cs, t :: ts => ((p % c : Nat) : Int) * t + streamAddr cs ts (p / c)
  | _, _ => 0

def Binding.addr (b : Binding) (p : Nat) : Int := b.base + streamAddr b.cnt b.str p

/-- The fill vector (R191, R194). -/
def Binding.fillVec (b : Binding) : VWord := vecOf 4 192 fun _ => b.fill.toNat

/-- The bobbin's kinds: scratchpad input and output, ingress, egress, gusset consumer and producer ends. -/
def Binding.isIn (b : Binding) : Bool := b.kind == 1 || b.kind == 3 || b.kind == 5

/-! ### gussets (R54, R55, R57 to R59) -/

def Gusset.en (g : Gusset) : Bool := g.cfg.getLsbD 22
def Gusset.linear (g : Gusset) : Bool := g.cfg.getLsbD 0
def Gusset.depth (g : Gusset) : Nat := let d := fld g.cfg.toNat 1 6; if d = 0 then 64 else d
def Gusset.start (g : Gusset) : Nat := fld g.cfg.toNat 7 6
def Gusset.prodR (g : Gusset) : Nat := fld g.cfg.toNat 13 4
def Gusset.consR (g : Gusset) : Nat := fld g.cfg.toNat 17 4

/-- A counter that stays at all ones (R46, R277). -/
def satInc {w : Nat} (c : BitVec w) (n : Nat) : BitVec w := BitVec.ofNat w (min (2 ^ w - 1) (c.toNat + n))

/-- What a pop of a port returns: the vector, whether it is flagged GAP, and whether its bytes are marked (R194). -/
structure Ported where
  val : VWord
  gap : Bool
  bad : Bool
deriving DecidableEq, Repr

/-- What a pop of the consumer end returns (R55, R57, R58, R59). -/
def Gusset.value (g : Gusset) : Ported :=
  if !g.en || !g.started then { val := 0, gap := true, bad := false }
  else if g.linear then { val := g.lin, gap := g.linGap, bad := g.linBad }
  else if g.visible = 0 then { val := g.lastOut, gap := false, bad := g.lastBad }
  else { val := (g.ents.headD default).val, gap := false, bad := (g.ents.headD default).bad }

/-- The gusset after a pop (R58): the oldest visible entry goes, or an underrun is counted. -/
def Gusset.popped (g : Gusset) : Gusset :=
  if !g.en || !g.started || g.linear then g
  else if g.visible = 0 then { g with undc := satInc g.undc 1 }
  else { g with
    ents := g.ents.tail, visible := g.visible - 1, lastOut := (g.ents.headD default).val, lastBad := (g.ents.headD default).bad }

/-! ### pops and pushes (R194, R195) -/

/-- The information word of STREAM, and of BOUNDS or EARLY of a stream access (R162). -/
def State.streamInfo (s : State) (pos sub b : Nat) : Word :=
  BitVec.ofNat 64 (pos % 2 ^ 32 * 2 ^ 32 + sub % 16 * 2 ^ 8 + s.turn.pos % 8 * 2 ^ 4 + b % 8)

/-- The bobbin that a vector code names, as the slot reads it. -/
def State.bobbin (s : State) (b : Nat) : Bobbin := rd s.myCore.bob b

/-- The checks a pop and a push share: STREAM 3, 6, 4 (R194). -/
def State.chkStream (s : State) (b : Nat) (input : Bool) : Except Exc Binding := do
  let k := s.bobbin b
  match k.bound with
  | none => .error (exc cSTREAM (s.streamInfo k.pos 3 b))
  | some g => do
    when (decide (s.age < k.usable)) (exc cSTREAM (s.streamInfo k.pos 6 b))
    when (g.isIn != input) (exc cSTREAM (s.streamInfo k.pos 4 b))
    pure g

/-- The scratchpad address of the bobbin's position: none past the end of a stream that is not strict. -/
def State.streamAt (s : State) (b : Nat) (g : Binding) (sub : Nat) : Except Exc (Option Nat) := do
  let k := s.bobbin b
  if g.len ≤ k.pos then do
    when g.strict (exc cSTREAM (s.streamInfo k.pos sub b))
    pure none
  else do
    let a := g.addr k.pos
    when (decide (a < 0 ∨ 0x2FFD00 < a)) (exc cBOUNDS (s.streamInfo k.pos 0 b))
    pure (some a.toNat)

/-- A pop as its lead notes it for a follower: the vector and a byte for its mark. -/
def Ported.bytes (v : Ported) : List Byte := leBytes 768 v.val.toNat ++ leBytes 1 (bnat v.bad)

/-- What a pop of ingress or of a gusset's consumer end returns (R50, R58); a follower takes what its lead took (R439). -/
def State.ported (s : State) (b : Nat) (g : Binding) : Ported :=
  match s.next.leadRead s.n (popKey b) with
  | some (bs, gap) => { val := BitVec.ofNat 6144 (ofBytes (bs.take 768)), gap := gap, bad := bs.drop 768 != [0] }
  | none =>
    if g.kind = 3 then { val := (s.view.region s.myRegion).ingress, gap := (s.view.region s.myRegion).ingGap, bad := false }
    else (s.view.gusset g.gus).value

/-- A vector operand: known at issue, with its mark if a port gave it, or read from the scratchpad at c+2. -/
inductive Src where
  | val (v : VWord) (bad : Bool)
  | mem (a : Nat)
deriving DecidableEq, Repr

/-- Reading a vector field (R72, R194, R195): its value or address, and the pop delay P of R165. -/
def State.readV (s : State) (c : VCode) : Except Exc (Src × Nat) :=
  if c.toNat < 120 then .ok (.val (rd s.myCore.v (s.me.phys c.toNat)).val false, 0)
  else do
    let b := c.toNat - 120
    let g ← s.chkStream b true
    match g.kind with
    | 1 => do
      match ← s.streamAt b g 1 with
      | none => pure (.val g.fillVec false, 4)
      | some a => do
        when (s.inArmed a 768 (s.age + 2)) (exc cEARLY (s.streamInfo (s.bobbin b).pos 0 b))
        pure (.mem a, 4)
    | 3 => pure (.val (s.ported b g).val (s.ported b g).bad, 0)
    | _ => pure (.val (s.ported b g).val (s.ported b g).bad, 4)

/-- The commit record of a pop or push (R438): bobbin, position. -/
def Mach.commitPort (m : Mach) (n x b pos : Nat) : Mach := m.commit n x (2 ^ 41) (leBytes 1 b ++ leBytes 8 pos)

/-- The effects of a pop at issue (R194, R195): position, EOS, GAP, and the gusset's entries. -/
def State.popB (s : State) (b : Nat) : State :=
  match (s.bobbin b).bound with
  | none => s
  | some g =>
    let t := s.mod fun m => m.commitPort s.n s.x b (s.bobbin b).pos
    match g.kind with
    | 1 => t.mod fun m => m.modBob s.n b fun k =>
        if g.len ≤ k.pos then { k with eos := true } else { k with pos := k.pos + 1 }
    | _ =>
      let v := s.ported b g
      t.mod fun m =>
        let m := (m.modBob s.n b fun k => { k with pos := k.pos + 1, gap := k.gap || v.gap }).noteRead s.n (popKey b) v.bytes v.gap
        if m.follows s.n then m.tookRead s.n (popKey b) else if g.kind = 3 ∨ s.muted then m else m.modGusset g.gus Gusset.popped

/-- The pops of the bobbins named in read fields: one per bobbin, however often it is named (R76). -/
def State.popAll (s : State) (cs : List VCode) : State :=
  ((cs.filter fun c => decide (120 ≤ c.toNat)).map fun c => c.toNat - 120).eraseDups.foldl State.popB s

/-- Where a pushed or written vector goes (R72, R194): a window register, or the bobbin's target; none for a push past the end
of a stream. -/
def State.writeV (s : State) (c : VCode) : Except Exc (List VDest) :=
  if c.toNat < 120 then .ok [.v (s.me.phys c.toNat)]
  else do
    let b := c.toNat - 120
    let g ← s.chkStream b false
    match g.kind with
    | 2 => do
      match ← s.streamAt b g 2 with
      | none => pure []
      | some a => pure [.spad a]
    | 4 => pure [.egress g.src]
    | _ => pure [.gusset g.gus]

/-- The effects of a push at issue (R194). -/
def State.pushB (s : State) (c : VCode) : State :=
  if c.toNat < 120 then s
  else
    let b := c.toNat - 120
    match (s.bobbin b).bound with
    | none => s
    | some g =>
      s.mod fun m => (m.commitPort s.n s.x b (s.bobbin b).pos).modBob s.n b fun k =>
        if g.kind = 2 ∧ g.len ≤ k.pos then { k with eos := true } else { k with pos := k.pos + 1 }

/-! ### where a result goes -/

/-- A vector result delivered (R165, R77): `from` is the cycle on the agent's clock from which `land`, the cycles to a register
write, is counted; a push skips the register write stage. A register is written whole: bytes outside the part that an entry writes are written
again as d was read at issue (R164; log 195). -/
def Mach.deliver (m : Mach) (n x : Nat) (uid : Option Nat) (ord : Nat) (base land : Nat) (e : VEnv) (o : VOut) (poison : Bool)
    (ds : List VDest) : Mach :=
  let k := clusOf n
  let lm := laneMask e.lanes
  let pushed := o.v &&& maskBits lm
  (ds.zipIdx).foldl (fun m (d, j) =>
    match d with
    | .v p =>
      let r : Result := if j = 0
        then { due := base + land, ord := ord, what := .v p o.v (~~~ (o.mask &&& ~~~ lm)), poison := poison }
        else { due := base + land, ord := ord, what := .v p o.comp o.cmask, poison := poison }
      m.modCtx n x fun c => c.fly r
    | .p q =>
      if q = 0 then m
      else m.modCtx n x fun c => c.fly { due := base + land, ord := ord, what := .p q (o.preds.getD j 0), poison := false }
    | .s q => if q = 0 then m else m.modCtx n x fun c => c.fly { due := base + land, ord := ord, what := .s q o.sc, poison := poison }
    | .spad a =>
      m.modCl k fun c => { c with pend := c.pend ++
        [{ core := n, ctx := x, uid := uid, ord := ord, due := base + land - 2, acc := .vstore a pushed fullMask poison false }] }
    | .egress u => if m.mute n x then m else m.modSource u fun g => { g with pushes := g.pushes ++ [{ due := base + land - 2, reg := m.regionOf k, core := n, ctx := x, val := pushed, bad := poison }] }
    | .gusset g => if m.mute n x then m else m.modGusset g fun g => { g with pushes := g.pushes ++ [{ due := base + land, reg := m.regionOf k, core := n, ctx := x, val := pushed, bad := poison }] }
    | .tile a len =>
      { m with tile := up m.tile n fun l => l ++ [{ ctx := x, ord := ord, due := base + land, acc := .put a len o.v poison }] }
    | .send dst ch =>
      let m := m.commitOut n x 8 (8 * dst + ch) (leBytes 768 o.v.toNat)
      if m.mute n x then m else m.modPack fun p => { p with flights := p.flights ++
        [{ due := base + land, issued := ord / 8, src := n, srcCtx := x, dst := dst, ch := ch, val := o.v }] }) m

/-- The operand environment of the issuing slot, without its vector operands. -/
def State.env (s : State) (merged : Bool) (sa sb : Word) : VEnv :=
  { (default : VEnv) with
    fmt := s.me.fmt
    lanes := if merged then s.me.mergePred else BitVec.allOnes 192
    sel := s.me.mergePred
    sa := sa
    sb := sb }

/-- An operand placed in an environment: 0 D, 1 A, 2 B. -/
def VEnv.set (e : VEnv) (pos : Nat) (v : VWord) : VEnv :=
  match pos with
  | 0 => { e with d := v }
  | 1 => { e with a := v }
  | _ => { e with b := v }

/-- An operand placed in every field that names it. -/
def VEnv.sets (e : VEnv) (ps : List Nat) (v : VWord) : VEnv := ps.foldl (fun e p => e.set p v) e

/-- The vector operands of a slot, in the order of the fields that name them first, each with those fields: a bobbin that several fields name
pops once (R76, R194). -/
def byOperand (rs : List (Nat × VCode)) : List (VCode × List Nat) :=
  (rs.map Prod.snd).eraseDups.map fun c => (c, (rs.filter fun q => q.2 == c).map Prod.fst)

/-- Read the operands: the environment, the scratchpad reads, and the greatest P. -/
def State.readEach (s : State) (os : List (VCode × List Nat)) (e : VEnv) : Except Exc (VEnv × List (Nat × List Nat) × Nat) :=
  match os with
  | [] => .ok (e, [], 0)
  | (c, ps) :: rest => do
    let (v, p) ← s.readV c
    let (e', ms, q) ← s.readEach rest e
    match v with
    | .val w bad => pure ({ e'.sets ps w with poison := e'.poison || bad }, ms, max p q)
    | .mem a => pure (e', (a, ps) :: ms, max p q)

/-- Read every vector field of a slot; the fields are given in the order D, A, B, and so the stream faults of several bobbins are judged (log 190). -/
def State.readAll (s : State) (rs : List (Nat × VCode)) (e : VEnv) : Except Exc (VEnv × List (Nat × List Nat) × Nat) :=
  s.readEach (byOperand rs) e

/-- A vector slot whose operands are known gives its result, marked if one of them was (R161). Predicates hold no mark: a punpk of a
poisoned pop writes zeros and posts POISON, in the cycle in which its operand is known (R204; log 168). -/
def Mach.formed (m : Mach) (n x : Nat) (uid : Option Nat) (ord base land : Nat) (i : Instr) (e : VEnv) (ds : List VDest) : Mach :=
  let unpack := match i with
    | .punpk _ _ => true
    | _ => false
  let o := vecResult i e
  if unpack && e.poison then (m.deliver n x uid ord base land e { o with preds := [] } false ds).postCtx n x cPOISON e.sa
  else m.deliver n x uid ord base land e o e.poison ds

/-- Send the slot's result on its way: at once when every operand is known, or as a pending access that reads its pops at c+2
(R165). `lat` is the operation's latency, P added. -/
def State.produce (s : State) (i : Instr) (e : VEnv) (mems : List (Nat × List Nat)) (lat : Nat) (ds : List VDest) : State :=
  match mems with
  | [] => s.mod fun m => m.formed s.n s.x (s.me.task.map Task.uid) s.ord s.age lat i e ds
  | _ => s.access 2 (.pop mems i e ds (lat - 2))

end Sys2Proof.Machine
end

