-- ==== Sys2Proof/Machine/Vector.lean ====
section
/-! DEFINITION. Classes 4, 5 and 7, vector and predicate slots (R161 to R184, R203, R204). -/

namespace Sys2Proof.Machine

/-- The OPER subcause of a vector slot under an FMT (R163, R164, R172 to R184); none if the instruction accepts it. -/
def vecFault (i : Instr) (fmt : BitVec 22) : Option Nat :=
  let c := fmtV fmt
  let w := fmtW fmt
  let need (ok : Bool) : Option Nat := if ok then none else some 10
  match i with
  | .vadd _ _ _ _ => need (isFl c || isIn c)
  | .vsub _ _ _ _ => need (isFl c || isIn c)
  | .vmul _ _ _ _ => need (isFl c || isIn c)
  | .vfma _ _ _ _ => need (isFl c || isIn c)
  | .vfms _ _ _ _ => need (isFl c || isIn c)
  | .vmin _ _ _ _ => need (isFl c || isIn c)
  | .vmax _ _ _ _ => need (isFl c || isIn c)
  | .vclamp _ _ _ _ => need (isFl c || isIn c)
  | .vabs _ _ _ => need (isFl c || isIn c)
  | .vneg _ _ _ => need (isFl c || isIn c)
  | .vaddi _ _ _ _ => need (isFl c || isIn c)
  | .vmuli _ _ _ _ => need (isFl c || isIn c)
  | .vcmp _ _ _ _ => need (isFl c || isIn c)
  | .vshl _ _ _ _ => need (isIn c)
  | .vshr _ _ _ _ => need (isIn c)
  | .vsar _ _ _ _ => need (isIn c)
  | .vmulh _ _ _ _ => need (isIn c)
  | .vsatadd _ _ _ _ => need (isIn c)
  | .vsatsub _ _ _ _ => need (isIn c)
  | .vrecip _ _ _ => need (isFl c)
  | .vrsqrt _ _ _ => need (isFl c)
  | .vexp2 _ _ _ => need (isFl c)
  | .vlog2 _ _ _ => need (isFl c)
  | .vround _ _ _ => need (isFl c)
  | .vbc _ _ _ => need (decide (c ≤ 8))
  | .vrot _ _ _ _ => need (decide (c ≤ 8))
  | .vext _ _ _ _ => need (decide (c ≤ 8))
  | .vins _ _ _ _ => need (decide (c ≤ 8))
  | .vbsum _ _ _ => need (decide (c ≤ 8))
  | .vbmax _ _ _ => need (decide (c ≤ 8))
  | .vaddw _ _ _ _ => need (widens c w)
  | .vmacw _ _ _ _ => need (widens c w)
  | .vredsum _ _ _ _ => need (isFl c || isIn c)
  | .vredmax _ _ _ _ => need (isFl c || isIn c)
  | .vredmin _ _ _ _ => need (isFl c || isIn c)
  | .vscan _ _ _ _ => need (isFl c || isIn c)
  | .vcvt _ _ _ p =>
    if 8 < c ∨ 8 < w then some 10
    else if max (fmtWidth w / fmtWidth c) (fmtWidth c / fmtWidth w) ≤ p.toNat then some 11 else none
  | .vpackh _ _ _ _ => need (decide (c ≤ 8 ∧ w ≤ 8 ∧ fmtWidth c = 2 * fmtWidth w))
  | .vunpk _ _ _ p => if c ≠ 9 ∨ w ≠ 1 then some 10 else if p = 3 then some 11 else none
  | .vq8 _ _ _ _ => need (c == 0 && (w == 3 || w == 4))
  | .vdq8 _ _ _ _ => need ((c == 3 || c == 4) && w == 0)
  | .red _ _ _ _ => need (c == 0 && (w == 3 || w == 4))
  | .vstxa _ _ _ _ => need (c == 0 || c == 7)
  | _ => none

/-- The name of the merge predicate (R77). -/
def State.mergeName (s : State) : PReg := s.me.masksel.extractLsb' 0 4

/-- A vector slot: not acting if its guard fails (R77); then R119's and R161's checks, the bobbin faults of R194, and the
entry's own (log 196); then its pops, its push and its result. `reads` are its read fields with their positions, `comps` the companions
it reads, `ps` the predicates. -/
def vslot (s : State) (i : Instr) (m : Bool) (reads : List (Nat × VCode)) (comps : List VCode) (ps : List PReg)
    (scal : List SReg) (e : VEnv) (dst : Option VCode) (others : List VDest) (lat : Nat) : Out :=
  if m && !s.me.guard then issue s (pure s)
  else
    issue s do
      s.chkS scal
      s.chkV (reads.map Prod.snd ++ comps) (if m then s.mergeName :: ps else ps) false
      let (e, mems, p) ← s.readAll reads e
      let ds ← match dst with
        | some c => s.writeV c
        | none => pure []
      match vecFault i s.me.fmt with
      | some sub => .error (s.oper sub)
      | none =>
        let t := s.popAll (reads.map Prod.snd)
        let t := match dst with
          | some c => t.pushB c
          | none => t
        pure (t.produce i e mems (lat + p) (ds ++ others))

/-- The value of a window register by code. -/
def State.vreg (s : State) (c : Nat) : VWord := (rd s.myCore.v (s.me.phys c)).val

/-- A slot of two vector operands. -/
def v2 (s : State) (i : Instr) (m : Bool) (d a b : VCode) (lat : Nat) : Out :=
  vslot s i m [(1, a), (2, b)] [] [] [] (s.env m 0 0) (some d) [] lat

/-- A slot of one vector operand. -/
def v1 (s : State) (i : Instr) (m : Bool) (d a : VCode) (lat : Nat) : Out :=
  vslot s i m [(1, a)] [] [] [] (s.env m 0 0) (some d) [] lat

/-- A slot of three vector operands, d among them. -/
def v3 (s : State) (i : Instr) (m : Bool) (d a b : VCode) (lat : Nat) : Out :=
  vslot s i m [(0, d), (1, a), (2, b)] [] [] [] (s.env m 0 0) (some d) [] lat

/-! ### class 4 (R166) -/

/-- R166: a + b. -/
def execVadd (m : Bool) (d a b : VCode) (s : State) : Out := v2 s (.vadd m d a b) m d a b 4

/-- R166: a - b. -/
def execVsub (m : Bool) (d a b : VCode) (s : State) : Out := v2 s (.vsub m d a b) m d a b 4

/-- R166: a × b. -/
def execVmul (m : Bool) (d a b : VCode) (s : State) : Out := v2 s (.vmul m d a b) m d a b 6

/-- R166: the smaller. -/
def execVmin (m : Bool) (d a b : VCode) (s : State) : Out := v2 s (.vmin m d a b) m d a b 4

/-- R166: the larger. -/
def execVmax (m : Bool) (d a b : VCode) (s : State) : Out := v2 s (.vmax m d a b) m d a b 4

/-- R166: bitwise and. -/
def execVand (m : Bool) (d a b : VCode) (s : State) : Out := v2 s (.vand m d a b) m d a b 4

/-- R166: bitwise or. -/
def execVor (m : Bool) (d a b : VCode) (s : State) : Out := v2 s (.vor m d a b) m d a b 4

/-- R166: bitwise exclusive or. -/
def execVxor (m : Bool) (d a b : VCode) (s : State) : Out := v2 s (.vxor m d a b) m d a b 4

/-- R166: a shifted left by b. -/
def execVshl (m : Bool) (d a b : VCode) (s : State) : Out := v2 s (.vshl m d a b) m d a b 4

/-- R166: a shifted right, logical, by b. -/
def execVshr (m : Bool) (d a b : VCode) (s : State) : Out := v2 s (.vshr m d a b) m d a b 4

/-- R166: a shifted right, arithmetic, by b. -/
def execVsar (m : Bool) (d a b : VCode) (s : State) : Out := v2 s (.vsar m d a b) m d a b 4

/-- R166: the high w bytes of the product. -/
def execVmulh (m : Bool) (d a b : VCode) (s : State) : Out := v2 s (.vmulh m d a b) m d a b 6

/-- R166: a + b clamped. -/
def execVsatadd (m : Bool) (d a b : VCode) (s : State) : Out := v2 s (.vsatadd m d a b) m d a b 4

/-- R166: a - b clamped. -/
def execVsatsub (m : Bool) (d a b : VCode) (s : State) : Out := v2 s (.vsatsub m d a b) m d a b 4

/-- R166: d + a × b, fused. -/
def execVfma (m : Bool) (d a b : VCode) (s : State) : Out := v3 s (.vfma m d a b) m d a b 6

/-- R166: d - a × b, fused. -/
def execVfms (m : Bool) (d a b : VCode) (s : State) : Out := v3 s (.vfms m d a b) m d a b 6

/-- R166: min(max(d, a), b). -/
def execVclamp (m : Bool) (d a b : VCode) (s : State) : Out := v3 s (.vclamp m d a b) m d a b 4

/-- R166: d + the products of the pair of narrow elements (R172). -/
def execVmacw (m : Bool) (d a b : VCode) (s : State) : Out := v3 s (.vmacw m d a b) m d a b 6

/-- R166, R172: a + the pair of narrow elements of b. -/
def execVaddw (m : Bool) (d a b : VCode) (s : State) : Out := v2 s (.vaddw m d a b) m d a b 4

/-- R166: |a|. -/
def execVabs (m : Bool) (d a : VCode) (s : State) : Out := v1 s (.vabs m d a) m d a 4

/-- R166: -a. -/
def execVneg (m : Bool) (d a : VCode) (s : State) : Out := v1 s (.vneg m d a) m d a 4

/-- R166: a. -/
def execVmov (m : Bool) (d a : VCode) (s : State) : Out := v1 s (.vmov m d a) m d a 4

/-- R166: 1 / a. -/
def execVrecip (m : Bool) (d a : VCode) (s : State) : Out := v1 s (.vrecip m d a) m d a 14

/-- R166: 1 / √a. -/
def execVrsqrt (m : Bool) (d a : VCode) (s : State) : Out := v1 s (.vrsqrt m d a) m d a 14

/-- R166: 2^a. -/
def execVexp2 (m : Bool) (d a : VCode) (s : State) : Out := v1 s (.vexp2 m d a) m d a 14

/-- R166: log2 a. -/
def execVlog2 (m : Bool) (d a : VCode) (s : State) : Out := v1 s (.vlog2 m d a) m d a 14

/-- R166: a rounded to an integral value. -/
def execVround (m : Bool) (d a : VCode) (s : State) : Out := v1 s (.vround m d a) m d a 4

/-- R166, R169: a where the lane's bit of p(MASKSEL.P) is 1, else b; guarded under M = 1, but every lane of d is written. -/
def execVsel (m : Bool) (d a b : VCode) (s : State) : Out :=
  vslot s (.vsel m d a b) m [(1, a), (2, b)] [] [s.mergeName] [] (s.env false 0 0) (some d) [] 4

/-- R166, R169: the low 8w bits of s(a) in every element. -/
def execVbc (m : Bool) (d : VCode) (a : SReg) (s : State) : Out :=
  vslot s (.vbc m d a) m [] [] [] [a] (s.env m (s.rs a) 0) (some d) [] 4

/-- R166, R169: a + imm. -/
def execVaddi (m : Bool) (d a : VCode) (i : BitVec 7) (s : State) : Out := v1 s (.vaddi m d a i) m d a 4

/-- R166, R169: a × imm. -/
def execVmuli (m : Bool) (d a : VCode) (i : BitVec 7) (s : State) : Out := v1 s (.vmuli m d a i) m d a 6

/-- R171: the condition per lane into a predicate; never guarded. -/
def execVcmp (c : BitVec 3) (p : PReg) (a b : VCode) (s : State) : Out :=
  vslot s (.vcmp c p a b) false [(1, a), (2, b)] [] [] [] (s.env false 0 0) none [.p (s.me.physP p.toNat)] 4

/-! ### class 5 (R173) -/

/-- R174: conversion; where it narrows, d is an operand too (R164). -/
def execVcvt (m : Bool) (d a : VCode) (p : BitVec 2) (s : State) : Out :=
  let partial_ := decide (1 < narrows (fmtV s.me.fmt) (fmtW s.me.fmt) ∧ fmtV s.me.fmt ≤ 8 ∧ fmtW s.me.fmt ≤ 8)
  vslot s (.vcvt m d a p) m (if partial_ then [(0, d), (1, a)] else [(1, a)]) [] [] [] (s.env m 0 0) (some d) [] 5

/-- R177: eight blocks quantised into quarter `part` of d, their scales into the companion d+1. The spec does not say whether the companion, of
which other bytes stay, is read: the model takes it as a read operand, which raises EARLY and POISON (log 161). -/
def execVq8 (m : Bool) (d a : VCode) (p : BitVec 2) (s : State) : Out :=
  let e := { s.env m 0 0 with cd := s.vreg (d.toNat + 1) }
  vslot s (.vq8 m d a p) m [(0, d), (1, a)] [d + 1] [] [] e (some d) [.v (s.me.phys (d.toNat + 1))] 12

/-- R178: quarter `part` of a dequantised with the scales of the companion a+1, which is read only under FMT.FSC. -/
def execVdq8 (m : Bool) (d a : VCode) (p : BitVec 2) (s : State) : Out :=
  let fsc := fmtFsc s.me.fmt
  let e := { s.env m 0 0 with c := if fsc then s.vreg (a.toNat + 1) else 0 }
  vslot s (.vdq8 m d a p) m [(1, a)] (if fsc then [a + 1] else []) [] [] e (some d) [] 6

/-- R180: the sum of every element of a and element 0 of b. -/
def execVredsum (m : Bool) (d a b : VCode) (s : State) : Out := v2 s (.vredsum m d a b) m d a b 13

/-- R180: the largest. -/
def execVredmax (m : Bool) (d a b : VCode) (s : State) : Out := v2 s (.vredmax m d a b) m d a b 11

/-- R180: the smallest. -/
def execVredmin (m : Bool) (d a b : VCode) (s : State) : Out := v2 s (.vredmin m d a b) m d a b 11

/-- R181: inclusive prefixes. -/
def execVscan (m : Bool) (d a b : VCode) (s : State) : Out := v2 s (.vscan m d a b) m d a b 11

/-- R182: lanes of a by index. -/
def execVperm (m : Bool) (d a b : VCode) (s : State) : Out := v2 s (.vperm m d a b) m d a b 11

/-- R182: bytes of a within each quarter. -/
def execVshuf (m : Bool) (d a b : VCode) (s : State) : Out := v2 s (.vshuf m d a b) m d a b 11

/-- R175: two vectors narrowed into one. -/
def execVpackh (m : Bool) (d a b : VCode) (s : State) : Out := v2 s (.vpackh m d a b) m d a b 5

/-- R182: the elements of a rotated by s(b). -/
def execVrot (m : Bool) (d a : VCode) (b : SReg) (s : State) : Out :=
  vslot s (.vrot m d a b) m [(1, a)] [] [] [b] (s.env m 0 (s.rs b)) (some d) [] 11

/-- R176: INT4Q weights expanded to BF16. -/
def execVunpk (m : Bool) (d a : VCode) (p : BitVec 2) (s : State) : Out := v1 s (.vunpk m d a p) m d a 5

/-- R179: the hash of each lane's global index, or its comparison with a threshold. -/
def execVrand (m : Bool) (d : VCode) (a : SReg) (b : VCode) (s : State) : Out :=
  vslot s (.vrand m d a b) m [(2, b)] [] [] [a] (s.env m (s.rs a) 0) (some d) [] 6

/-- R183: one element into a scalar; M = 1 guards and merges nothing (R164). -/
def execVext (m : Bool) (d : SReg) (a : VCode) (b : SReg) (s : State) : Out :=
  if m && !s.me.guard then issue s (pure s)
  else vslot s (.vext m d a b) false [(1, a)] [] [] [b] (s.env false 0 (s.rs b)) none [.s d.toNat] 11

/-- R183: one element from a scalar; the other elements of d keep their values. -/
def execVins (m : Bool) (d : VCode) (a b : SReg) (s : State) : Out :=
  vslot s (.vins m d a b) m [(0, d)] [] [] [a, b] (s.env m (s.rs a) (s.rs b)) (some d) [] 11

/-- R184: block sums. -/
def execVbsum (m : Bool) (d a : VCode) (s : State) : Out := v1 s (.vbsum m d a) m d a 11

/-- R184: block maxima of magnitude. -/
def execVbmax (m : Bool) (d a : VCode) (s : State) : Out := v1 s (.vbmax m d a) m d a 11

/-! ### class 7 (R203, R204) -/

/-- A predicate operation of two operands. -/
def p2 (s : State) (d a b : PReg) (f : Pred → Pred → Pred) : Out :=
  issue s do
    s.chkV [] [a, b] false
    pure (s.putP d (f (s.rp a) (s.rp b)) 2)

/-- R203: a AND b. -/
def execPand (d a b : PReg) (s : State) : Out := p2 s d a b (fun x y => x &&& y)

/-- R203: a OR b. -/
def execPor (d a b : PReg) (s : State) : Out := p2 s d a b (fun x y => x ||| y)

/-- R203: a XOR b. -/
def execPxor (d a b : PReg) (s : State) : Out := p2 s d a b (fun x y => x ^^^ y)

/-- R203: a AND NOT b. -/
def execPandn (d a b : PReg) (s : State) : Out := p2 s d a b (fun x y => x &&& ~~~ y)

/-- R203: NOT a. -/
def execPnot (d a : PReg) (s : State) : Out := p2 s d a a (fun x _ => ~~~ x)

/-- R203: a. -/
def execPmov (d a : PReg) (s : State) : Out := p2 s d a a (fun x _ => x)

/-- R203: bit i := 1 if i < s(a), unsigned. -/
def execPset (d : PReg) (a : SReg) (s : State) : Out :=
  issue s do
    s.chkS [a]
    pure (s.putP d (predBelow (s.rs a).toNat) 2)

/-- R203: the number of set bits, with latency 3. -/
def execPcnt (d : SReg) (a : PReg) (s : State) : Out :=
  issue s do
    s.chkV [] [a] false
    pure (s.putS d (BitVec.ofNat 64 (popCount 192 (s.rp a).toNat)) 3)

/-- R203: the index of the lowest set bit; 192 if none. -/
def execPfirst (d : SReg) (a : PReg) (s : State) : Out :=
  issue s do
    s.chkV [] [a] false
    pure (s.putS d (BitVec.ofNat 64 (lowestBit 192 (s.rp a).toNat)) 2)

/-- Eight predicates packed into the first 192 bytes (R204). -/
def packPreds (s : State) (first : Nat) : VWord :=
  BitVec.ofNat 6144 (digits (2 ^ 192) (fun j => (s.me.pval (first + j)).toNat) 8 0)

/-- R204: predicates p(8a) to p(8a+7) packed into a vector, latency 2, of a push too (R165: it lands at c - 2 + Q). -/
def execPpack (d : VCode) (a : Bool) (s : State) : Out :=
  issue s do
    s.chkV [] ((List.range 8).map fun j => BitVec.ofNat 4 (8 * bnat a + j)) false
    let ds ← s.writeV d
    let o := outV (packPreds s (8 * bnat a))
    pure ((s.pushB d).mod fun m =>
      m.deliver s.n s.x (s.me.task.map Task.uid) s.ord s.age 2 (s.env false 0 0) o false ds)

/-- R204: eight predicates read back from a vector, latency 2. -/
def execPunpk (d : Bool) (a : VCode) (s : State) : Out :=
  vslot s (.punpk d a) false [(1, a)] [] [] [] (s.env false (s.info 0) 0) none
    ((List.range 8).map fun j => .p (s.me.physP (8 * bnat d + j))) 2

/-- R203: k := the test of a predicate. -/
def execPtest (d : KReg) (a : PReg) (m : BitVec 2) (s : State) : Out :=
  issue s do
    s.chkV [] [a] false
    pure (s.putK d (ptestHolds m (s.rp a)) 2)

/-- R203: bit i := bit i mod 64 of s(a). -/
def execPmask (d : PReg) (a : SReg) (s : State) : Out :=
  issue s do
    s.chkS [a]
    pure (s.putP d (predRepeat (s.rs a)) 2)

end Sys2Proof.Machine
end

