-- ==== Sys2Proof/Machine/VecMem.lean ====
section
/-! DEFINITION. Class 6: vector loads and stores, gathers and scatters, and the bobbin instructions (R185 to R202). -/

namespace Sys2Proof.Machine

/-- BOUNDS, then ALIGN, of a vector access (R185). -/
def chkVec (ea : Word) : Except Exc Unit := do
  when (decide (0x2FFD00 < ea.toNat)) (exc cBOUNDS ea)
  when (decide (ea.toNat % 256 ≠ 0)) (exc cALIGN ea)

/-- R185: 768 bytes read at c+2, d readable from c+8. -/
def execVld (x : Bool) (d : VCode) (b : SReg) (o : BitVec 7) (s : State) : Out :=
  issue s do
    s.chkS [b]
    let ea := memAddr x (s.rs b) o 768
    chkVec ea
    s.chkArmed ea 768 2
    pure ((s.access 2 (.vload ea.toNat (s.me.phys d.toNat) 6)).bump x b o 768)

/-- R185: 768 bytes of d written at c+2. -/
def execVst (x : Bool) (d : VCode) (b : SReg) (o : BitVec 7) (s : State) : Out :=
  issue s do
    s.chkS [b]
    s.chkV [d] [] false
    let ea := memAddr x (s.rs b) o 768
    chkVec ea
    pure ((s.access 2 (.vstore ea.toNat (s.vreg d.toNat) fullMask false false)).bump x b o 768)

/-- R185: guarded by MASKSEL; the lanes of the merge predicate written at c+2. -/
def execVstm (x : Bool) (d : VCode) (b : SReg) (o : BitVec 7) (s : State) : Out :=
  if !s.me.guard then issue s (pure s)
  else
    issue s do
      s.chkS [b]
      s.chkV [d] [s.mergeName] false
      let ea := memAddr x (s.rs b) o 768
      chkVec ea
      pure ((s.access 2 (.vstore ea.toNat (s.vreg d.toNat) (laneMask s.me.mergePred) false false)).bump x b o 768)

/-! ### gathers and scatters (R187 to R189) -/

/-- The byte address of a lane: base + 4k (R187). -/
def laneAddr (base : Nat) (idx : VWord) (i : Nat) : Nat := base + 4 * lane idx i

/-- A lane is a hole: bit 31 of its index is set (R188). -/
def isHole (idx : VWord) (i : Nat) : Bool := decide (2 ^ 31 ≤ lane idx i)

/-- A lane that acts: merged on, no hole (R188). -/
def actsAt (e : VEnv) (idx : VWord) (i : Nat) : Bool := e.lanes.getLsbD i && !isHole idx i

/-- A lane's word ends beyond the scratchpad (R188). -/
def beyondAt (base : Nat) (idx : VWord) (i : Nat) : Bool := decide (0x2FFFFF < laneAddr base idx i + 3)

/-- A lane that is not strict is out of range: GST becomes 1 (R188). -/
def setsGst (base : Nat) (e : VEnv) (idx : VWord) : Bool :=
  (List.range 192).any fun i => actsAt e idx i && beyondAt base idx i

/-- The information word of a lane fault (R162). -/
def laneInfo (idx : VWord) (i : Nat) : Word := BitVec.ofNat 64 (i * 2 ^ 32 + lane idx i)

/-- BOUNDS at the lowest lane of a strict access, then EARLY at the lowest lane of a gather (R187, R188). -/
def State.chkLanes (s : State) (strict load : Bool) (base : Nat) (e : VEnv) (idx : VWord) (wait : Nat) : Except Exc Unit := do
  match (List.range 192).find? fun i => strict && actsAt e idx i && beyondAt base idx i with
  | some i => .error (exc cBOUNDS (laneInfo idx i))
  | none => pure ()
  match (List.range 192).find? fun i => load && actsAt e idx i && !beyondAt base idx i &&
      s.inArmed (laneAddr base idx i) 4 (s.age + wait) with
  | some i => .error (exc cEARLY (laneInfo idx i))
  | none => pure ()

/-- The access of a gather or scatter whose operands are known: indices in B, data in D (R187). -/
def laneAccess (i : Instr) (base : Nat) (e : VEnv) (ds : List VDest) (land : Nat) : Access :=
  match i with
  | .vldx _ _ _ _ => .gather base e.b e ds land
  | .vstxa _ _ _ _ => .scatterAdd base e.b e.d e.lanes e.fmt e.poison
  | _ => .scatter base e.b e.d e.lanes e.poison

/-- A gather or scatter (R187): indices that a pop delivers are judged for faults as memory holds them at issue (log 28). R187 gives the
STREAM, BOUNDS and EARLY of a popped operand's own access no place in its order: they come before OPER 10, ALIGN and the faults of lanes
(log 139). GST is set at issue where the indices are known, and at c+2 where a pop of the scratchpad brings them (R188; log 94). -/
def xslot (s : State) (i : Instr) (m load : Bool) (reads : List (Nat × VCode)) (a : SReg) (dst : Option VCode) : Out :=
  if m && !s.me.guard then issue s (pure s)
  else
    issue s do
      s.chkS [a]
      s.chkV (reads.map Prod.snd) (if m then [s.mergeName] else []) false
      let (e, mems, p) ← s.readAll reads (s.env m (s.rs a) 0)
      let ds ← match dst with
        | some c => s.writeV c
        | none => pure []
      match vecFault i s.me.fmt with
      | some sub => .error (s.oper sub)
      | none => do
        let base := (s.rs a).toNat % 2 ^ 63
        let strict := (s.rs a).getLsbD 63
        when (decide (base % 4 ≠ 0)) (exc cALIGN (BitVec.ofNat 64 base))
        let idx := match mems.find? fun q => q.2.contains 2 with
          | some (ad, _) => s.myCl.spad.vec ad
          | none => e.b
        s.chkLanes strict load base e idx (6 + p)
        let t := s.popAll (reads.map Prod.snd)
        let t := match dst with
          | some c => t.pushB c
          | none => t
        match mems with
        | [] =>
          let t := if setsGst base e e.b then t.modMe fun c => { c with gst := true } else t
          pure (t.access (6 + p) (laneAccess i base e ds 6))
        | _ => pure (t.access 2 (.pop mems i e ds 10))

/-- R187: each lane of d receives the word at base + 4 × index. -/
def execVldx (m : Bool) (d : VCode) (a : SReg) (b : VCode) (s : State) : Out :=
  xslot s (.vldx m d a b) m true [(2, b)] a (some d)

/-- R187: each acting lane of d is written to its word. -/
def execVstx (m : Bool) (d : VCode) (a : SReg) (b : VCode) (s : State) : Out :=
  xslot s (.vstx m d a b) m false [(0, d), (2, b)] a none

/-- R189: each acting lane of d is added into its word. -/
def execVstxa (m : Bool) (d : VCode) (a : SReg) (b : VCode) (s : State) : Out :=
  xslot s (.vstxa m d a b) m false [(0, d), (2, b)] a none

/-! ### binding and control of bobbins (R191 to R201) -/

/-- The bobbin that holds the gusset end or egress of a binding (R193). -/
def Mach.holderB (m : Mach) (g : Binding) : Option (Nat × Nat) :=
  match g.kind with
  | 4 => (m.source g.src).bound
  | 5 => (m.gusset g.gus).cons
  | 6 => (m.gusset g.gus).prod
  | _ => none

/-- Give back the gusset end or egress that bobbin b of core n holds by its binding (R201); a bobbin of a follower holds none (R439). -/
def Mach.releaseB (m : Mach) (n b : Nat) (g : Binding) : Mach :=
  if m.holderB g != some (n, b) then m
  else
    match g.kind with
    | 4 => m.modSource g.src fun u => { u with bound := none }
    | 5 => m.modGusset g.gus fun u => { u with cons := none }
    | 6 => m.modGusset g.gus fun u => { u with prod := none }
    | _ => m

/-- Take the gusset end or egress that a binding holds, for bobbin b of core n (R193). -/
def Mach.claimB (m : Mach) (n b : Nat) (g : Binding) : Mach :=
  match g.kind with
  | 4 => m.modSource g.src fun u => { u with bound := some (n, b) }
  | 5 => m.modGusset g.gus fun u => { u with cons := some (n, b) }
  | 6 => m.modGusset g.gus fun u => { u with prod := some (n, b) }
  | _ => m

/-- Some other bobbin holds it. -/
def Mach.takenB (m : Mach) (n b : Nat) (g : Binding) : Bool :=
  match m.holderB g with
  | none => false
  | some h => h != (n, b)

/-- R193: binds a bobbin to an entry of the active pattern table, usable from c+10. A follower or duplicate binds within its own core
only (R439, R440; log 137). -/
def execBset (n : BitVec 3) (i : BitVec 14) (s : State) : Out :=
  issue s do
    let b := n.toNat
    let ix := (s.imm i).toNat
    when (decide (255 < ix)) (s.oper 12)
    let raw := rd (s.myCore.planeOf 2).btab ix
    let g := bindingOf raw
    when (g.kind == 0 || g.kind == 7 || bindingReserved raw) (s.oper 12)
    when ((g.kind == 1 || g.kind == 2) && (g.cnt.any (· == 0) || decide (g.base % 256 ≠ 0 ∨ 0x2FFD00 < g.base) ||
      g.str.any fun t => t % 256 != 0)) (s.oper 12)
    when ((g.kind == 3 || g.kind == 4) && g.src != (s.view.region s.myRegion).src) (s.plain cBOUNDS)
    let u := s.view.gusset g.gus
    when ((g.kind == 5 || g.kind == 6) && (g.gus / 16 != dieOf s.n || (if g.kind = 5 then u.consR else u.prodR) != s.myRegion))
      (s.plain cBOUNDS)
    when (!s.muted && (s.view.takenB s.n b g || s.next.takenB s.n b g)) (s.oper 12)
    let t := match (s.bobbin b).bound with
      | some old => s.mod fun m => m.releaseB s.n b old
      | none => s
    pure (t.mod fun m => (if s.muted then m else m.claimB s.n b g).modBob s.n b fun k =>
      { k with bound := some g, usable := s.age + 10, pos := 0, eos := false, gap := false, seeks := [] })

/-- A guarded bobbin control slot (R77, R196). -/
def bslot (s : State) (m : Bool) (r : Except Exc State) : Out :=
  if m && !s.me.guard then issue s (pure s) else issue s r

/-- STREAM 3 of an unbound bobbin (R197, R200). -/
def State.chkBound (s : State) (b : Nat) : Except Exc Binding :=
  match (s.bobbin b).bound with
  | none => .error (exc cSTREAM (s.streamInfo (s.bobbin b).pos 3 b))
  | some g => .ok g

/-- R197: position and EOS for pops and pushes from c+2. -/
def execBseek (m : Bool) (n : BitVec 3) (b : SReg) (s : State) : Out :=
  bslot s m do
    s.chkS [b]
    let g ← s.chkBound n.toNat
    when (!(g.kind == 1 || g.kind == 2)) (s.oper 13)
    let p := (s.rs b).toNat
    pure (s.mod fun q => q.modBob s.n n.toNat fun k => { k with seeks := k.seeks ++ [(s.age + 2, p, decide (g.len ≤ p))] })

/-- R198: the position as of issue; 0 for an unbound bobbin. -/
def execBpos (m : Bool) (d : SReg) (n : BitVec 3) (s : State) : Out :=
  bslot s m (pure (s.putS d (match (s.bobbin n.toNat).bound with
    | none => 0
    | some _ => BitVec.ofNat 64 (s.bobbin n.toNat).pos) 2))

/-- The status word of R199. -/
def Bobbin.status (k : Bobbin) : Word :=
  match k.bound with
  | none => BitVec.ofNat 64 (bnat k.gap * 2 + bnat k.eos)
  | some g => BitVec.ofNat 64 (g.kind * 2 ^ 8 + bnat g.strict * 2 ^ 3 + 4 + bnat k.gap * 2 + bnat k.eos)

/-- R199: the status word. -/
def execBstat (m : Bool) (d : SReg) (n : BitVec 3) (s : State) : Out :=
  bslot s m (pure (s.putS d (s.bobbin n.toNat).status 2))

/-- R199: GST, which clears at c+2. -/
def execBstatGather (m : Bool) (d : SReg) (s : State) : Out :=
  bslot s m (pure ((s.putS d (BitVec.ofNat 64 (bnat s.me.gst)) 2).modMe fun c => { c with gstClr := c.gstClr ++ [s.age + 2] }))

/-- R200: clears EOS and GAP at c+1; on a gusset's consumer end removes at c+2 every entry visible then. -/
def execBflush (m : Bool) (n : BitVec 3) (s : State) : Out :=
  bslot s m do
    let g ← s.chkBound n.toNat
    let t := s.mod fun q => q.modBob s.n n.toNat fun k => { k with eos := false, gap := false }
    pure (if g.kind = 5 ∧ !s.muted
      then t.mod fun q => q.modGusset g.gus fun u => { u with flushes := u.flushes ++ [s.age + 2] } else t)

/-- R201: unbinds at c+1; STREAM 5 of a strict stream not at its end; nothing on an unbound bobbin. -/
def execBdone (m : Bool) (n : BitVec 3) (s : State) : Out :=
  bslot s m do
    let b := n.toNat
    match (s.bobbin b).bound with
    | none => pure s
    | some g => do
      when ((g.kind == 1 || g.kind == 2) && g.strict && decide ((s.bobbin b).pos < g.len))
        (exc cSTREAM (s.streamInfo (s.bobbin b).pos 5 b))
      pure (s.mod fun q => (q.releaseB s.n b g).modBob s.n b fun k => { k with bound := none, eos := false, gap := false, pos := 0, seeks := [] })

end Sys2Proof.Machine
end

