-- ==== Sys2Proof/Machine/Copies.lean ====
section
/-! DEFINITION. Class 9: engine addresses, translation, the paths and data phases of copies, stages, completion bits
(R243 to R263, R310 to R319). -/

namespace Sys2Proof.Machine

/-! ### engine addresses (R243, R244) -/

/-- The space of an engine address. -/
def spaceOf (a : Word) : Nat := fld a.toNat 60 4

/-- A bit that the space leaves unused is set (R243). -/
def strayBits (a : Word) : Bool :=
  let n := a.toNat
  match spaceOf a with
  | 0 | 5 => decide (fld n 57 3 ≠ 0)
  | 1 => decide (fld n 22 38 ≠ 0)
  | 2 => decide (fld n 18 42 ≠ 0)
  | 3 => decide (fld n 56 4 ≠ 0 ∨ fld n 22 28 ≠ 0)
  | 4 => decide (fld n 40 20 ≠ 0)
  | _ => true

/-- The address within its space, and the cluster that a space-1 or space-3 address names. -/
def offOf (a : Word) : Nat :=
  match spaceOf a with
  | 0 | 5 => fld a.toNat 0 57
  | 1 | 3 => fld a.toNat 0 22
  | 2 => fld a.toNat 0 18
  | _ => fld a.toNat 0 38

def clusterOf (n : Nat) (a : Word) : Nat := if spaceOf a = 3 then fld a.toNat 50 6 else clusOf n

/-- Checks on one address: OPER 19, then R244's BOUNDS. -/
def State.chkSpace (s : State) (accept : List Nat) (a : Word) : Except Exc Unit := do
  when (!accept.contains (spaceOf a) || strayBits a) (s.oper 19)
  when (decide (s.myRegion ≠ 0) && (spaceOf a == 0 || spaceOf a == 3 &&
    (!(s.view.region s.myRegion).mask.getLsbD (clusterOf s.n a) || clusterOf s.n a / 12 != dieOf s.n))) (exc cBOUNDS a)

/-- n bytes from an address end beyond the limit of its space (R243). -/
def overLimit (a : Word) (n : Nat) : Bool :=
  match spaceOf a with
  | 1 => decide (0x300000 < offOf a + n)
  | 2 => decide (0x40000 < offOf a + n)
  | 3 => decide (48 ≤ fld a.toNat 50 6 ∨ 0x300000 < offOf a + n)
  | 4 => decide (256000000000 < offOf a + n)
  | _ => false

/-- The address x bytes on: the sum is over bits [59:0] (R247). -/
def addAddr (a : Word) (x : Int) : Word :=
  BitVec.ofNat 64 (spaceOf a * 2 ^ 60 + ((fld a.toNat 0 60 + x) % (2 ^ 60 : Int)).toNat)

/-! ### translation (R310, R311, R317) -/

/-- The range entries of a die that are in use for a job, in order (R311). -/
def Mach.rangesOf (m : Mach) (die job : Nat) : List Nat :=
  (List.range 128).filterMap fun i =>
    let e := (rd m.pack.ranges (128 * die + i)).toNat
    if fldB e 255 ∧ fld e 192 8 = job then some e else none

/-- The first range entry of a die that matches: physical address, read and write permission (R310). -/
def Mach.rangeHit (m : Mach) (die job va : Nat) : Option (Nat × Bool × Bool) :=
  ((m.rangesOf die job).find? fun e => decide (fld e 0 57 ≤ va ∧ va ≤ fld e 64 57)).map fun e =>
    ((va + fld e 128 64) % 2 ^ 64, fldB e 254, fldB e 253)

/-- The physical address of a va for a task: by the translations that its preload made, else by the range entries (R317). -/
def Mach.xlate (m : Mach) (k : Nat) (uid : Option Nat) (job va : Nat) : Option Nat :=
  match (m.cl k).xlats.find? fun x => x.job == job && uid.any x.users.contains && decide (x.va ≤ va ∧ va < x.va + x.len) with
  | some x => some (x.pa + (va - x.va))
  | none => (m.rangeHit (k / 12) job va).map Prod.fst

/-- Where an engine address lies. -/
inductive Place where
  | dev (pa : Nat)
  | spad (k a : Nat)
  | tile (a : Nat)
  | none
deriving DecidableEq, Repr

/-- The place of an engine address for core n, working for a task. -/
def Mach.placeOf (m : Mach) (n : Nat) (uid : Option Nat) (job : Nat) (a : Word) : Place :=
  match spaceOf a with
  | 0 => match m.xlate (clusOf n) uid job (offOf a) with
    | some pa => .dev pa
    | none => .none
  | 1 => .spad (clusOf n) (offOf a)
  | 2 => .tile (offOf a)
  | 3 => .spad (fld a.toNat 50 6) (offOf a)
  | _ => .none

/-! ### paths (R250, R319) -/

/-- One end of an iteration: device memory with the controllers it touches, a scratchpad, or the core's tile store. -/
inductive End where
  | dev (ctrls : List Nat)
  | spad (k : Nat)
  | tile
deriving DecidableEq, Repr

/-- The page starts of n bytes from an address: where a translation may change. -/
def pageStarts (va n : Nat) : List Nat :=
  va :: ((List.range ((va + n - 1) / 4096 - va / 4096)).map fun i => 4096 * (va / 4096 + i + 1))

/-- The memory controller of a device physical address (R318). -/
def ctrlOf (pa : Nat) : Nat := pa / 65536 % 16

/-- The controllers that n bytes of space 0 touch. -/
def Mach.ctrls (m : Mach) (n : Nat) (uid : Option Nat) (job va len : Nat) : List Nat :=
  ((pageStarts va len).filterMap fun a => (m.xlate (clusOf n) uid job a).map ctrlOf).eraseDups

def Mach.endOf (m : Mach) (n : Nat) (uid : Option Nat) (job : Nat) (a : Word) (len : Nat) : End :=
  match spaceOf a with
  | 0 => .dev (m.ctrls n uid job (offOf a) len)
  | 2 => .tile
  | _ => .spad (clusterOf n a)

/-- The hop distance between two clusters by grid position (R9). -/
def hops (i j : Nat) : Nat :=
  let r (k : Nat) := k % 12 / 4
  let c (k : Nat) := k % 12 % 4
  (r i - r j) + (r j - r i) + ((c i - c j) + (c j - c i))

/-- The die-boundary wheels between two dies (R291, R319). -/
def boundaries (i j : Nat) : List Nat :=
  if i = j then []
  else if (i + 1) % 4 = j then [16 + i]
  else if (j + 1) % 4 = i then [16 + j]
  else
    let mid := min ((i + 1) % 4) ((i + 3) % 4)
    [16 + (if (i + 1) % 4 = mid then i else mid), 16 + (if (mid + 1) % 4 = j then mid else j)]

/-- The die boundaries that data crosses between dies i and j; between two ends on one die other than the issuing one, those from the issuing
die to it (log 184). -/
def crossed (die i j : Nat) : List Nat := if i = j then boundaries die i else boundaries i j

/-- The dies of an end, of a core on die `die`. -/
def End.dies (e : End) (die : Nat) : List Nat :=
  match e with
  | .dev cs => (cs.map (· / 4)).eraseDups
  | .spad j => [j / 12]
  | .tile => [die]

/-- Base, width and wheels of an iteration between two ends, issued by core n (R250, R319). One from a scratchpad of another cluster to that same
scratchpad takes the row of a scratchpad to the same scratchpad (log 172). -/
def pathOf (n : Nat) (src dst : End) : Nat × Nat × List Nat :=
  let k := clusOf n
  let die := k / 12
  let far (e : End) : Nat := match e with
    | .spad j => if j = k then 0 else hops k j
    | .dev _ | .tile => 0
  let h := if src = dst then far src else far src + far dst
  let dev (cs : List Nat) (base : Nat) : Nat × Nat × List Nat :=
    let away := cs.any fun c => c / 4 != die
    let ways := (src.dies die).flatMap fun i => (dst.dies die).flatMap fun j => crossed die i j
    (base + 2 * h + (if away then 64 else 0), 64, (cs ++ (if away then ways else [])).eraseDups)
  match src, dst with
  | .dev a, .dev b => dev (a ++ b) 440
  | .dev a, _ => dev a 240
  | _, .dev b => dev b 200
  | .tile, .tile => (4, 128, [])
  | .tile, .spad j | .spad j, .tile =>
    if j = k then (6, 128, [])
    else if j / 12 = die then (10 + 2 * h, 128, [])
    else (64 + 2 * h, 128, boundaries die (j / 12))
  | .spad i, .spad j =>
    if i / 12 ≠ die ∨ j / 12 ≠ die then
      (64 + 2 * h, 128, crossed die (i / 12) (j / 12))
    else if i = j then (6, 256, [])
    else (10 + 2 * h, 128, [])

/-! ### stages (R248) -/

/-- The stage microword has a stage. -/
def stCast (g : Nat) : Bool := g.testBit 0
def stQnt (g : Nat) : Bool := g.testBit 1
def stTrn (g : Nat) : Bool := g.testBit 2
def stDeq (g : Nat) : Bool := g.testBit 3
def stGth (g : Nat) : Bool := g.testBit 4
def stZero (g : Nat) : Bool := g.testBit 5
def stSum (g : Nat) : Bool := g.testBit 6

/-- The stages' added latency. -/
def stageLat (g : Nat) : Nat :=
  6 * bnat (stCast g) + 30 * bnat (stQnt g) + 24 * bnat (stTrn g) + 8 * bnat (stDeq g) + 12 * bnat (stGth g) + 4 * bnat (stSum g)

/-- Bytes out for bytes in. -/
def stageOut (g : Nat) (fmt : BitVec 22) (n : Nat) : Nat :=
  let a := if stDeq g then 3 * n else n
  let a := if stCast g then a * fmtWidth (fmtW fmt) / fmtWidth (fmtV fmt) else a
  let a := if stQnt g then a / 4 + a / 96 else a
  if stSum g then a + 32 else a

/-- A stage set that R248 refuses (OPER 23). -/
def stageBad (g : Nat) (fmt : BitVec 22) (n : Nat) (gather : Bool) : Bool :=
  let v := fmtV fmt
  let w := fmtW fmt
  let wide := if stCast g then fmtWidth w else if stDeq g then 2 else fmtWidth v
  let len := if stDeq g then 3 * n else if stCast g then n * fmtWidth w / fmtWidth v else n
  decide (128 ≤ g) || stGth g && !gather || stCast g && (stQnt g || stDeq g) || stQnt g && (stDeq g || stTrn g)
    || stZero g && (stCast g || stQnt g || stTrn g || stDeq g || gather)
    || stCast g && (v == 9 || w == 9 || decide (9 < v ∨ 9 < w))
    || stQnt g && (v != 0 || w != 3 && w != 4 || decide (n % 96 ≠ 0))
    || stDeq g && decide (n % 16 ≠ 0)
    || stTrn g && decide (len ≠ 576 * wide)

/-! ### wheels and data phases (R251, R252) -/

/-- The period of region 0 that holds a count. -/
def Mach.period0 (m : Mach) (c : Nat) : Nat := c / (m.region 0).cadl

/-- The owner byte of a slot of a wheel in the period of count t: a shadow map governs from the next hem (R291). -/
def Mach.slotOwner (m : Mach) (w t : Nat) : BitVec 8 :=
  let u := rd m.pack.wheels w
  let n := t / 8 % 256
  match u.shadow with
  | some sh => if m.period0 (m.region 0).count < m.period0 t then rd sh n else rd u.map n
  | none => rd u.map n

/-- Count t is the start of a slot of the wheel that the activity owns and that is not consumed or claimed. No slot serves the reserved
activities 61 to 63 (R292). -/
def Mach.slotFree (m : Mach) (w act t : Nat) (taken : List (Nat × Nat)) : Bool :=
  decide (act ≤ 60) && m.slotOwner w t == BitVec.ofNat 8 (128 + act) && !(rd m.pack.wheels w).used.contains (t / 8) && !taken.contains (w, t / 8)

/-- The first count from t, a slot start on all the wheels, within `fuel` slots. -/
def Mach.firstSlot (m : Mach) (ws : List Nat) (act t fuel : Nat) (taken : List (Nat × Nat)) : Option Nat :=
  match fuel with
  | 0 => none
  | k + 1 => if ws.all fun w => m.slotFree w act t taken then some t else m.firstSlot ws act (t + 8) k taken

/-- Slot starts from a count up to the hem of its period. -/
def slotsTo (t hem : Nat) : Nat := if hem < t then 0 else (hem - t) / 8 + 1

/-- Region 0's count less its age: wheels follow the count (R252), and data phases are placed by age. -/
def Mach.offset (m : Mach) : Int := (m.region 0).count - (m.region 0).age

/-- The count of the first slot that begins at age t or later, and the age at which a count comes. -/
def slotFrom (off : Int) (t : Nat) : Nat := (((t : Int) + off).toNat + 7) / 8 * 8
def ageOf (off : Int) (c : Nat) : Nat := ((c : Int) - off).toNat

/-- The data phases of a copy's iterations, in order: each iteration with its D, the claims made, and the iterations that find
no slot. `off` is region 0's count less the age; `hem` the hem of the period drawn on. -/
def Mach.schedule (m : Mach) (act : Nat) (off : Int) (hem first : Nat) (its : List Iter) (busy : Nat) (taken : List (Nat × Nat)) :
    List Iter × List (Nat × Nat) × Nat :=
  match its with
  | [] => ([], [], 0)
  | it :: rest =>
    let t := max (first + it.base) busy
    match it.wheels with
    | [] =>
      let (r, cl, n) := m.schedule act off hem first rest (t + it.beats) taken
      ({ it with d := t } :: r, cl, n)
    | ws =>
      let start := slotFrom off t
      match m.firstSlot ws act start (slotsTo start hem) taken with
      | none =>
        let (r, cl, n) := m.schedule act off hem first rest busy taken
        (r, cl, n + 1)
      | some c =>
        let mine := ws.map fun w => (w, c / 8)
        let (r, cl, n) := m.schedule act off hem first rest (ageOf off c + it.beats) (taken ++ mine)
        ({ it with d := ageOf off c, claimed := true } :: r, mine ++ cl, n)

/-- The slots that an iteration has claimed: wheel and slot number. -/
def Iter.slots (it : Iter) (off : Int) : List (Nat × Nat) :=
  if it.claimed then it.wheels.map fun w => (w, ((it.d : Int) + off).toNat / 8) else []

/-- Slots are consumed, or given back before they begin. -/
def Mach.claim (m : Mach) (cl : List (Nat × Nat)) : Mach :=
  cl.foldl (fun m (w, n) => m.modPack fun p => { p with wheels := up p.wheels w fun u => { u with used := u.used ++ [n] } }) m
def Mach.unclaim (m : Mach) (cl : List (Nat × Nat)) : Mach :=
  cl.foldl (fun m (w, n) => m.modPack fun p => { p with wheels := up p.wheels w fun u => { u with used := u.used.erase n } }) m

/-- An iteration takes its data phase at age t or later: on a wheeled path at the first slot that every wheel gives. It looks again later
if three turns of the wheels give none (R251, R319; log 149). -/
def Mach.reslot (m : Mach) (act : Nat) (it : Iter) (t : Nat) : Iter × Mach :=
  let off := m.offset
  let m := m.unclaim (it.slots off)
  if it.wheels.isEmpty then ({ it with d := t, claimed := false }, m)
  else
    let start := slotFrom off t
    match m.firstSlot it.wheels act start 768 [] with
    | some c =>
      let it := { it with d := ageOf off c, claimed := true }
      (it, m.claim (it.slots off))
    | none => ({ it with d := ageOf off (start + 6144), claimed := false }, m)

/-- The resource of a wheel in BUDGET's word (R240). -/
def resourceOf (w : Nat) : Nat := if w < 16 then 0 else if w < 20 then 1 else if w < 36 then 2 else if w = 36 then 3 else 4

/-- The wheel that lacks slots for the iterations, the least index first; the first wheel named where each alone would do. -/
def Mach.scarce (m : Mach) (act start hem : Nat) (its : List Iter) : Nat :=
  let ws := (its.flatMap Iter.wheels).eraseDups
  let left (w : Nat) := ((List.range (slotsTo start hem)).filter fun i => m.slotFree w act (start + 8 * i) []).length
  let need (w : Nat) := (its.filter fun i => i.wheels.contains w).length
  ((ws.find? fun w => decide (left w < need w)).getD (ws.headD 0))

/-! ### issuing copies (R247, R253 to R255, R258) -/

/-- The engine that the slot drives: 0 for the first class 9 slot of the bundle, 1 for the second (R86). -/
def State.engineNo (s : State) : Nat := min 1 (s.turn.words.filter fun w => wordClass w == 9).length

def State.engine (s : State) : Engine := rd s.myCore.eng s.engineNo
def State.uid (s : State) : Option Nat := s.me.task.map Task.uid
def State.job (s : State) : Nat := (s.me.task.map Task.job).getD 0

/-- The activity that the context's task gives the engine (R252, R393). -/
def State.act (s : State) : Nat := (s.me.task.map fun t => if s.engineNo = 0 then t.act0 else t.act1).getD 0

/-- The footprints of the context's task. -/
def State.fps (s : State) : List Footprint := (s.me.task.map Task.fps).getD []

/-- Bytes lo to hi of device virtual memory lie within one footprint of the direction (R253). -/
def State.inFoot (s : State) (write : Bool) (lo hi : Nat) : Bool :=
  s.fps.any fun f => f.write == write && decide (f.base ≤ lo ∧ hi < f.base + f.len)

/-- The first element for which a check fails. -/
def firstBad {α : Type} (xs : List α) (bad : α → Bool) (e : α → Exc) : Except Exc Unit :=
  match xs.find? bad with
  | some x => .error (e x)
  | none => .ok ()

/-- The lowest and highest space-0 offsets of addresses. -/
def extent0 (as : List Word) : Option (Nat × Nat) :=
  match (as.filter fun a => spaceOf a == 0).map offOf with
  | [] => none
  | x :: xs => some (xs.foldl min x, xs.foldl max x)

/-- FOOT of a side: its extent in space 0 is not within one footprint (R253). -/
def State.chkFoot (s : State) (write : Bool) (as : List Word) (n : Nat) : Except Exc Unit :=
  match extent0 as with
  | none => .ok ()
  | some (lo, hi) => when (!s.inFoot write lo (hi + n - 1)) (exc cFOOT (BitVec.ofNat 64 lo))

/-- What a copy checks of its sides (R253, R258): the sides named by `sides`, true for the source. -/
structure CopyReq where
  stg    : Nat
  gather : Bool
  /-- the source is checked -/
  chkSrc : Bool
  chkDst : Bool
  /-- cycles from issue to the earliest start, besides base and stages -/
  wait   : Nat
  odd    : Bool
deriving DecidableEq, Repr

/-- Checks 1 to 5 of R253, in order, over (source, destination) pairs of n source bytes each. -/
def State.chkCopy (s : State) (q : CopyReq) (its : List (Word × Word)) (n : Nat) : Except Exc Unit := do
  let srcs := if q.chkSrc && !stZero q.stg then its.map Prod.fst else []
  let dsts := if q.chkDst then its.map Prod.snd else []
  let out := stageOut q.stg s.me.fmt n
  let addrs := srcs ++ dsts
  match addrs.findSome? fun a => match s.chkSpace (if q.gather then [0, 1, 3] else [0, 1, 2, 3]) a with
    | .error e => some e
    | .ok _ => none with
  | some e => .error e
  | none => pure ()
  when (stageBad q.stg s.me.fmt n q.gather) (s.oper 23)
  firstBad srcs (fun a => overLimit a n) (exc cBOUNDS)
  firstBad dsts (fun a => overLimit a out) (exc cBOUNDS)
  firstBad addrs (fun a => decide (a.toNat % 32 ≠ 0)) (exc cALIGN)
  when (q.odd || decide (n % 32 ≠ 0)) (exc cALIGN (addrs.headD 0))
  s.chkFoot false srcs n
  s.chkFoot true dsts out

/-- Copies proper: not bmchk or bmset. -/
def CopyKind.isCopy (k : CopyKind) : Bool :=
  match k with
  | .plain | .gath | .scat => true
  | .bmchk _ _ _ | .bmset _ => false

/-- An iteration before it is scheduled. -/
def State.mkIter (s : State) (stg : Nat) (src dst : Word) (n : Nat) : Iter :=
  let out := stageOut stg s.me.fmt n
  let e1 := if stZero stg then .spad s.clus else s.view.endOf s.n s.uid s.job src n
  let e2 := s.view.endOf s.n s.uid s.job dst out
  let (base, width, wheels) := pathOf s.n e1 e2
  let b := max (if stZero stg then 0 else n) out
  { src := src, dst := dst, len := if stZero stg then 0 else n, base := base, width := width, wheels := wheels, d := 0,
    lead := base + stageLat stg - 2, out := out, beats := (b + width - 1) / width, claimed := false, got := [] }

/-- A follower's iterations run two cycles behind its lead's, and claim no slot (R389, R439). -/
def Mach.mirrored (m : Mach) (n serial : Nat) (its : List Iter) : List Iter :=
  match (m.core (n - 1)).copies.find? fun c => c.serial == serial with
  | some c => (its.zipIdx).map fun (it, i) =>
      match c.iters[c.iters.length - (its.length - i)]? with
      | some l => { it with d := l.d + 2, base := l.base, width := l.width, beats := l.beats, lead := l.lead }
      | none => it
  | none => its

/-- Checks 6 and 7 of R253, and the copy put on its engine. -/
def State.startCopy (s : State) (q : CopyReq) (its : List Iter) (c : Copy) : Except Exc State := do
  let e := s.engine
  let first := s.age + q.wait + stageLat q.stg
  let off := s.next.offset
  let start := ((first + (its.headD default).base : Nat) + off : Int).toNat
  let hem := (s.next.region 0).hemOf (s.next.period0 start)
  let serial := (s.next.core s.n).copySerial
  let (done, claims, short) :=
    if s.next.follows s.n then (s.next.mirrored s.n serial its, [], 0) else s.next.schedule s.act off hem first its e.busy []
  when (decide (0 < short)) (exc cBUDGET (BitVec.ofNat 64
    (s.act % 64 * 2 ^ 58 + resourceOf (s.next.scarce s.act ((start + 7) / 8 * 8) hem its) * 2 ^ 54 + short % 2 ^ 16)))
  when (decide (8 ≤ e.copies.length)) (s.oper 21)
  let c := { c with serial := serial, ctx := s.x, uid := s.uid, job := s.job, act := s.act, stg := q.stg, fmt := s.me.fmt, iters := done,
                    issued := s.age }
  let t := s.mod fun m => (m.claim claims).modCore s.n fun k => { k with copySerial := serial + 1 }
  pure ((t.mod fun m => m.modEng s.n s.engineNo fun e => { e with copies := e.copies ++ [c] }).modTurn
    fun u => { u with copied := if c.kind.isCopy then u.copied ++ [serial] else u.copied })

/-- A level of a copy sequencer entry: count and strides (R247). -/
structure Level where
  cnt : Nat
  src : Int
  dst : Int
deriving DecidableEq, Repr

/-- Level j of an entry. -/
def levelOf (e : Nat) (j : Nat) : Level :=
  { cnt := fld e (96 * j + 80) 16, src := (fldV e (96 * j + 40) 40).toInt, dst := (fldV e (96 * j) 40).toInt }

def levels (e : Nat) : List Level := (List.range 6).map (levelOf e)

/-- The offsets of the iterations, i0 fastest. -/
def offsets (ls : List Level) : List (Int × Int) :=
  match ls with
  | [] => [(0, 0)]
  | l :: rest => (offsets rest).flatMap fun (x, y) => (List.range l.cnt).map fun (i : Nat) => (x + (i : Int) * l.src, y + (i : Int) * l.dst)

/-- R254: OPER 22 of a sequencer entry; a LEN above R247's 65,536 counts as one of 0 does (log 173). -/
def entryBad (e : Nat) : Bool :=
  !fldB e 735 || decide (fld e 744 280 ≠ 0 ∨ fld e 721 14 ≠ 0) || (levels e).any (fun l => l.cnt == 0) ||
    fld e 704 17 == 0 || decide (65536 < fld e 704 17)

/-- R254: runs an entry of the active copy sequencer table. -/
def execCpy (i : BitVec 14) (s : State) : Out :=
  issue s do
    let ix := (s.imm i).toNat
    when (decide (255 < ix)) (s.oper 22)
    let e := (rd (s.myCore.planeOf 3).ctab ix).toNat
    when (entryBad e) (s.oper 22)
    let n := fld e 704 17
    let stg := fld e 736 8
    let sb := addAddr (fldV e 576 64) s.engine.csrc.toNat
    let db := addAddr (fldV e 640 64) s.engine.cdst.toNat
    let its := (offsets (levels e)).map fun (x, y) => (addAddr sb x, addAddr db y)
    let odd := decide (n % 32 ≠ 0) || (levels e).any fun l => decide (!stZero stg ∧ l.src % 32 ≠ 0 ∨ l.dst % 32 ≠ 0)
    let q := { stg := stg, gather := false, chkSrc := true, chkDst := true, wait := 0, odd := odd }
    s.chkCopy q its n
    s.startCopy q (its.map fun (x, y) => s.mkIter stg x y n) { (default : Copy) with kind := .plain }

/-- R246: an engine register takes a value for work issued from c+2. -/
def execCpyset (d : SReg) (i : BitVec 14) (s : State) : Out :=
  issue s do
    s.chkS [d]
    when (decide (4 < (s.imm i).toNat)) (s.oper 20)
    pure (s.mod fun m => m.modEng s.n s.engineNo fun e => { e with sets := e.sets ++
      [{ due := s.age + 2, ctx := s.x, reg := (s.imm i).toNat, val := s.rs d }] })

/-- R255: one iteration from s(a) to s(d). -/
def execCpyd (d a b : SReg) (s : State) : Out :=
  issue s do
    s.chkS [a, b, d]
    let v := (s.rs b).toNat
    when (decide (fld v 17 7 ≠ 0 ∨ fld v 32 32 ≠ 0)) (s.oper 7)
    let n := fld v 0 17
    when (decide (n = 0 ∨ 65536 < n)) (s.oper 20)
    let stg := fld v 24 8
    let q := { stg := stg, gather := false, chkSrc := true, chkDst := true, wait := 0, odd := false }
    s.chkCopy q [(s.rs a, s.rs d)] n
    s.startCopy q [s.mkIter stg (s.rs a) (s.rs d) n] { (default : Copy) with kind := .plain }

/-- The offsets that an element of the table side may touch (R259): the space, or the footprint that holds the base. -/
def State.tableLim (s : State) (write : Bool) (a : Word) : Nat × Nat :=
  if spaceOf a ≠ 0 then (0, 0x300000)
  else
    match s.fps.find? fun f => f.write == write && decide (f.base ≤ offOf a ∧ offOf a < f.base + f.len) with
    | some f => (f.base, f.base + f.len)
    | none => (1, 0)

/-- Gathers and scatters (R258, R259). -/
def gathScat (s : State) (scat : Bool) (d a b : SReg) : Out :=
  issue s do
    s.chkS [a, b, d]
    let w := s.engine.cdesc.toNat
    let n := fld w 40 16
    let esz := fld w 32 3
    let e := 2 ^ esz
    let add := scat && fldB w 57
    when (decide (n = 0 ∨ 3 < esz)) (s.oper 20)
    when (add && (decide (esz ≠ 2) || fmtV s.me.fmt != 0 && fmtV s.me.fmt != 7)) (s.oper 20)
    let list := s.rs b
    when (spaceOf list != 1 || strayBits list) (s.oper 19)
    when (decide (0x300000 < offOf list + 4 * n)) (exc cBOUNDS list)
    when (decide (offOf list % 4 ≠ 0)) (exc cALIGN list)
    let stg := fld w 24 8 ||| 16
    let table := if scat then s.rs d else s.rs a
    let q := { stg := stg, gather := true, chkSrc := scat, chkDst := !scat, wait := 4 + (n + 23) / 24, odd := false }
    s.chkSpace [0, 1, 3] table
    when (spaceOf table == 3 && decide (48 ≤ clusterOf s.n table)) (exc cBOUNDS table)
    s.chkCopy q [(s.rs a, s.rs d)] (n * e)
    -- the BUDGET check knows only the controller of the table base (R319)
    let tb := s.view.endOf s.n s.uid s.job table 1
    let (base, width, wheels) :=
      if scat then pathOf s.n (s.view.endOf s.n s.uid s.job (s.rs a) (n * e)) tb
      else pathOf s.n tb (s.view.endOf s.n s.uid s.job (s.rs d) (stageOut stg s.me.fmt (n * e)))
    let wheels := match tb with
      | .dev cs => cs
      | .spad _ | .tile => wheels
    let out := stageOut stg s.me.fmt (n * e)
    let it : Iter := { src := s.rs a, dst := s.rs d, len := n * e, base := base, width := width, wheels := wheels, d := 0,
                       lead := base + stageLat stg - 2, out := out, beats := (max (n * e) out + width - 1) / width, claimed := false, got := [] }
    s.startCopy q [it]
      { (default : Copy) with
        kind := if scat then .scat else .gath
        lim := s.tableLim scat table
        list := offOf list
        nidx := n
        esz := esz
        strict := fldB w 56
        add := add
        fill := s.engine.cfill }

/-- R258: elements of a table through an index list, to a contiguous destination. -/
def execGath (d a b : SReg) (s : State) : Out := gathScat s false d a b

/-- R258: a contiguous source through an index list, into a table. -/
def execScat (d a b : SReg) (s : State) : Out := gathScat s true d a b

/-! ### waiting for copies, armed ranges (R256, R260) -/

/-- The window closes of the context's sends that are still to come (R260). -/
def State.openWindows (s : State) : List Nat := (s.me.closes.map Prod.snd).filter fun t => decide ((s.view.region s.myRegion).count ≤ t)

/-- A of R331. -/
def scopeA (scope : Nat) : Nat := if scope ≤ 1 then 0 else if scope = 2 then 4 else 24

/-- R260: the next bundle issues at the later of c+1 and W + A; W is known once the work issued earlier has completed, and under SYSTEM
its windows have closed. -/
def execDrain (i : BitVec 14) (s : State) : Out :=
  issue s do
    let scope := (s.imm i).toNat
    when (decide (4 < scope)) (s.oper 20)
    pure (s.modTurn fun u => { u with next := some (.drain scope s.age (max (s.age + 1) (s.age + scopeA scope)) (if scope = 4 then s.openWindows else [])) })

/-- The bundle holds a copy (R256). -/
def State.copyInBundle (s : State) : Bool :=
  (bundleWords (fun a => s.view.fetch s.n s.x a) s.codeEnd s.turn.addr 8).any fun w =>
    wordClass w == 9 && [0, 2, 3, 4].contains (fld w.toNat 22 5)

/-- The copies by whose completions a range that the bundle arms disarms: those of the bundle, which may hold two (log 175), or else those that
the context had outstanding, of which the latest completion counts. -/
def State.armsOn (s : State) : List Nat :=
  if s.turn.copied.isEmpty then (s.myCore.copies.filter fun c => c.ctx == s.x && c.kind.isCopy).map Copy.serial else s.turn.copied

/-- R256: arms a range until the bundle's copies complete, or else the last of the context's. -/
def execCkarm (a b : SReg) (s : State) : Out :=
  issue s do
    s.chkS [a, b]
    let base := (s.rs a).toNat
    let n := (s.rs b).toNat
    when (decide (2 ^ 22 ≤ base)) (s.oper 7)
    when (decide (n = 0 ∨ 0x300000 < base + n)) (s.oper 20)
    let arms := s.copyInBundle || s.myCore.copies.any fun c => c.ctx == s.x && c.kind.isCopy
    when (arms && decide (8 ≤ s.me.armed.length + s.turn.arm.length)) (s.oper 25)
    pure (if arms then s.modTurn fun u => { u with arm := u.arm ++ [(base, n)] } else s)

/-! ### stages and completion bits (R261 to R263) -/

/-- A completion bit named by a register: byte address and bit; OPER 19, BOUNDS, FOOT (R261). Of a bmchk a space other than 0 is FOOT already
(R262). -/
def State.chkBit (s : State) (v : Word) (write : Bool) : Except Exc (Nat × Nat) := do
  when (decide (fld v.toNat 60 4 ≠ 0)) (s.oper 19)
  when (decide (s.myRegion ≠ 0)) (exc cBOUNDS v)
  let a := fld v.toNat 0 57
  when (!s.inFoot write a a) (exc cFOOT v)
  pure (a, fld v.toNat 57 3)

/-- R261: STLEN bytes moved in the background, and then a completion bit set. -/
def execStage (d a b : SReg) (s : State) : Out :=
  issue s do
    s.chkS [a, b, d]
    let src := s.rs a
    let dst := s.rs d
    let n := s.engine.stlen.toNat
    when (decide (s.myRegion ≠ 0)) (exc cBOUNDS src)
    let ok (x : Word) : Bool := [0, 4, 5].contains (spaceOf x) && !strayBits x
    when (!ok src || !ok dst || spaceOf src == spaceOf dst) (s.oper 19)
    when (decide (n = 0 ∨ n % 4096 ≠ 0)) (s.oper 20)
    firstBad [src, dst] (fun x => decide (x.toNat % 4096 ≠ 0)) (exc cALIGN)
    firstBad [src, dst] (fun x => spaceOf x == 4 && overLimit x n) (exc cBOUNDS)
    s.chkFoot false [src] n
    s.chkFoot true [dst] n
    let (ba, bit) ← s.chkBit (s.rs b) true
    when (!s.muted && decide (64 ≤ (s.next.cl s.clus).stages.length)) (s.oper 21)
    let dev := if spaceOf src = 0 then offOf src else offOf dst
    let g : Stage :=
      { serial := (s.next.cl s.clus).serial, src := src, dst := dst, len := n, done := 0,
        pas := (List.range (n / 4096)).map fun i => (s.view.xlate s.clus s.uid s.job (dev + 4096 * i)).getD 0,
        bitPa := (s.view.xlate s.clus s.uid s.job ba).getD 0, bit := bit, bad := none }
    let t := s.mod fun m => m.commitOut s.n s.x 10 dst.toNat (leBytes 8 src.toNat ++ leBytes 4 n)
    pure (if s.muted then t else t.modMyCl fun c => { c with serial := c.serial + 1, stages := c.stages ++ [g] })

/-- R262: k := the bit, or its inverse, read by a one-beat copy from device memory. -/
def execBmchk (c : Bool) (k : KReg) (a : SReg) (s : State) : Out :=
  issue s do
    s.chkS [a]
    when (spaceOf (s.rs a) != 0) (exc cFOOT (s.rs a))
    let (ad, bit) ← s.chkBit (s.rs a) false
    let (_, width, wheels) := pathOf s.n (s.view.endOf s.n s.uid s.job (BitVec.ofNat 64 ad) 1) (.spad s.clus)
    let it : Iter := { src := BitVec.ofNat 64 ad, dst := 0, len := 1, base := 240, width := width, wheels := wheels, d := 0, lead := 238,
                       out := 0, beats := 1, claimed := false, got := [] }
    s.startCopy { stg := 0, gather := false, chkSrc := true, chkDst := true, wait := 0, odd := false } [it]
      { (default : Copy) with kind := .bmchk k.toNat c bit }

/-- R263: the bit is set by an atomic OR at W + 24; W is known once the work issued earlier has completed. Its address is translated at
issue, by the translation that its task keeps (R317): it outlives the task where a kill spares it (R281). -/
def execBmset (a : SReg) (s : State) : Out :=
  issue s do
    s.chkS [a]
    let (ad, bit) ← s.chkBit (s.rs a) true
    when (decide (8 ≤ s.engine.copies.length)) (s.oper 21)
    let serial := (s.next.core s.n).copySerial
    let it : Iter := { (default : Iter) with
      src := BitVec.ofNat 64 ((s.view.xlate s.clus s.uid s.job ad).getD 0), dst := BitVec.ofNat 64 ad, d := s.age + 24 }
    let c := { (default : Copy) with serial := serial, kind := .bmset bit, ctx := s.x, uid := s.uid, job := s.job, act := s.act, iters := [it],
                                     issued := s.age }
    pure (s.mod fun m => (m.modCore s.n fun k => { k with copySerial := serial + 1 }).modEng s.n s.engineNo fun e =>
      { e with copies := e.copies ++ [c] })

end Sys2Proof.Machine
end

