-- ==== Sys2Proof/Machine/Issue.lean ====
section
/-! DEFINITION. Forming a bundle: fetching its slot words, the rules of R86 and R87, decoding each slot, and what closes the
bundle (R82 to R91, R301 to R303). -/

namespace Sys2Proof.Machine

/-! ### the form of a bundle (R86) -/

/-- The unit of a class (R86): 0 S, 1 B, 2 V, 3 M, 4 C, 5 N, 6 none. -/
def unitOf (c : Nat) : Nat :=
  if c = 0 ∨ c = 1 ∨ c = 3 then 0
  else if c = 2 ∨ c = 11 then 1
  else if 4 ≤ c ∧ c ≤ 7 then 2
  else if c = 8 then 3
  else if c = 9 ∨ c = 12 then 4
  else if c = 10 then 5
  else 6

/-- The most slots of a unit (R86). -/
def unitMax (u : Nat) : Nat := if u = 2 ∨ u = 4 then 2 else if u = 6 then 8 else 1

/-- The word is an RI slot (R91). -/
def isRI (w : BitVec 32) : Bool :=
  let f := fld w.toNat 22 5
  match wordClass w with
  | 1 => decide (f ≤ 10)
  | 2 => f == 8 || f == 16 || f == 19
  | 6 => f == 5
  | 9 => f == 0 || f == 1 || f == 5
  | 10 => f == 3
  | 11 => f == 0 || f == 1 || f == 5 || f == 8 || f == 9
  | 12 => f == 7 || f == 8
  | _ => false

/-- The class position of slot i: an EXT takes its consumer's (R85). -/
def classPos (ws : List (BitVec 32)) (i : Nat) : Nat :=
  let c := wordClass (ws.getD i 0)
  if c = 13 then wordClass (ws.getD (i + 1) 0) else c

/-- Slot i is one too many of its unit, or a second class 12 slot (R86). -/
def overUnit (ws : List (BitVec 32)) (i : Nat) : Bool :=
  let cs := (ws.take (i + 1)).map wordClass
  let u := unitOf (wordClass (ws.getD i 0))
  decide (unitMax u < (cs.filter fun c => unitOf c == u).length) ||
    wordClass (ws.getD i 0) == 12 && decide (1 < (cs.filter fun c => c == 12).length)

/-- The BUNDLE fault of a bundle: its place in the order of R88, subcause and slot. -/
def bundleFault (ws : List (BitVec 32)) : Option (Nat × Nat × Nat) :=
  let n := ws.length
  let ends := (ws.getLast?.map fun w => slotEnds w.toNat).getD false
  if !ends && decide (n < 8) then some (0, 5, n - 1)
  else if !ends then some (1, 4, 7)
  else
    match (List.range n).find? fun i => wordClass (ws.getD i 0) == 13 && !(decide (i + 1 < n) && isRI (ws.getD (i + 1) 0)) with
    | some i => some (2, 3, i)
    | none =>
      match (List.range n).find? fun i => decide (0 < i ∧ classPos ws i < classPos ws (i - 1)) with
      | some i => some (3, 1, i)
      | none => ((List.range n).find? fun i => overUnit ws i).map fun i => (4, 2, i)

/-! ### the slot being issued -/

/-- The words of the bundle under assembly, as the cycle fetches them. -/
def State.bundle (s : State) : List (BitVec 32) :=
  bundleWords (fun a => s.view.fetch s.n s.x a) s.codeEnd s.turn.addr 8

/-- The faults of a segment at the first slot of a bundle: ILLENC if it is malformed (R302); BOUNDS past a segment without a
successor, as a replay from its end finds it too, DEADLINE while the successor is still being expanded (R303). -/
def State.segFault (s : State) : Option Exc :=
  match s.me.segbuf with
  | none => none
  | some b =>
    match b.cur with
    | some g =>
      match g.bad with
      | some w => some (exc cILLENC (slotInfo w 8 0 0))
      | none => if s.turn.addr < 4 * g.words.length then none else some (exc cBOUNDS (BitVec.ofNat 64 s.turn.addr))
    | none => some (if b.ptr = 0xFFFF then exc cBOUNDS (BitVec.ofNat 64 s.turn.addr)
        else exc cDEADLINE (BitVec.ofNat 64 (0xFFFFFFFF * 2 ^ 32 + (b.due.getD s.age - s.age) % 2 ^ 32)))

/-- The slot word fetched: with the first slot come the faults of the bundle's form. -/
def State.fetchSlot (s : State) : State :=
  let w := s.view.fetch s.n s.x (s.turn.addr + 4 * s.turn.pos)
  let s := s.modTurn fun t => { t with word := w }
  if s.turn.pos ≠ 0 then s
  else
    match s.segFault with
    | some e => s.modTurn fun t => t.note 5 e
    | none =>
      match bundleFault s.bundle with
      | none => s
      | some (place, sub, slot) =>
        s.modTurn fun t => t.note place (exc cBUNDLE (slotInfo (s.bundle.getD slot 0) sub slot 0))

/-- The instructions of the slots already issued in the bundle. -/
def Turn.before (t : Turn) : List Instr := t.words.filterMap fun w => (decodeSlot w.toNat).toOption

/-- The slot decoded: ILLENC, then WINDOW, or its instruction (R87, R88, R72). Of a slot with several ILLENC subcauses, those of its own word come
before a conflict's, and of its own word those of `decodeSlot`'s order (log 90). -/
def State.decodeHere (s : State) : Except Exc Instr :=
  match decodeSlot s.turn.word.toNat with
  | .error sub => .error (exc cILLENC (s.info sub))
  | .ok i =>
    match conflict s.turn.before i with
    | some sub => .error (exc cILLENC (s.info sub))
    | none =>
      match windowFault s.me.vws i with
      | some p => .error (exc cWINDOW (slotInfo s.turn.word 0 s.turn.pos p))
      | none => .ok i

/-- The slot is the last of its bundle: E, the eighth, or the last of the plane or segment. -/
def State.lastSlot (s : State) : Bool := decide (s.bundle.length ≤ s.turn.pos + 1)

/-- On to the next slot; a payload lasts for the slot after its EXT (R85). -/
def State.nextSlot (s : State) : State :=
  s.modTurn fun t =>
    { t with pos := t.pos + 1, words := t.words ++ [t.word], ext := if wordClass t.word = 13 then t.ext else none }

end Sys2Proof.Machine
end

