-- ==== Sys2Proof/Machine/Spill.lean ====
section
/-! DEFINITION. Class 12: spills, fills, fill tokens, and the stack (R265 to R268). -/

namespace Sys2Proof.Machine

/-- BOUNDS, ALIGN, STACK of a transfer (R265). -/
def State.chkSpill (s : State) (ea : Word) (size align : Nat) : Except Exc Unit := do
  when (decide (0x300000 < ea.toNat + size)) (exc cBOUNDS ea)
  when (decide (ea.toNat % align ≠ 0)) (exc cALIGN ea)
  when (decide (ea.toNat < s.me.slim.toNat)) (exc cSTACK ea)

/-- The lowest free fill token (R266). -/
def Ctx.freeTok (c : Ctx) : Nat := ((List.range 16).find? fun i => !c.toks.any fun t => t.tok == i).getD 0

/-- A fill takes a token, held until its register is written at c+10 (R266). -/
def State.fill (s : State) (kind reg : Nat) (a : Nat → Access) : State :=
  let tok := s.me.freeTok
  (s.access 2 (a tok)).modMe fun c => { c with toks := c.toks ++ [{ tok := tok, due := s.age + 10, kind := kind, reg := reg }] }

/-- R265: writes 768 bytes at c+2; a poisoned register is written marked. -/
def execSpillv (d : VCode) (b : SReg) (o : BitVec 7) (s : State) : Out :=
  issue s do
    s.chkS [b]
    s.chkV [d] [] true
    let ea := effAddr (s.rs b) o 768
    s.chkSpill ea 768 256
    let bad := (rd s.myCore.v (s.me.phys d.toNat)).poison
    pure (s.access 2 (.vstore ea.toNat (s.vreg d.toNat) fullMask bad true))

/-- R265: reads 768 bytes at c+2, the register written at c+10. -/
def execFillv (d : VCode) (b : SReg) (o : BitVec 7) (s : State) : Out :=
  issue s do
    s.chkS [b]
    let ea := effAddr (s.rs b) o 768
    s.chkSpill ea 768 256
    s.chkArmed ea 768 2
    let p := s.me.phys d.toNat
    pure (s.fill 0 p fun tok => .fillV ea.toNat p tok 8)

/-- R265: writes 8 bytes at c+2; EARLY of the data register, but not POISON (R119). -/
def execSpills (d b : SReg) (o : BitVec 7) (s : State) : Out :=
  issue s do
    when ([b, d].any fun r => r != 0 && s.me.filling 1 r.toNat) (s.plain cEARLY)
    s.chkS [b]
    let ea := effAddr (s.rs b) o 8
    s.chkSpill ea 8 8
    let bad := d != 0 && (rd s.me.s d.toNat).poison
    pure (s.access 2 (.store ea.toNat 8 (s.rs d) bad true))

/-- R265: reads 8 bytes at c+2, the register written at c+10. -/
def execFills (d b : SReg) (o : BitVec 7) (s : State) : Out :=
  issue s do
    s.chkS [b]
    let ea := effAddr (s.rs b) o 8
    s.chkSpill ea 8 8
    s.chkArmed ea 8 2
    pure (s.fill 1 d.toNat fun tok => .fillS ea.toNat d.toNat tok 8)

/-- R265: writes the predicate and 8 zero bytes at c+2. -/
def execSpillp (d : PReg) (b : SReg) (o : BitVec 7) (s : State) : Out :=
  issue s do
    s.chkS [b]
    s.chkV [] [d] true
    let ea := effAddr (s.rs b) o 32
    s.chkSpill ea 32 32
    pure (s.access 2 (.spillP ea.toNat (s.rp d)))

/-- R265: reads the predicate from 24 bytes at c+2, written at c+10. -/
def execFillp (d : PReg) (b : SReg) (o : BitVec 7) (s : State) : Out :=
  issue s do
    s.chkS [b]
    let ea := effAddr (s.rs b) o 32
    s.chkSpill ea 32 32
    s.chkArmed ea 32 2
    let p := s.me.physP d.toNat
    pure (s.fill 2 p fun tok => .fillP ea.toNat p tok 8)

/-- A fill is outstanding to the register that tokchk names (R267). -/
def State.outstanding (s : State) (c : BitVec 2) (a : BitVec 7) : Bool :=
  match c.toNat with
  | 0 => decide (a.toNat < s.me.vws) && s.me.filling 0 (s.me.phys a.toNat)
  | 1 => s.me.filling 1 (a.toNat % 32)
  | 2 => s.me.filling 2 (s.me.physP (a.toNat % 16))
  | _ => !s.me.toks.isEmpty

/-- R267: k := 1 if no fill is outstanding to the register, or to any. -/
def execTokchk (c : BitVec 2) (k : KReg) (a : BitVec 7) (s : State) : Out :=
  issue s (pure (s.putK k (!s.outstanding c a) 2))

/-- R268: OPER 20 of a size. -/
def State.chkSize (s : State) (i : BitVec 14) : Except Exc Unit :=
  when ((s.imm i).msb || decide ((s.imm i).toNat % 256 ≠ 0)) (s.oper 20)

/-- R268: d := d - size; STACK below SLIM. -/
def execSalloc (d : SReg) (i : BitVec 14) (s : State) : Out :=
  issue s do
    s.chkS [d]
    s.chkSize i
    let n := s.rs d - s.imm i
    when (decide (n.toNat < s.me.slim.toNat)) (exc cSTACK n)
    pure (s.putS d n 2)

/-- R268: d := d + size. -/
def execSfree (d : SReg) (i : BitVec 14) (s : State) : Out :=
  issue s do
    s.chkS [d]
    s.chkSize i
    pure (s.putS d (s.rs d + s.imm i) 2)

end Sys2Proof.Machine
end

