-- ==== Sys2Proof/Machine/Net.lean ====
section
/-! DEFINITION. Class 10: timed sends, messages across boundaries, expectations, groups, the reduction step and digests
(R269 to R277, R337). -/

namespace Sys2Proof.Machine

/-- A number bits [hi-1:0] of which may be set: a higher bit is (R121, subcause 7). -/
def above (v : Word) (hi : Nat) : Bool := decide (2 ^ hi ≤ v.toNat)

/-- Hop distance between two cores' clusters (R9, R35). -/
def coreHops (a b : Nat) : Nat := hops (clusOf a) (clusOf b)

/-- R269: the vector is read at issue and reaches the destination's channel at c + 3 + 2h; a vector popped from the scratchpad
starts its way P cycles later (log 30). -/
def execSend (c : BitVec 3) (a : VCode) (b : SReg) (s : State) : Out :=
  issue s do
    s.chkS [b]
    s.chkV [a] [] false
    let (e, mems, p) ← s.readAll [(1, a)] (s.env false 0 0)
    let v := s.rs b
    when (above v 9) (s.oper 7)
    let dst := v.toNat
    when (decide (383 < dst) || dieOf dst != dieOf s.n || !(s.view.region s.myRegion).mask.getLsbD (clusOf dst)) (exc cBOUNDS v)
    pure ((s.popAll [a]).produce (.send c a b) e mems (3 + 2 * coreHops s.n dst + p) [.send dst c.toNat])

/-- R270: d := the channel, at c+4; the arrival counts as received. -/
def execRecv (d : VCode) (c : BitVec 3) (s : State) : Out :=
  issue s do
    let ds ← s.writeV d
    let ch := match s.next.leadRead s.n (recvKey c.toNat) with
      | some (bs, _) => { (rd s.myCore.chan c.toNat) with val := BitVec.ofNat 6144 (ofBytes bs) }
      | none => rd s.myCore.chan c.toNat
    let t := ((s.pushB d).mod fun m => (m.noteRead s.n (recvKey c.toNat) (leBytes 768 ch.val.toNat) false).tookRead s.n (recvKey c.toNat)).modMyCore fun k => { k with chan := up k.chan c.toNat fun h => { h with new := false } }
    pure (t.mod fun m => m.deliver s.n s.x s.uid s.ord s.age 4 (s.env false 0 0) (outV ch.val) false ds)

/-! ### groups (R271) -/

/-- BOUNDS of a core outside region 0 (R337). -/
def State.chkRegion0 (s : State) : Except Exc Unit := when (decide (s.myRegion ≠ 0)) (s.plain cBOUNDS)

/-- The count of region 0 in the issue cycle. -/
def State.count0 (s : State) : Nat := (s.view.region 0).count

/-- An entry of a member table (R271): reserved bits, package, core. -/
def memberBad (e : Nat) : Bool := decide (fld e 21 11 ≠ 0 ∨ 383 < fld e 0 9)
def memberOf (e : Nat) : Nat × Nat := (fld e 9 12, fld e 0 9)

/-- The entries of a member table. -/
def Memory.members (m : Memory) (a n : Nat) : List Nat := (List.range n).map fun i => m.nat (a + 4 * i) 4

def Cluster.group (c : Cluster) (g : BitVec 12) : Option Group := c.groups.find? fun x => x.id == g

/-- R271: binds a group; the members are taken at c+2, and it serves from c+16. -/
def execGbind (a b : SReg) (s : State) : Out :=
  issue s do
    s.chkS [a, b]
    s.chkRegion0
    let v := (s.rs a).toNat
    when (decide (fld v 18 2 ≠ 0 ∨ fld v 28 36 ≠ 0)) (s.oper 7)
    let g : BitVec 12 := fldV v 0 12
    let n := fld v 20 8
    let ad := fld (s.rs b).toNat 0 22
    let c := s.next.cl s.clus
    when (!s.muted && decide (64 ≤ c.groups.length) && (c.group g).isNone) (s.oper 24)
    when (decide (n = 0 ∨ 64 < n) || decide (ad % 8 ≠ 0 ∨ 0x300000 < ad + 4 * n) || (s.myCl.spad.members ad n).any memberBad)
      (s.oper 24)
    match (if s.muted then none else c.group g) with
    | some x => .error (exc cGROUP (BitVec.ofNat 64 (bnat x.draining * 2 ^ 12 + g.toNat)))
    | none =>
      let t := if s.muted then s else s.modMyCl fun c => { c with groups := c.groups ++ [{ (default : Group) with
        id := g, cls := fld v 12 3, route := fld v 15 3, usable := s.age + 16 }] }
      pure (if s.muted then s else t.access 2 (.members ad n g.toNat (fld v 12 3) (fld v 15 3)))

/-- R271: sending ends at once, and draining begins; nothing for a group unbound or draining. -/
def execGfree (a : SReg) (s : State) : Out :=
  issue s do
    s.chkS [a]
    let g : BitVec 12 := fldV (s.rs a).toNat 0 12
    let now := s.count0
    pure (if s.muted then s else s.modMyCl fun c => { c with groups := c.groups.map fun x =>
      if x.id = g ∧ !x.draining then { x with draining := true, last := max x.last now } else x })

/-- The binding that serves a send of the cycle (R271): OPER 24 if there is none. -/
def State.chkGroup (s : State) (g : BitVec 12) : Except Exc Group :=
  match s.myCl.group g with
  | none => .error (s.oper 24)
  | some x => if x.draining || decide (s.age < x.usable) then .error (s.oper 24) else .ok x

/-- A counter of a binding by core. -/
def seqOf (l : List (Nat × Nat)) (n : Nat) : Nat := ((l.find? fun q => q.1 == n).map Prod.snd).getD 0
def setSeq (l : List (Nat × Nat)) (n v : Nat) : List (Nat × Nat) := (l.filter fun q => q.1 != n) ++ [(n, v)]

/-- A message starts: its number is taken, its payload reads are scheduled, its close is noted (R272, R276). -/
def State.launch (s : State) (o : Outgoing) (addr : Nat) : State :=
  let c := s.next.cl s.clus
  let g := ((c.group o.group).getD default)
  let seq := seqOf (if o.dig then g.dseqs else g.seqs) s.n
  let o := { o with serial := c.serial, core := s.n, ctx := s.x, seq := seq, at_ := s.age, rate := rd s.view.pack.crate g.route, mute := s.muted }
  let t := s.modMyCl fun c => { c with
    serial := c.serial + 1
    out := c.out ++ [o]
    groups := c.groups.map fun x =>
      if x.id ≠ o.group ∨ s.muted then x
      else if o.dig then { x with dseqs := setSeq x.dseqs s.n ((seq + 1) % 65536), last := max x.last o.close }
      else { x with seqs := setSeq x.seqs s.n ((seq + 1) % 65536), last := max x.last o.close } }
  let t := t.modMe fun k => { k with closes := k.closes ++ [(s.age, o.close)], sent := if s.muted then k.sent else k.sent ++ [(o.dig, o.group.toNat)] }
  (List.range ((o.len + 255) / 256)).foldl (fun t j =>
    t.access (2 + j) (.payload (addr + 256 * j) (min 256 (o.len - 256 * j)) o.serial)) t

/-- The common part of fsend and mcast (R272). -/
def sendMsg (s : State) (one : Bool) (a b : SReg) : Out :=
  issue s do
    s.chkS [a, b]
    s.chkRegion0
    let v := (s.rs a).toNat
    let w := (s.rs b).toNat
    let n := fld v 32 13
    when (!one && decide (fld w 12 21 ≠ 0)) (s.oper 7)
    when (decide (n = 0 ∨ 4096 < n ∨ fld w 33 24 = 0)) (s.oper 20)
    let g ← s.chkGroup (fldV w 0 12)
    let dest := (fld w 12 12, fld w 24 9)
    when (one && !g.members.contains dest) (s.oper 24)
    let ad := fld v 0 22
    when (decide (0x300000 < ad + n)) (exc cBOUNDS (BitVec.ofNat 64 ad))
    when (decide (ad % 32 ≠ 0)) (exc cALIGN (BitVec.ofNat 64 ad))
    pure (s.launch { (default : Outgoing) with
      group := g.id, close := s.count0 + fld w 33 24, len := n, dest := if one then some dest else none } ad)

/-- R272: a message to one member. -/
def execFsend (a b : SReg) (s : State) : Out := sendMsg s true a b

/-- R272: a message to every member but the sender. -/
def execMcast (a b : SReg) (s : State) : Out := sendMsg s false a b

/-- R276: the CRC-64 of n vectors, in d at c + 4 + 3n and in a message to every member. -/
def execDigest (d a b : SReg) (s : State) : Out :=
  issue s do
    s.chkS [a, b]
    s.chkRegion0
    let v := s.rs a
    let w := (s.rs b).toNat
    let n := fld w 12 12
    when (above v 22 || decide (fld w 48 16 ≠ 0)) (s.oper 7)
    when (decide (n = 0 ∨ fld w 24 24 ≤ 4 + 3 * n)) (s.oper 20)
    let g ← s.chkGroup (fldV w 0 12)
    when (decide (0x300000 < v.toNat + 768 * n)) (exc cBOUNDS v)
    when (decide (v.toNat % 256 ≠ 0)) (exc cALIGN v)
    pure (s.launch { (default : Outgoing) with
      group := g.id, dig := true, close := s.count0 + fld w 24 24, len := 768 * n, reg := d.toNat, land := s.age + 4 + 3 * n } v.toNat)

/-! ### receiving (R273, R274) -/

/-- R273: the pending count of a class grows at c+2; posts of the cluster not yet in force count against the limit (log 31). -/
def execExpect (d : SReg) (i : BitVec 14) (s : State) : Out :=
  issue s do
    s.chkS [d]
    when (above (s.rs d) 3) (s.oper 7)
    let n := (s.imm i).toNat
    when (decide (1023 < n)) (s.oper 20)
    let cls := (s.rs d).toNat
    let c := s.next.cl s.clus
    let pend := rd c.cpend cls + ((c.posts.filter fun p => p.cls == cls && decide (s.age < p.due)).map ExpPost.count).sum
    when (!s.muted && decide (1023 < pend + n)) (exc cEXPOVF (BitVec.ofNat 64 (cls * 2 ^ 20 + n * 2 ^ 10 + pend)))
    pure (if s.muted then s else s.modMyCl fun c => { c with posts := c.posts ++ [{ due := s.age + 2, cls := cls, count := n, core := s.n, ctx := s.x }] })

/-- The status word of R274. -/
def Delivered.status (m : Delivered) : Word :=
  BitVec.ofNat 64 (bnat m.lost * 2 ^ 62 + m.seq % 65536 * 2 ^ 32 + m.group.toNat * 2 ^ 16 + m.len)

/-- What FRECV takes of a class: the status word, the bytes, and whether the message is lost; a follower takes what its lead took. -/
def State.received (s : State) (cls : Nat) : Option (Word × List Byte × Bool) :=
  match s.next.leadRead s.n frecvKey with
  | some (bs, lost) =>
    let st : Word := BitVec.ofNat 64 (ofBytes (bs.take 8))
    if st.msb then none else some (st, bs.drop 8, lost)
  | none =>
    match rd (s.next.cl s.clus).queues cls with
    | [] => none
    | m :: _ => some (m.status, m.data, m.lost)

/-- R274: takes the oldest closed message of a class. -/
def execFrecv (d a b : SReg) (s : State) : Out :=
  issue s do
    s.chkS [a, b]
    when (above (s.rs b) 3 || above (s.rs a) 22) (s.oper 7)
    when (decide ((s.rs a).toNat % 32 ≠ 0)) (exc cALIGN (s.rs a))
    let cls := (s.rs b).toNat
    match s.received cls with
    | none => pure ((s.mod fun m => (m.noteRead s.n frecvKey (leBytes 8 (2 ^ 63)) false).tookRead s.n frecvKey).putS d (BitVec.ofNat 64 (2 ^ 63)) 4)
    | some (st, data, lost) => do
      let ad := (s.rs a).toNat
      when (decide (0x300000 < ad + data.length)) (exc cBOUNDS (s.rs a))
      let t := if s.muted then s else s.modMyCl fun c => { c with queues := wr c.queues cls (rd c.queues cls).tail }
      let t := t.mod fun m => (m.noteRead s.n frecvKey (leBytes 8 st.toNat ++ data) lost).tookRead s.n frecvKey
      let t := (List.range ((data.length + 255) / 256)).foldl (fun t j =>
        t.access (2 + j) (.bytes (ad + 256 * j) ((data.drop (256 * j)).take 256) lost)) t
      pure (t.putS d st 4)

/-- R277: a cluster counter. -/
def Cluster.counter (c : Cluster) (sel : Nat) : Nat :=
  if sel < 8 then rd c.cpend sel else (rd c.cnt (sel - 8)).toNat

/-- R277: d := the counter, at c+2. -/
def execNstat (d : SReg) (sel : BitVec 5) (s : State) : Out :=
  issue s do
    when (decide (12 < sel.toNat)) (s.oper 11)
    pure (s.putS d (BitVec.ofNat 64 (s.myCl.counter sel.toNat)) 2)

/-! ### red (R275) -/

/-- R275: the fixed reduction step, d and d+1 readable from c+18. -/
def execRed (m : Bool) (d a b : VCode) (s : State) : Out :=
  let e := { s.env m 0 0 with c := s.vreg (a.toNat + 1), cd := s.vreg (d.toNat + 1) }
  vslot s (.red m d a b) m [(0, d), (1, a), (2, b)] [a + 1, d + 1] [] [] e (some d) [.v (s.me.phys (d.toNat + 1))] 18

end Sys2Proof.Machine
end

