-- ==== Sys2Proof/Machine/Matrix.lean ====
section
/-! DEFINITION. Class 8 slots, the tile store's layout, and the micro-operations of the matrix unit (R205 to R234). -/

namespace Sys2Proof.Machine

/-! ### shapes (R206 to R209) -/

def shFmt (s : Word) : Nat := fld s.toNat 48 4
def shRows (s : Word) : Nat := fld s.toNat 36 12
def shCols (s : Word) : Nat := fld s.toNat 24 12
def shSbase (s : Word) : Nat := fld s.toNat 8 8
def shBase (s : Word) : Nat := fld s.toNat 0 8

/-- The row bytes of a shape (R207). -/
def rowBytes (s : Word) : Nat := if shFmt s = 9 then shCols s / 24 * 16 else shCols s * fmtWidth (shFmt s)

def pitch (s : Word) : Nat := (rowBytes s + 31) / 32 * 32

/-- First byte of row r, and of scale row r (R207, R208). -/
def rowAt (s : Word) (r : Nat) : Nat := shBase s * 1024 + r * pitch s
def scaleAt (s : Word) (r : Nat) : Nat := shSbase s * 1024 + r * 64

/-- The shape is one that mtsh accepts (R209). -/
def shapeOk (s : Word) : Bool :=
  shRows s == 0 ||
    decide (fld s.toNat 52 12 = 0 ∧ fld s.toNat 16 8 = 0 ∧ shFmt s ≤ 9 ∧ 1 ≤ shCols s ∧ rowBytes s ≤ 768 ∧
      (shFmt s = 9 → shCols s % 24 = 0) ∧ shBase s * 1024 + shRows s * pitch s ≤ 262144 ∧
      shSbase s * 1024 + shRows s * 64 ≤ 262144)

/-- Element e of row r, as bits. -/
def tileElt (t : Memory) (s : Word) (r e : Nat) : Nat := t.nat (rowAt s r + e * fmtWidth (shFmt s)) (fmtWidth (shFmt s))

/-! ### class 8 slots (R211 to R216, R233, R234) -/

def State.shape (s : State) (t : BitVec 4) : Word := rd s.myCore.shapes t.toNat

/-- The word that a shape register holds of s(a): its reserved bits read 0 (R4, R206). -/
def shapeWord (w : Word) : Word := w &&& 0x000FFFFFFF00FFFF

/-- A value of mtsh or mpar takes its place from c+2. -/
def State.setLater (s : State) (shape : Bool) (reg : Nat) (v : Word) : State :=
  s.modMyCore fun c => { c with sets := c.sets ++ [{ due := s.age + 2, ctx := s.x, shape := shape, reg := reg, val := v }] }

/-- R212: shape(t) := s(a) for MCALLs and slots from c+2. -/
def execMtsh (t : BitVec 4) (a : SReg) (s : State) : Out :=
  issue s do
    s.chkS [a]
    when (!shapeOk (s.rs a)) (s.oper 15)
    pure (s.setLater true t.toNat (shapeWord (s.rs a)))

/-- R212: d := shape(t). -/
def execMfsh (d : SReg) (t : BitVec 4) (s : State) : Out := issue s (pure (s.putS d (s.shape t) 2))

/-- R212: m(n) := s(a)[31:0]. -/
def execMpar (m : BitVec 3) (a : SReg) (s : State) : Out :=
  issue s do
    s.chkS [a]
    pure (s.setLater false m.toNat (s.rs a))

/-- R212: d := m(n), zero-extended. -/
def execMfpar (d : SReg) (m : BitVec 3) (s : State) : Out := issue s (pure (s.putS d ((rd s.myCore.m m.toNat).setWidth 64) 2))

/-- OPER 16: the tile is unset, or the row index is at or beyond ROWS (R213). -/
def State.chkRow (s : State) (t : BitVec 4) (r : Word) : Except Exc Unit := when (decide (shRows (s.shape t) ≤ r.toNat)) (s.oper 16)

/-- The bytes a row move touches: address and length (R213). -/
def rowSpan (sh : Word) (scale : Bool) (r : Nat) : Nat × Nat := if scale then (scaleAt sh r, 36) else (rowAt sh r, rowBytes sh)

/-- R213: a row, or a scale row, is written from a vector at c + 2 + P. -/
def execMldv (x : Bool) (t : BitVec 4) (a : VCode) (b : SReg) (s : State) : Out :=
  issue s do
    s.chkS [b]
    s.chkV [a] [] false
    let (e, mems, p) ← s.readAll [(1, a)] (s.env false 0 0)
    s.chkRow t (s.rs b)
    let (ad, n) := rowSpan (s.shape t) x (s.rs b).toNat
    pure ((s.popAll [a]).produce (.mldv x t a b) e mems (2 + p) [.tile ad n])

/-- R213: a row, or a scale row, is read at c+2, and d receives it at c+4 or is pushed. -/
def execMstv (x : Bool) (d : VCode) (t : BitVec 4) (b : SReg) (s : State) : Out :=
  issue s do
    s.chkS [b]
    let ds ← s.writeV d
    s.chkRow t (s.rs b)
    let (ad, n) := rowSpan (s.shape t) x (s.rs b).toNat
    let u := s.pushB d
    let accs : List TilePending := ds.map fun q => { ctx := s.x, ord := s.ord, due := s.age + 2, acc := .get ad n q 2 }
    pure (u.mod fun m => { m with tile := up m.tile s.n fun l => l ++ accs })

/-- R213: every data byte of the tile is zero from c+2. -/
def execMzero (t : BitVec 4) (s : State) : Out :=
  issue s do
    when (decide (shRows (s.shape t) = 0)) (s.oper 16)
    let sh := s.shape t
    let rs := (List.range (shRows sh)).map fun r => (rowAt sh r, rowBytes sh)
    pure (s.mod fun m => { m with tile := up m.tile s.n fun l => l ++ [{ ctx := s.x, ord := s.ord, due := s.age + 2, acc := .zero rs }] })

/-- Word 0 of MXSTATE (R233). -/
def Matrix.word0 (x : Matrix) : Word :=
  BitVec.ofNat 64 (x.cause * 2 ^ 60 + x.rout * 2 ^ 50 + x.xdone % 2 ^ 16 * 2 ^ 32 + x.stepa % 2 ^ 13 * 2 ^ 19 + x.upc % 2 ^ 13 * 2 ^ 6 +
    x.state)

/-- The state as a slot of a cycle sees it: UPC names the microword that executes in the cycle, one that begins in it included. -/
def Matrix.seen (x : Matrix) (a : Nat) : Matrix :=
  if x.state = 1 ∧ x.nextAt ≤ a ∧ x.npc ≤ 8191 then { x with upc := x.npc } else x

/-- A pair of working parameters. -/
def wPair (w : SMap (BitVec 32)) (i : Nat) : Word := rd w (2 * i + 1) ++ rd w (2 * i)

/-- R233: d := a word of the routine's state. -/
def execMstat (d : SReg) (sel : BitVec 5) (s : State) : Out :=
  issue s do
    let k := sel.toNat
    when (decide (16 < k)) (s.oper 11)
    let x := s.myCore.mx
    pure (s.putS d (if k = 0 then (x.seen s.age).word0 else if k ≤ 8 then wPair x.w (k - 1) else wPair x.wsnap (k - 9)) 2)

/-- The pairs of FMT.A and FMT.B that a PATH admits (R215). -/
def pathAdmits (p a b : Nat) : Bool :=
  match p with
  | 0 => true
  | 1 => (a == 3 || a == 4) && (b == 3 || b == 4)
  | 2 => a == 1 && b == 1
  | 3 => a == 9 && b == 1 || a == 1 && b == 9
  | _ => (a == 5 || a == 8) && (b == 5 || b == 8)

/-- The working parameters at an MCALL (R216). -/
def paramsOf (m : SMap (BitVec 32)) : SMap (BitVec 32) := SMap.tab 16 fun i => if i < 8 then rd m i else 0

/-- R216: starts a routine of the active plane; its first microword occupies c+4. UPC, which R233 gives a routine that executes or has stopped, is its
START until then (log 170). -/
def execMcall (i : BitVec 10) (s : State) : Out :=
  issue s do
    let c := s.myCore
    when (c.mx.state == 1) (s.plain cMBUSY)
    let e := (rd (c.planeOf 1).rout i.toNat).toNat
    let p := fld e 17 3
    when (!fldB e 16 || decide (5 ≤ p ∨ fld e 20 12 ≠ 0 ∨ fld e 13 3 ≠ 0)) (s.oper 14)
    when (!pathAdmits p (fmtA s.me.fmt) (fmtB s.me.fmt)) (s.oper 10)
    pure (s.mod fun m => m.modMx s.n fun x =>
      { (default : Matrix) with
        state := 1
        rout := i.toNat
        stepa := fld e 0 13
        upc := fld e 0 13
        npc := fld e 0 13
        w := paramsOf c.m
        wsnap := paramsOf c.m
        fmt := s.me.fmt
        shapes := c.shapes
        plane := bnat (c.active.getLsbD 1)
        path := p
        ctx := s.x
        vwb := s.me.vwb
        vws := s.me.vws
        owner := s.x
        ownerUid := s.uid
        nextAt := s.age + 4
        called := s.age
        mres := x.mres })

/-- R234: restarts a held routine from its restart point. -/
def execMresume (s : State) : Out :=
  issue s do
    let x := s.myCore.mx
    when (x.state == 1) (s.plain cMBUSY)
    when (x.state != 2 || x.plane != bnat (s.myCore.active.getLsbD 1)) (s.oper 17)
    pure (s.mod fun m => m.modMx s.n fun x =>
      { x with
        state := 1, cause := 0, w := x.wsnap, supp := x.xdone, xdone := 0, npc := x.stepa, nextAt := s.age + 4
        called := s.age
        owner := s.x
        ownerUid := s.uid })

/-! ### the beginning of a micro-operation (R218 to R230) -/

/-- The matrix unit of the core whose microword begins. -/
def State.mx (s : State) : Matrix := (s.next.core s.n).mx

/-- The task that a unit's context held still holds it (R232). -/
def Mach.sameTask (m : Mach) (n x : Nat) (uid : Option Nat) : Bool := ((m.ctx n x).task.map Task.uid) == uid && uid.isSome

/-- A fault of the cycle: core, context, cause and word, whether a bundle raised it. -/
abbrev Charge := Nat × Nat × Exc × Bool

/-- Engine work that stopped: core, 0 the matrix unit or 1 + e for engine e, copy. -/
abbrev Stopped := Nat × Nat × Nat

/-- The fault of a routine that has stopped (R232). -/
def Matrix.fault (x : Matrix) : Exc := exc (if x.cause = 1 then cPOISON else cOPER) x.word0

/-- A lead notes how its routine stopped, so that the same stop of its follower, two cycles later, is charged no second time (R389). -/
def Mach.noteStop (m : Mach) (n : Nat) : Mach := m.noteRead n routineKey (leBytes 8 (m.core n).mx.word0.toNat) false

/-- A routine stops in core n (R230 to R232): its unit is HELD after poison, else IDLE; the fault is charged to its owner, or posted if
the owner's task has ended. A follower's stop that its lead met alike is charged once, to the lead (R389). -/
def Mach.stopMx (m arch : Mach) (n cause : Nat) : Mach × List Charge × List Stopped :=
  let m := m.modMx n fun x => { x with state := if cause = 1 then 2 else 0, cause := cause, op := none }
  let x := (m.core n).mx
  let e := x.fault
  if (m.leadRead n routineKey).any fun q => q.1 == leBytes 8 x.word0.toNat then (m.tookRead n routineKey, [], [])
  else if arch.sameTask n x.owner x.ownerUid then (m.noteStop n, [(n, x.owner, e, false)], [(n, 0, 0)])
  else ((m.noteStop n).postCtx n x.owner e.cause e.info, [], [])

/-- A routine stops at the beginning of a microword. -/
def State.stopRoutine (s : State) (n cause : Nat) : State :=
  let (m, fs, ss) := s.next.stopMx s.arch n cause
  (s.mod fun _ => m).modTurn fun u => { u with faults := u.faults ++ fs, stops := u.stops ++ ss }

/-- A micro-operation begins: the routine stops with the first CAUSE that it meets, or the operation occupies the unit for its
cycles. -/
def micro (s : State) (op : Instr) (x takes : Nat) (bad : Option Nat) (f : Matrix → Matrix) : Out :=
  match bad with
  | some cause => .next (s.stopRoutine s.n cause)
  | none => .next (s.mod fun m => m.modMx s.n fun u =>
      f { u with op := some op, x := x, began := s.age, takes := takes, nextAt := s.age + takes })

/-- The operand X (R219). -/
def State.opX (s : State) (mode : BitVec 2) (wn : BitVec 4) (imm : BitVec 40) : Nat :=
  let w := (rd s.mx.w wn.toNat).toNat
  match mode.toNat with
  | 0 => imm.toNat
  | 1 => w
  | _ => (imm.toNat + w) % 2 ^ 40

def State.mxShape (s : State) (t : BitVec 4) : Word := rd s.mx.shapes t.toNat

/-- The first cause among those that hold. -/
def firstCause (cs : List (Bool × Nat)) : Option Nat := (cs.find? Prod.fst).map Prod.snd

/-- The shape checks of a product step (R221): `dense` MMAC, else MMACS when `tm` names its index tile. -/
def productShapes (x : Nat) (fmt : BitVec 22) (path : Nat) (a b c : Word) (tm : Option Word) (quad : Bool) : Bool :=
  let nb := fld x 0 8
  let ja := fld x 8 8
  let jb := fld x 16 8
  let m := shRows c
  let n := shCols c
  decide (1 ≤ nb ∧ nb ≤ 32 ∧ 1 ≤ m ∧ m ≤ 96 ∧ 1 ≤ n ∧ n ≤ 96 ∧ shFmt a = fmtA fmt ∧ shRows a = m ∧ shFmt b = fmtB fmt ∧
      shRows b = n ∧ 24 * (ja + nb) ≤ shCols a) &&
    shFmt c == (if path = 4 ∧ !quad then 7 else 0) &&
    (match tm with
     | none => decide (24 * (jb + nb) ≤ shCols b)
     | some t => decide (12 * (jb + nb) ≤ shCols b ∧ shFmt t = 8 ∧ shRows t = n ∧ 3 * (jb + nb) ≤ shCols t))

/-- R220: waits. -/
def execMnop (k : BitVec 16) (s : State) : Out := micro s (.mnop k) 0 (k.toNat + 1) none id

/-- R220 to R223: nb dense blocks into tile c. -/
def execMmac (ta tb tc : BitVec 4) (mode : BitVec 2) (wn : BitVec 4) (imm : BitVec 40) (s : State) : Out :=
  let x := s.opX mode wn imm
  let p := s.mx.path
  micro s (.mmac ta tb tc mode wn imm) x ((if p = 2 then 24 else 12) * fld x 0 8)
    (firstCause [(p == 0 || p == 3, 4),
      (decide (2 ^ 24 ≤ x) || !productShapes x s.mx.fmt p (s.mxShape ta) (s.mxShape tb) (s.mxShape tc) none false, 2)]) id

/-- R220, R224: nb sparse blocks into tile c; X names the index tile. -/
def execMmacs (ta tb tc : BitVec 4) (mode : BitVec 2) (wn : BitVec 4) (imm : BitVec 40) (s : State) : Out :=
  let x := s.opX mode wn imm
  let p := s.mx.path
  micro s (.mmacs ta tb tc mode wn imm) x ((if p = 2 then 12 else 6) * fld x 0 8)
    (firstCause [(p == 0 || p == 3, 4),
      (decide (2 ^ 28 ≤ x) || !productShapes x s.mx.fmt p (s.mxShape ta) (s.mxShape tb) (s.mxShape tc)
        (some (s.mxShape (fldV x 24 4))) false, 2)]) id

/-- R220: nb blocks of INT4Q with BF16. -/
def execMmacq (ta tb tc : BitVec 4) (mode : BitVec 2) (wn : BitVec 4) (imm : BitVec 40) (s : State) : Out :=
  let x := s.opX mode wn imm
  micro s (.mmacq ta tb tc mode wn imm) x (24 * fld x 0 8)
    (firstCause [(s.mx.path != 3, 4),
      (decide (2 ^ 24 ≤ x) || !productShapes x s.mx.fmt s.mx.path (s.mxShape ta) (s.mxShape tb) (s.mxShape tc) none true, 2)]) id

/-- R225: every data byte of tile c is zero at the last of four cycles. -/
def execMicroMzero (tc : BitVec 4) (s : State) : Out :=
  micro s (.microMzero tc) 0 4 (firstCause [(shRows (s.mxShape tc) == 0, 2)]) id

/-- The causes of MLDV and MSTV (R225, R230). -/
def State.rowMove (s : State) (sh : Word) (x : Nat) : Option Nat :=
  let n := fld x 20 8
  firstCause [(decide (2 ^ 29 ≤ x) || fldB x 7 || decide (n = 0 ∨ shRows sh < fld x 8 12 + n), 2),
    (decide (min 120 s.mx.vws < fld x 0 7 + n), 6)]

/-- R225: n rows from the window registers to tile c. -/
def execMicroMldv (tc : BitVec 4) (mode : BitVec 2) (wn : BitVec 4) (imm : BitVec 40) (s : State) : Out :=
  let x := s.opX mode wn imm
  micro s (.microMldv tc mode wn imm) x (fld x 20 8) (s.rowMove (s.mxShape tc) x) id

/-- R225: n rows from tile a to the window registers. -/
def execMicroMstv (ta : BitVec 4) (mode : BitVec 2) (wn : BitVec 4) (imm : BitVec 40) (s : State) : Out :=
  let x := s.opX mode wn imm
  micro s (.microMstv ta mode wn imm) x (fld x 20 8) (s.rowMove (s.mxShape ta) x) id

/-- R226: tile c := the transpose of tile a. -/
def execMtrn (ta tc : BitVec 4) (s : State) : Out :=
  let a := s.mxShape ta
  let c := s.mxShape tc
  micro s (.mtrn ta tc) 0 (2 * ((shRows a + 23) / 24) * ((shCols a + 23) / 24))
    (firstCause [(!decide (shRows a ≠ 0 ∧ shFmt a = shFmt c ∧ shFmt a ≠ 9 ∧ shRows c = shCols a ∧ shCols c = shRows a), 2)]) id

/-- R226: tile c := tile a + tile b, a row each cycle. -/
def execMaddt (ta tb tc : BitVec 4) (s : State) : Out :=
  let a := s.mxShape ta
  let b := s.mxShape tb
  let c := s.mxShape tc
  micro s (.maddt ta tb tc) 0 (shRows c)
    (firstCause [(!decide (shRows c ≠ 0 ∧ (shFmt c = 0 ∨ shFmt c = 7) ∧ shFmt a = shFmt c ∧ shFmt b = shFmt c ∧
      shRows a = shRows c ∧ shRows b = shRows c ∧ shCols a = shCols c ∧ shCols b = shCols c), 2)]) id

/-- R227: counts w(n) down; not 0: to the target. -/
def execMloop (wn : BitVec 4) (target : BitVec 13) (s : State) : Out :=
  micro s (.mloop wn target) 0 1 none fun u =>
    let v := rd u.w wn.toNat - 1
    { u with w := wr u.w wn.toNat v, npc := if v ≠ 0 then target.toNat else u.npc }

/-- R227: to the target always, if w(n) is 0, or if it is not. -/
def execMbr (wn : BitVec 4) (cond : BitVec 2) (target : BitVec 13) (s : State) : Out :=
  micro s (.mbr wn cond target) 0 1 none fun u =>
    let z := rd u.w wn.toNat == 0
    { u with npc := if cond = 0 || (if cond = 1 then z else !z) then target.toNat else u.npc }

/-- R227: w(n) := op (w(n), value). -/
def execMpset (wn : BitVec 4) (op : BitVec 3) (value : BitVec 32) (s : State) : Out :=
  micro s (.mpset wn op value) 0 1 none fun u =>
    let v := rd u.w wn.toNat
    { u with w := wr u.w wn.toNat (match op.toNat with
        | 0 => value
        | 1 => v + value
        | 2 => v - value
        | 3 => v &&& value
        | 4 => v ||| value
        | 5 => v <<< (value.toNat % 32)
        | _ => v + rd u.w (value.toNat % 16)) }

/-- R227: the restart point: the next address and the working parameters. -/
def execMstep (s : State) : Out :=
  micro s .mstep 0 1 none fun u => { u with stepa := u.upc + 1, wsnap := u.w, xdone := 0 }

/-- R227: the routine ends; the unit is IDLE from the next cycle. -/
def execMend (s : State) : Out := micro s .mend 0 1 none fun u => { u with state := 0, op := none }

/-! ### microwords (R216, R218) -/

/-- The microword at an address of the plane that the routine took at its call (R216, R238). -/
def Mach.microAt (m : Mach) (n addr : Nat) : BitVec 64 :=
  let c := m.core n
  rd (if c.mx.plane = 1 then c.plane1 else c.plane0).micro addr

/-- The unit moves on to its next microword: UPC names it, if the store has it, and the one after it follows. -/
def State.fetchMicro (s : State) (n : Nat) : State :=
  (s.modTurn fun t => { t with core := n, ctx := (s.next.core n).mx.ctx }).mod fun m => m.modMx n fun u => { u with upc := min u.npc 8191, npc := u.npc + 1 }

/-- A microword of core n begins: past the store's end CAUSE 5, an illegal one CAUSE 3 (R230), else its operation. -/
def State.beginMicro (s : State) (n : Nat) : State × Option Instr :=
  let a := (s.next.core n).mx.npc
  let t := (s.fetchMicro n).modTurn fun t => { t with micro := t.micro.tail }
  if 8191 < a then (t.stopRoutine n 5, none)
  else
    match decodeMicro (t.next.microAt n a).toNat with
    | none => (t.stopRoutine n 3, none)
    | some i => (t, some i)

/-! ### how long a routine runs (R229) -/

/-- A micro-operation as the machine executes it. -/
def runMicro (i : Instr) (s : State) : Out :=
  match i with
  | .mnop k => execMnop k s
  | .mmac a b c mode wn imm => execMmac a b c mode wn imm s
  | .mmacs a b c mode wn imm => execMmacs a b c mode wn imm s
  | .mmacq a b c mode wn imm => execMmacq a b c mode wn imm s
  | .microMzero c => execMicroMzero c s
  | .microMldv c mode wn imm => execMicroMldv c mode wn imm s
  | .microMstv a mode wn imm => execMicroMstv a mode wn imm s
  | .mtrn a c => execMtrn a c s
  | .maddt a b c => execMaddt a b c s
  | .mloop wn target => execMloop wn target s
  | .mbr wn cond target => execMbr wn cond target s
  | .mpset wn op value => execMpset wn op value s
  | .mstep => execMstep s
  | .mend => execMend s
  | _ => .next s

/-- The machine with the clock of a region at an age. -/
def Mach.atAge (m : Mach) (r a : Nat) : Mach := m.modRegion r fun g => { g with age := a }

/-- The age from which the routine of core n occupies its unit no more, found by running its microwords alone: no data value tells (R229).
None if it is not over within the microwords given (log 142). -/
def Mach.routineEnd (m : Mach) (n : Nat) (fuel : Nat) : Option Nat :=
  match fuel with
  | 0 => none
  | k + 1 =>
    let u := (m.core n).mx
    if u.state ≠ 1 then some u.nextAt
    else
      let m := m.atAge (m.regionOf (clusOf n)) u.nextAt
      match State.beginMicro { (default : State) with arch := m, view := m, next := m } n with
      | (_, none) => some u.nextAt
      | (t, some i) => match runMicro i t with
        | .next t => t.next.routineEnd n k
        | .fault _ => none
        | .refused _ => none

end Sys2Proof.Machine
end

