-- ==== Sys2Proof/Machine/Device.lean ====
section
/-! DEFINITION. Device memory as its controllers keep it: what a read corrects and counts, write-backs in scrub slots, and writes (R293, R442,
R443, R447). -/

namespace Sys2Proof.Machine

/-- The blocks of 64 bytes that n bytes of device memory touch. -/
def blocksOf (a n : Nat) : List Nat := if n = 0 then [] else (List.range ((a + n - 1) / 64 - a / 64 + 1)).map (a / 64 + ·)

/-- A read of device memory, as `old` holds it, finds no error anywhere. -/
def Pack.clean (old : Pack) : Bool := old.dev.bad.isEmpty && old.weak.isEmpty

/-- Blocks are read, as `old` holds them: one with bytes marked uncorrectable is counted; another with bad symbols is counted as corrected, and
waits to be written back. -/
def Pack.meets (p old : Pack) (blocks : List Nat) : Pack :=
  if old.clean then p
  else
    let bad := blocks.filter fun b => old.dev.isBad (64 * b) 64
    let soft := blocks.filter fun b => !old.dev.isBad (64 * b) 64 && rd old.weak b != 0
    let count (c : SMap (BitVec 32)) (i n : Nat) := if n = 0 then c else up c i fun v => satInc v n
    { p with
      counters := count (count p.counters 0x172 soft.length) 0x173 bad.length
      scrub := p.scrub ++ (soft.filter fun b => !p.scrub.any fun q => q.1 == b).map fun b => (b, false) }

/-- n bytes of device memory are read, outside the beats of the copy engines. -/
def Mach.devMeets (m : Mach) (a n : Nat) : Mach := m.modPack fun p => p.meets p (blocksOf a n)

/-- Symbols of a block have gone bad. With those that are bad already they are corrected by a read while they are two at most; the bytes of a
block with more are marked uncorrectable. -/
def Pack.upset (p : Pack) (b n : Nat) : Pack :=
  let t := (rd p.weak b).val + n
  if t = 0 then p
  else if h : t < 3 then { p with weak := wr p.weak b ⟨t, h⟩ }
  else { p with weak := wr p.weak b 0, dev := p.dev.mark (64 * b) 64 }

/-- A write of n bytes of device memory. The blocks that it touches are encoded anew: their bad symbols are gone, and a write-back of one is
dropped, as R447 has it of one in its slot (log 181). -/
def Pack.devWrite (p : Pack) (a n : Nat) (f : Memory → Memory) : Pack :=
  { p with
    dev := f p.dev
    weak := if p.weak.isEmpty then [] else (blocksOf a n).foldl (fun w b => wr w b 0) p.weak
    scrub := if p.scrub.isEmpty then [] else p.scrub.filter fun q => !(blocksOf a n).contains q.1 }

def Pack.devStore (p : Pack) (a : Nat) (bs : List Byte) (bad : Bool) : Pack := p.devWrite a bs.length fun d => d.store a bs bad

/-- The controller of a block (R318). -/
def blockCtrl (b : Nat) : Nat := b / 1024 % 16

/-- Of each controller that `gives` names, the oldest write-back begins its slot. -/
def Pack.scrubOpens (p : Pack) (gives : Nat → Bool) : Pack :=
  { p with scrub := (p.scrub.foldl (fun (acc : List (Nat × Bool) × List Nat) q =>
      if q.2 || acc.2.contains (blockCtrl q.1) || !gives (blockCtrl q.1) then (acc.1 ++ [q], acc.2)
      else (acc.1 ++ [(q.1, true)], acc.2 ++ [blockCtrl q.1])) ([], [])).1 }

/-- The slots end: their blocks are written back, corrected. -/
def Pack.scrubCloses (p : Pack) : Pack :=
  { p with
    scrub := p.scrub.filter fun q => !q.2
    weak := (p.scrub.filter Prod.snd).foldl (fun w q => wr w q.1 0) p.weak }

/-- The write-backs in the cycle of count t of a wheel: slot t / 8 opens in its first cycle and closes in its last (R252, R442). -/
def Mach.scrubCycle (m : Mach) (t : Nat) (gives : Nat → Bool) : Mach :=
  if m.pack.scrub.isEmpty then m
  else if t % 8 = 0 then m.modPack fun p => p.scrubOpens gives
  else if t % 8 = 7 then m.modPack Pack.scrubCloses
  else m

end Sys2Proof.Machine
end

