-- ==== Sys2Proof/Machine/Perform.lean ====
section
/-! DEFINITION. The accesses of a cycle to the scratchpads: what reads return, what writes leave, in the order of R132, R323 and
R329; banks (R158, R159, R304 to R306), check codes (R305), the tag table (R135, R136), twin pairs (R438, R439). -/

namespace Sys2Proof.Machine

/-- A list in ascending order of a key, equal keys in their old order. -/
def insertOn {α : Type} (key : α → Nat) (x : α) (l : List α) : List α :=
  match l with
  | [] => [x]
  | y :: rest => if key y < key x then y :: insertOn key x rest else x :: y :: rest

def sortOn {α : Type} (key : α → Nat) (l : List α) : List α := l.foldr (insertOn key) []

/-- A cycle being performed: the machine as its reads find it and as its accesses leave it, and the words whose single-bit errors
its reads correct (cluster, word). -/
structure Perf where
  old : Mach
  m   : Mach
  fix : List (Nat × Nat)

def Perf.mod (p : Perf) (f : Mach → Mach) : Perf := { p with m := f p.m }

/-! ### banks and check codes -/

/-- The scratchpad bank of a byte (R304). -/
def bankOf (a : Nat) : Nat := a / 256 % 8

/-- The pieces of n bytes from a, one for each stripe of 256. -/
def stripes (a n : Nat) : List (Nat × Nat) :=
  if n = 0 then []
  else (List.range ((a + n - 1) / 256 - a / 256 + 1)).map fun i =>
    let lo := max a (256 * (a / 256 + i))
    (lo, min (a + n) (256 * (a / 256 + i + 1)) - lo)

/-- The bank of a byte is up. -/
def Cluster.isUp (c : Cluster) (a : Nat) : Bool := rd c.banks (bankOf a) == 0

/-- The first bank that is down or waking among those that n bytes touch, in ascending address: the spec names the first for a copy (R306)
and says nothing of a slot's access that meets several, which names it too (R159, R186; log 148). -/
def Cluster.firstDown (c : Cluster) (a n : Nat) : Option Nat :=
  ((stripes a n).map fun q => bankOf q.1).find? fun b => rd c.banks b != 0

/-- An event for the pair of cluster k whose origin is a context of a core. -/
def Mach.postFrom (m : Mach) (k n x cause : Nat) (info : Word) : Mach :=
  m.post k { cause := cause, info := info, core := n, ctx := x, region := m.regionOf (clusOf n), frz := false, rwf := (m.ctx n x).rwf }

/-- The information word of BANKOFF (R159). -/
def bankInfo (n b : Nat) (waking : Bool) : Word := BitVec.ofNat 64 (n % 512 * 16 + bnat waking * 8 + b)

/-- R159: the event of an access at a bank that is down or waking. -/
def Mach.bankOff (m : Mach) (k n x a len : Nat) : Mach :=
  match (m.cl k).firstDown a len with
  | none => m
  | some b => m.postFrom k n x cBANKOFF (bankInfo n b (rd (m.cl k).banks b == 2))

/-- The bytes that a read of the scratchpad returns: zero where the bank is not up. -/
def Cluster.readB (c : Cluster) (a n : Nat) : List Byte :=
  match c.firstDown a n with
  | none => c.spad.bytes a n
  | some _ => (stripes a n).flatMap fun q => if c.isUp q.1 then c.spad.bytes q.1 q.2 else List.replicate q.2 0

/-- The words with an uncorrectable, and with a correctable error that a read meets (R305). -/
def Cluster.badB (c : Cluster) (a n : Nat) : List Nat := (wordsOf a n).filter fun w => c.isUp (8 * w) && c.spad.bad.contains w
def Cluster.softB (c : Cluster) (a n : Nat) : List Nat := (wordsOf a n).filter fun w => c.isUp (8 * w) && c.spad.soft.contains w

/-- Bytes written, but not to a bank that is not up (R159). -/
def Cluster.writeB (c : Cluster) (a : Nat) (bs : List Byte) (bad : Bool) : Cluster :=
  match c.firstDown a bs.length with
  | none => { c with spad := c.spad.store a bs bad }
  | some _ => (stripes a bs.length).foldl (fun c q =>
      if c.isUp q.1 then { c with spad := c.spad.store q.1 ((bs.drop (q.1 - a)).take q.2) bad } else c) c

/-- A counter of R443 grows. -/
def Cluster.tally (c : Cluster) (i n : Nat) : Cluster := if n = 0 then c else { c with fleet := up c.fleet i fun v => satInc v n }

/-- The errors that a read meets, counted (R443). -/
def Perf.count (p : Perf) (k : Nat) (bad soft : List Nat) : Perf :=
  { (p.mod fun m => if bad.isEmpty && soft.isEmpty then m
      else m.modCl k fun c => (c.tally 0 soft.length).tally 1 bad.length) with fix := p.fix ++ soft.map fun w => (k, w) }

/-- The errors of granules that a read of a core's tile store meets, counted in its cluster; those that can be corrected are (R205, R443). -/
def Perf.tileErrors (p : Perf) (n : Nat) (rs : List (Nat × Nat)) : Perf :=
  let t := (p.old.core n).tile
  if t.bad.isEmpty && t.soft.isEmpty then p
  else
    let ws := (rs.flatMap fun r => wordsOf r.1 r.2).eraseDups
    let soft := ws.filter t.soft.contains
    p.mod fun m => (m.modCl (clusOf n) fun c => (c.tally 0 soft.length).tally 1 (ws.filter t.bad.contains).length).modCore n fun c =>
      { c with tile := soft.foldl Memory.correct c.tile }

/-- A read of cluster k's scratchpad, as `src` holds it, by context x of core n: the bytes, and whether one is uncorrectable. A
follower takes what its lead took; `event` says whether the access may post BANKOFF. -/
def Perf.read (p : Perf) (src : Mach) (k n x a len : Nat) (event : Bool) : (List Byte × Bool) × Perf :=
  match p.m.leadRead n 0 with
  | some r => (r, p.mod fun m => m.tookRead n 0)
  | none =>
    let c := src.cl k
    let r := (c.readB a len, !(c.badB a len).isEmpty)
    let q := (p.count k (c.badB a len) (c.softB a len)).mod fun m => m.noteRead n 0 r.1 r.2
    (r, if event then q.mod fun m => m.bankOff k n x a len else q)

/-- A write to cluster k's scratchpad by context x of core n; `event` says whether the access may post BANKOFF. -/
def Perf.store (p : Perf) (k n x a : Nat) (bs : List Byte) (bad event : Bool) : Perf :=
  let p := p.mod fun m => m.commitWrite n x 1 a bs
  if p.m.muteAt n x k a bs.length then p
  else p.mod fun m => (if event then m.bankOff k n x a bs.length else m).modCl k fun c => c.writeB a bs bad

/-- A write of a slot. -/
def Perf.write (p : Perf) (k n x a : Nat) (bs : List Byte) (bad : Bool) : Perf := p.store k n x a bs bad true

/-- A write of the bytes of a vector under a mask. R159 and R185 do not say whether masked-off lanes are accesses: BANKOFF is judged over
all 768 bytes, whatever the mask (log 150). -/
def Perf.writeMask (p : Perf) (k n x a : Nat) (v : VWord) (mask : ByteMask) (bad : Bool) : Perf :=
  if mask = fullMask then p.write k n x a (leBytes 768 v.toNat) bad
  else
    let bs := (leBytes 768 v.toNat).zipIdx.filterMap fun (b, j) => if mask.getLsbD j then some b else none
    let p := p.mod fun m => m.commitWrite n x 1 a bs
    if p.m.muteAt n x k a 768 then p
    else p.mod fun m => (m.bankOff k n x a 768).modCl k fun c =>
      let live := match c.firstDown a 768 with
        | none => mask
        | some _ => mask &&& maskOf fun j => c.isUp (a + j)
      { c with spad := c.spad.storeMask a v live bad }

/-! ### results -/

/-- A result that an access gives its context; register 0 of scalars and predicates discards. -/
def Mach.give (m : Mach) (n x ord due : Nat) (w : Landing) (poison : Bool) : Mach :=
  match w with
  | .s 0 _ => m
  | .p 0 _ => m
  | w => m.modCtx n x fun c => c.fly { due := due, ord := ord, what := w, poison := poison }

/-- The scalar that loaded bytes make (R131). -/
def loadWord (bs : List Byte) (signed : Bool) : Word :=
  if signed then (BitVec.ofNat (8 * bs.length) (ofBytes bs)).signExtend 64 else BitVec.ofNat 64 (ofBytes bs)

def bytesVec (bs : List Byte) : VWord := BitVec.ofNat 6144 (ofBytes bs)

/-- The lanes of a gather, in ascending order: each acting lane's word, 0 for holes and lanes beyond; and the error mark. -/
def Perf.lanes (p : Perf) (k n x base : Nat) (idx : VWord) (e : VEnv) (is : List Nat) : (List Nat × Bool) × Perf :=
  match is with
  | [] => (([], false), p)
  | i :: rest =>
    if actsAt e idx i && !beyondAt base idx i then
      let ((bs, bad), p) := p.read p.old k n x (laneAddr base idx i) 4 true
      let ((vs, b), p) := p.lanes k n x base idx e rest
      ((ofBytes bs :: vs, bad || b), p)
    else
      let ((vs, b), p) := p.lanes k n x base idx e rest
      ((0 :: vs, b), p)

/-- The pops of a vector slot read, each for every field that names it (R165, R194). -/
def Perf.pops (p : Perf) (k n x : Nat) (srcs : List (Nat × List Nat)) (e : VEnv) : VEnv × Perf :=
  match srcs with
  | [] => (e, p)
  | (a, ps) :: rest =>
    let ((bs, bad), p) := p.read p.old k n x a 768 true
    p.pops k n x rest { e.sets ps (bytesVec bs) with poison := e.poison || bad }

/-- A slot whose operands are now known gives its result, or sends its lanes on their way 8 cycles later (R165, R187). The spec does not say when
GST is set where the index or the data is popped from the scratchpad: the model sets it here, when the pop performs (log 94). -/
def Mach.popped (m : Mach) (q : Pending) (i : Instr) (e : VEnv) (ds : List VDest) (land : Nat) : Mach :=
  let lanewise := match i with
    | .vldx _ _ _ _ | .vstx _ _ _ _ | .vstxa _ _ _ _ => true
    | _ => false
  if lanewise then
    let base := e.sa.toNat % 2 ^ 63
    let m := if setsGst base e e.b then m.modCtx q.core q.ctx fun c => { c with gst := true } else m
    m.modCl (clusOf q.core) fun c => { c with pend := c.pend ++ [{ q with due := q.due + 8, acc := laneAccess i base e ds 6 }] }
  else
    m.formed q.core q.ctx q.uid q.ord q.due land i e ds

/-- R132: the plain reads of the cycle, before its writes. -/
def Perf.readAcc (p : Perf) (q : Pending) : Perf :=
  let n := q.core
  let x := q.ctx
  let k := clusOf n
  match q.acc with
  | .load a size signed d land =>
    let ((bs, bad), p) := p.read p.old k n x a size true
    p.mod fun m => m.give n x q.ord (q.due + land) (.s d (loadWord bs signed)) bad
  | .vload a d land =>
    let ((bs, bad), p) := p.read p.old k n x a 768 true
    p.mod fun m => m.give n x q.ord (q.due + land) (.v d (bytesVec bs) fullMask) bad
  | .pop srcs i e ds land =>
    let (e, p) := p.pops k n x srcs e
    p.mod fun m => m.popped q i e ds land
  | .gather base idx e ds land =>
    let ((vs, bad), p) := p.lanes k n x base idx e (List.range 192)
    p.mod fun m => m.deliver n x q.uid q.ord q.due land e (outV (BitVec.ofNat 6144 (digits (2 ^ 32) (fun i => vs.getD i 0) 192 0)))
      (bad || e.poison) ds
  | .fillS a d _ land =>
    let ((bs, bad), p) := p.read p.old k n x a 8 true
    p.mod fun m => m.give n x q.ord (q.due + land) (.s d (loadWord bs false)) bad
  | .fillV a d _ land =>
    let ((bs, bad), p) := p.read p.old k n x a 768 true
    p.mod fun m => m.give n x q.ord (q.due + land) (.v d (bytesVec bs) fullMask) bad
  | .fillP a d _ land =>
    let ((bs, _), p) := p.read p.old k n x a 24 true
    p.mod fun m => m.give n x q.ord (q.due + land) (.p d (BitVec.ofNat 192 (ofBytes bs))) false
  | .payload a len serial =>
    let ((bs, _), p) := p.read p.old k n x a len true
    p.mod fun m => m.modCl k fun c => { c with out := c.out.map fun o => if o.serial = serial then { o with data := o.data ++ bs } else o }
  | .members a count g cls route =>
    let ((bs, _), p) := p.read p.old k n x a (4 * count) true
    let ms := (List.range count).map fun i => memberOf (ofBytes ((bs.drop (4 * i)).take 4))
    p.mod fun m => m.modCl k fun c => { c with groups := c.groups.map fun u =>
      if u.id.toNat = g ∧ u.cls = cls ∧ u.route = route then
        { u with members := ms, shut := ((ms.filter fun q => q.1 == m.pack.pkg && q.2 / 8 == k && decide (q.2 < 384)).map Prod.snd).eraseDups.map fun n => (n, 0) }
      else u }
  | .post a f land =>
    let ((bs, _), p) := p.read p.old k n x a 64 true
    p.mod fun m => m.modCl k fun c => { c with postq := c.postq ++
      [{ words := (List.range 8).map fun i => BitVec.ofNat 64 (ofBytes ((bs.drop (8 * i)).take 8)),
         core := n, ctx := x, ord := q.ord, k := some f, land := q.due + land }] }
  | .store _ _ _ _ _ | .amo _ _ _ _ _ _ | .amoTold _ _ _ _ _ _ _ | .vstore _ _ _ _ _ | .scatter _ _ _ _ _ | .scatterAdd _ _ _ _ _ _ | .spillP _ _
  | .lookup _ _ _ | .tagset _ _ | .tagclr _ | .tagwipe | .bank _ _ | .bytes _ _ _ => p

/-- The access is a write, an AMO or of the tag table: it takes its turn by rank (R132, R309). -/
def Access.isWrite (a : Access) : Bool :=
  match a with
  | .store _ _ _ _ _ | .amo _ _ _ _ _ _ | .amoTold _ _ _ _ _ _ _ | .vstore _ _ _ _ _ | .scatter _ _ _ _ _ | .scatterAdd _ _ _ _ _ _ | .spillP _ _
  | .lookup _ _ _ | .tagset _ _ | .tagclr _ | .tagwipe | .bank _ _ | .bytes _ _ _ => true
  | .load _ _ _ _ _ | .vload _ _ _ | .pop _ _ _ _ _ | .gather _ _ _ _ _ | .fillS _ _ _ _ | .fillV _ _ _ _ | .fillP _ _ _ _
  | .payload _ _ _ | .members _ _ _ _ _ | .post _ _ _ => false

/-! ### the tag table (R135, R136) -/

def tagSetOf (va : Word) : Nat := fld va.toNat 10 8
def tagOf (va : Word) : BitVec 39 := fldV va.toNat 18 39

/-- A set in its state at RUN unless it has been used (R308). -/
def Cluster.tagSet (c : Cluster) (va : Word) : TagSet :=
  let t := rd c.tags (tagSetOf va)
  if t.order.isEmpty then TagSet.init else t

/-- The lowest way of the set that holds the tag. -/
def TagSet.hit (t : TagSet) (tag : BitVec 39) : Option Nat :=
  (List.range 8).find? fun w => (rd t.ways w).valid && (rd t.ways w).tag == tag

/-- The way that a miss names: the lowest invalid, else the least recent. -/
def TagSet.victim (t : TagSet) : Nat :=
  ((List.range 8).find? fun w => !(rd t.ways w).valid).getD (t.order.headD 0)

/-- The way becomes most recent. -/
def TagSet.touch (t : TagSet) (w : Nat) : TagSet := { t with order := t.order.filter (· != w) ++ [w] }

/-- The result of a lookup (R136). -/
def lookupWord (t : TagSet) (va : Word) : Word :=
  match t.hit (tagOf va) with
  | some w => BitVec.ofNat 64 (tagSetOf va * 8 + w)
  | none => BitVec.ofNat 64 (2 ^ 63 + tagSetOf va * 8 + t.victim)

/-- The set after a tag is taken by a way. -/
def TagSet.install (t : TagSet) (w : Nat) (tag : BitVec 39) : TagSet :=
  let ways := (List.range 8).foldl (fun ws i =>
    if i ≠ w ∧ (rd t.ways i).valid ∧ (rd t.ways i).tag = tag then wr ws i { rd t.ways i with valid := false } else ws) t.ways
  ({ t with ways := wr ways w { valid := true, tag := tag } }).touch w

/-- The set without a tag. -/
def TagSet.drop (t : TagSet) (tag : BitVec 39) : TagSet :=
  { t with ways := t.ways.map fun (i, w) => if w.tag = tag then (i, { w with valid := false }) else (i, w) }

/-- The tag table as it is when the region enters RUN: every way invalid, every recency order that of reset (R308). -/
def Cluster.wipeTags (c : Cluster) : Cluster := { c with tags := [] }

def Cluster.setTags (c : Cluster) (va : Word) (f : TagSet → TagSet) : Cluster := { c with tags := wr c.tags (tagSetOf va) (f (c.tagSet va)) }

/-! ### writes by rank -/

/-- One lane of vstxa (R189), or one element of an adding scatter (R259): the sum of a word and an element. -/
def addWord (fmt : BitVec 22) (old v : Nat) : Nat :=
  if fmtV fmt = 0 then encF fp32 (fmtRM fmt) (sumF (fmtRM fmt) [decF fp32 old, decF fp32 v]) else (old + v) % 2 ^ 32

/-- An atomic addition of a 4-byte element: nothing is written where the word holds an uncorrectable error (R189). -/
def Perf.addAt (p : Perf) (k n x a : Nat) (fmt : BitVec 22) (v : Nat) (bad event : Bool) : Perf :=
  let ((bs, b), p) := p.read p.m k n x a 4 false
  if b then p else p.store k n x a (leBytes 4 (addWord fmt (ofBytes bs) v)) bad event

/-- The banks change at the end of the cycle (R158, R306): 1 down; 2 waking, for 96 cycles from the next. -/
def Cluster.power (c : Cluster) (sel : BitVec 8) (on : Bool) (now : Nat) : Cluster :=
  (List.range 8).foldl (fun c b =>
    if !sel.getLsbD b then c
    else if on then (if rd c.banks b = 1 then { c with banks := wr c.banks b 2, wake := wr c.wake b (now + 96) } else c)
    else { c with banks := wr c.banks b 1 }) c

/-- A write of the cycle takes its turn (R132). Power changes wait for the end of the cycle. -/
def Perf.writeAcc (p : Perf) (q : Pending) : Perf :=
  let n := q.core
  let x := q.ctx
  let k := clusOf n
  match q.acc with
  | .store a size v bad _ => p.write k n x a (leBytes size v.toNat) bad
  | .vstore a v mask bad _ => p.writeMask k n x a v mask bad
  | .spillP a v => p.write k n x a (leBytes 32 v.toNat) false
  | .bytes a data bad => p.write k n x a data bad
  | .amo fn a v swap d land =>
    let ((bs, bad), p) := p.read p.m k n x a 8 true
    let old := loadWord bs false
    let p := p.mod fun m => m.give n x q.ord (q.due + land) (.s d old) bad
    if bad || !(p.old.cl k).isUp a then p else p.write k n x a (leBytes 8 (amoNew fn old v swap).toNat) false
  | .amoTold fn a v swap old bad late =>
    let (_, p) := p.read p.m k n x a 8 true
    if bad || late || !(p.old.cl k).isUp a then p else p.write k n x a (leBytes 8 (amoNew fn old v swap).toNat) false
  | .scatter base idx v lanes bad =>
    let e := { (default : VEnv) with lanes := lanes }
    (List.range 192).foldl (fun p i =>
      if actsAt e idx i && !beyondAt base idx i then p.write k n x (laneAddr base idx i) (leBytes 4 (lane v i)) bad else p) p
  | .scatterAdd base idx v lanes fmt bad =>
    let e := { (default : VEnv) with lanes := lanes }
    (List.range 192).foldl (fun p i =>
      if actsAt e idx i && !beyondAt base idx i then p.addAt k n x (laneAddr base idx i) fmt (lane v i) bad true else p) p
  | .lookup va d land =>
    match p.m.leadRead n 0 with
    | some (bs, _) => p.mod fun m => (m.tookRead n 0).give n x q.ord (q.due + land) (.s d (loadWord bs false)) false
    | none =>
      let t := (p.m.cl k).tagSet va
      let r := lookupWord t va
      p.mod fun m =>
        let m := (m.noteRead n 0 (leBytes 8 r.toNat) false).give n x q.ord (q.due + land) (.s d r) false
        match t.hit (tagOf va) with
        | some w => if m.mute n x then m else m.modCl k fun c => c.setTags va fun t => t.touch w
        | none => m
  | .tagset va way => if p.m.mute n x then p else p.mod fun m => m.modCl k fun c => c.setTags va fun t => t.install way (tagOf va)
  | .tagclr va => if p.m.mute n x then p else p.mod fun m => m.modCl k fun c => c.setTags va fun t => t.drop (tagOf va)
  | .tagwipe => p.mod fun m => m.modCl k Cluster.wipeTags
  | .load _ _ _ _ _ | .vload _ _ _ | .pop _ _ _ _ _ | .gather _ _ _ _ _ | .fillS _ _ _ _ | .fillV _ _ _ _ | .fillP _ _ _ _
  | .payload _ _ _ | .members _ _ _ _ _ | .post _ _ _ | .bank _ _ => p

/-- The power changes of the cycle, in rank order, after its accesses (R306). -/
def Perf.bankAcc (p : Perf) (q : Pending) (now : Nat) : Perf :=
  match q.acc with
  | .bank sel on => if p.m.mute q.core q.ctx then p else p.mod fun m => m.modCl (clusOf q.core) fun c => c.power sel on now
  | _ => p

/-! ### writes from other clusters and regions (R323, R329) -/

/-- A write from outside takes effect; its copy posts its one BANKOFF at the beat (R306). -/
def Perf.remote (p : Perf) (k : Nat) (w : Remote) : Perf :=
  match w.add with
  | none => p.mod fun m => m.modCl k fun c => c.writeB w.addr w.data w.bad
  | some fmt =>
    let c := p.m.cl k
    let p := p.count k (c.badB w.addr 4) (c.softB w.addr 4)
    if !(c.badB w.addr 4).isEmpty then p
    else p.mod fun m => m.modCl k fun c =>
      c.writeB w.addr (leBytes 4 (addWord fmt (ofBytes (c.readB w.addr 4)) (ofBytes w.data))) w.bad

/-- The single-bit errors that the cycle's reads found are corrected at its end (R305). -/
def Perf.corrected (p : Perf) : Mach :=
  p.fix.foldl (fun m (k, w) => m.modCl k fun c => { c with spad := c.spad.correct w }) p.m

end Sys2Proof.Machine
end

