-- ==== Sys2Proof/Machine/Ecc.lean ====
section
/-! DEFINITION. The check codes of the register files: what the slots of a bundle read of them, and the single-bit errors that such a read
corrects (R443; log 178). -/

namespace Sys2Proof.Machine

/-- The scalar registers that a slot reads. -/
def scalarsRead (i : Instr) : List SReg :=
  match i with
  | .add _ _ a b | .sub _ _ a b | .and _ _ a b | .or _ _ a b | .xor _ _ a b | .andn _ _ a b | .shl _ _ a b | .shr _ _ a b | .sar _ _ a b
  | .rotl _ _ a b | .min _ _ a b | .max _ _ a b | .minn _ _ a b | .maxn _ _ a b | .mul _ _ a b | .mulh _ _ a b | .mulhn _ _ a b
  | .div _ _ a b | .divn _ _ a b | .rem _ _ a b | .remn _ _ a b | .sext _ _ a b | .zext _ _ a b | .csel _ _ a b | .kcmp _ _ a b
  | .vins _ _ a b | .ckarm a b | .fsend a b | .frecv _ a b | .gbind a b | .mcast a b | .digest _ a b => [a, b]
  | .clz _ _ a | .ctz _ _ a | .popc _ _ a | .mov _ _ a | .kcmpImm _ _ a _ | .jr a | .callr a | .setfmt a | .vbc _ _ a | .vrand _ _ a _
  | .vldx _ _ a _ | .vstx _ _ a _ | .vstxa _ _ a _ | .pset _ a | .pmask _ a | .mtsh _ a | .mpar _ a | .bmchk _ _ a | .bmset a | .gfree a
  | .thaw a | .rewind a | .taskpost _ a | .taskdone a => [a]
  | .ret => [31]
  | .addi _ d _ | .andi _ d _ | .ori _ d _ | .xori _ d _ | .shli _ d _ | .shri _ d _ | .sari _ d _ | .muli _ d _ | .movhi d _ | .loopset d _
  | .cpyset d _ | .expect d _ | .mtc d _ | .swap d _ | .twin d _ | .bank d _ | .salloc d _ | .sfree d _ => [d]
  | .ldb _ _ b _ | .ldbn _ _ b _ | .ldh _ _ b _ | .ldhn _ _ b _ | .ldw _ _ b _ | .ldwn _ _ b _ | .ldd _ _ b _ | .lookup _ b _ | .tagclr b _
  | .lea _ b _ | .vrot _ _ _ b | .vext _ _ _ b | .vld _ _ b _ | .vst _ _ b _ | .vstm _ _ b _ | .bseek _ _ b | .mldv _ _ _ b | .mstv _ _ _ b
  | .send _ _ b | .spillv _ b _ | .fillv _ b _ | .fills _ b _ | .spillp _ b _ | .fillp _ b _ => [b]
  | .stb _ d b _ | .sth _ d b _ | .stw _ d b _ | .std _ d b _ | .amoadd d b _ | .amoswap d b _ | .amomin d b _ | .amomax d b _ | .amominn d b _
  | .amomaxn d b _ | .amoand d b _ | .amoor d b _ | .amoxor d b _ | .tagset d b _ | .spills d b _ => [d, b]
  | .amocas d b _ => [d ++ 0#1, d ++ 1#1, b]
  | .cpyd d a b | .gath d a b | .scat d a b | .stage d a b => [d, a, b]
  | _ => []

/-- The predicates that a slot reads, by name, besides the merge predicate. -/
def predsRead (i : Instr) : List PReg :=
  match i with
  | .pand _ a b | .por _ a b | .pxor _ a b | .pandn _ a b => [a, b]
  | .pnot _ a | .pmov _ a | .pcnt _ a | .pfirst _ a | .ptest _ a _ => [a]
  | .ppack _ a => (List.range 8).map fun j => BitVec.ofNat 4 (8 * bnat a + j)
  | .spillp d _ _ => [d]
  | _ => []

/-- The slot is one that MASKSEL guards and masks (R77). -/
def maskedSlot (i : Instr) : Bool :=
  match i with
  | .vadd m _ _ _ | .vsub m _ _ _ | .vmul m _ _ _ | .vfma m _ _ _ | .vfms m _ _ _ | .vmin m _ _ _ | .vmax m _ _ _ | .vabs m _ _ | .vneg m _ _
  | .vand m _ _ _ | .vor m _ _ _ | .vxor m _ _ _ | .vshl m _ _ _ | .vshr m _ _ _ | .vsar m _ _ _ | .vsel m _ _ _ | .vmov m _ _ | .vbc m _ _
  | .vaddi m _ _ _ | .vmuli m _ _ _ | .vrecip m _ _ | .vrsqrt m _ _ | .vexp2 m _ _ | .vlog2 m _ _ | .vclamp m _ _ _ | .vround m _ _
  | .vmulh m _ _ _ | .vsatadd m _ _ _ | .vsatsub m _ _ _ | .vaddw m _ _ _ | .vmacw m _ _ _ | .vcvt m _ _ _ | .vq8 m _ _ _ | .vdq8 m _ _ _
  | .vredsum m _ _ _ | .vredmax m _ _ _ | .vredmin m _ _ _ | .vscan m _ _ _ | .vperm m _ _ _ | .vrot m _ _ _ | .vshuf m _ _ _ | .vpackh m _ _ _
  | .vunpk m _ _ _ | .vrand m _ _ _ | .vext m _ _ _ | .vins m _ _ _ | .vbsum m _ _ | .vbmax m _ _ | .vldx m _ _ _ | .vstx m _ _ _
  | .vstxa m _ _ _ | .bseek m _ _ | .bpos m _ _ | .bstat m _ _ | .bstatGather m _ | .bflush m _ | .bdone m _ | .red m _ _ _ => m
  | .vstm _ _ _ _ => true
  | _ => false

/-- The slot reads the merge predicate (R77): vsel does always. -/
def readsMerge (i : Instr) : Bool :=
  match i with
  | .vsel _ _ _ _ => true
  | _ => maskedSlot i

/-- The fields of a slot with the vector registers that it reads to keep a part of them, vcvt to a part, vq8 and vins (R174, R177, R183), and
without the companion that vdq8 reads under FMT.FSC alone (R107). -/
def fieldsRead (f : BitVec 22) (i : Instr) (l : List Opnd) : List Opnd :=
  match i with
  | .vq8 _ d _ _ => .readV 0 d :: .readComp 0 d :: l
  | .vins _ d _ _ => .readV 0 d :: l
  | .vcvt _ d _ _ => if 1 < narrows (fmtV f) (fmtW f) then .readV 0 d :: l else l
  | .vdq8 _ _ _ _ => if fmtFsc f then l else l.filter fun o => match o with
      | .readComp _ _ => false
      | _ => true
  | _ => l

/-- The registers that a slot of the issuing context reads from the files of its core: kind (0 vector, 1 scalar, 2 predicate), context, number. -/
def State.regsRead (s : State) (i : Instr) : List (Nat × Nat × Nat) :=
  if maskedSlot i && !s.me.guard then []
  else
    (fieldsRead s.me.fmt i (opnds i)).filterMap (fun o => match o with
      | .readV _ c => if c.toNat < 120 then some (0, 0, s.me.phys c.toNat) else none
      | .readComp _ c => if c.toNat < 119 then some (0, 0, s.me.phys (c.toNat + 1)) else none
      | _ => none) ++
    (scalarsRead i).map (fun r => (1, s.x, r.toNat)) ++
    ((if readsMerge i then [s.mergeName] else []) ++ predsRead i).map fun p => (2, s.x, s.me.physP p.toNat)

/-- The instructions of the bundle that closes. -/
def State.slots (s : State) : List Instr := s.turn.before ++ (decodeSlot s.turn.word.toNat).toOption.toList

/-- The reads of a bundle correct the single-bit errors of its registers, each counted once (R443). -/
def State.correctRegs (s : State) : State :=
  let l := (s.next.core s.n).soft
  if l.isEmpty then s
  else
    let hit := l.filter fun q => s.slots.any fun i => (s.regsRead i).contains q
    s.mod fun m => (m.modCl s.clus fun c => c.tally 0 hit.length).modCore s.n fun c => { c with soft := c.soft.filter fun q => !hit.contains q }

end Sys2Proof.Machine
end

