-- ==== Sys2Proof/Machine/Beats.lean ====
section
/-! DEFINITION. The beats of the copy engines: reads, stages, writes, gathers and scatters (R247 to R264, R317 to R322). -/

namespace Sys2Proof.Machine

/-! ### stages (R248) -/

/-- Bytes with their error marks. -/
abbrev Marked := List (Byte × Bool)

def Marked.nat (b : Marked) : Nat := ofBytes (b.map Prod.fst)
def Marked.bad (b : Marked) : Bool := b.any Prod.snd
def markAll (bad : Bool) (bs : List Byte) : Marked := bs.map fun b => (b, bad)

/-- Element by element: the codes of width w that a function makes, each marked if its source is. -/
def perElt (w out : Nat) (f : Nat → Nat) (b : Marked) : Marked :=
  (chunks w b).flatMap fun c => markAll (Marked.bad c) (leBytes out (f (Marked.nat c)))

/-- DEQ4: each group of 16 bytes to 24 BF16 (R102). -/
def stageDeq (b : Marked) : Marked :=
  (chunks 16 b).flatMap fun c => markAll (Marked.bad c) ((List.range 24).flatMap fun i => leBytes 2 (int4q (Marked.nat c) i))

/-- QNT8: the codes of every block of 24 FP32, then the scale codes (R115). -/
def stageQnt (fmt : BitVec 22) (b : Marked) : Marked :=
  let bs := (chunks 96 b).map fun c =>
    (Marked.bad c, quant8 (ffmt (fmtW fmt)) (fmtSat fmt) ((chunks 4 c).map fun e => decF fp32 (Marked.nat e)))
  (bs.flatMap fun q => markAll q.1 (q.2.1.flatMap fun v => leBytes 1 v)) ++ bs.map fun q => (BitVec.ofNat 8 q.2.2, q.1)

/-- TRN: a 24 × 24 block of w-byte elements transposed. -/
def stageTrn (w : Nat) (b : Marked) : Marked :=
  let es := chunks w b
  (List.range 576).flatMap fun i => es.getD (i % 24 * 24 + i / 24) []

/-- SUM: the CRC-32C of the bytes, and 28 zero bytes. -/
def stageSum (b : Marked) : Marked :=
  b ++ markAll (Marked.bad b) (leBytes 4 (crc32c (b.map Prod.fst)).toNat ++ List.replicate 28 0)

/-- The bytes that the stages make of an iteration's source bytes, in the order DEQ4, CAST, QNT8, TRN, ZERO, SUM. -/
def stages (g : Nat) (fmt : BitVec 22) (n : Nat) (b : Marked) : Marked :=
  let v := fmtV fmt
  let w := fmtW fmt
  let b := if stDeq g then stageDeq b else b
  let b := if stCast g then perElt (fmtWidth v) (fmtWidth w) (cvtElt v w (fmtRM fmt) (fmtSat fmt)) b else b
  let b := if stQnt g then stageQnt fmt b else b
  let b := if stTrn g then stageTrn (if stCast g then fmtWidth w else if stDeq g then 2 else fmtWidth v) b else b
  let b := if stZero g then List.replicate n ((0 : Byte), false) else b
  if stSum g then stageSum b else b

/-! ### reading and writing at an engine address -/

/-- The pieces of n bytes at an engine address, none across a boundary of 32 (R317: translations change at 4,096 at the finest). -/
def pieces (a : Word) (n : Nat) : List (Word × Nat) :=
  if n = 0 then []
  else
    let o := a.toNat % 32
    (List.range ((o + n - 1) / 32 + 1)).map fun i =>
      if i = 0 then (a, min n (32 - o)) else (addAddr a ((32 * i - o : Nat) : Int), min 32 (o + n - 32 * i))

/-- The blocks of device memory that a beat of a copy engine reads meet their errors once each (R442, R443). -/
def Perf.meets (p : Perf) (blocks : List Nat) : Perf := p.mod fun m => m.modPack fun q => q.meets p.old.pack blocks.eraseDups

/-- Bytes at an engine address as `old` holds them, and the blocks of device memory read; `quiet`: nothing is counted. -/
def Perf.fetch (p : Perf) (n : Nat) (uid : Option Nat) (job : Nat) (quiet : Bool) (a : Word) (len : Nat) : Marked × List Nat × Perf :=
  (pieces a len).foldl (fun (acc, ks, p) (ad, l) =>
    match p.old.placeOf n uid job ad with
    | .dev pa =>
      let bs := p.old.pack.dev.bytes pa l
      (acc ++ (bs.zipIdx.map fun (b, i) => (b, p.old.pack.dev.isBad (pa + i) 1)), ks ++ blocksOf pa l, p)
    | .spad k s =>
      let c := p.old.cl k
      let bs := c.readB s l
      (acc ++ (bs.zipIdx.map fun (b, i) => (b, !(c.badB (s + i) 1).isEmpty)), ks,
        if quiet then p else p.count k (c.badB s l) (c.softB s l))
    | .tile t =>
      let m := (p.old.core n).tile
      (acc ++ ((m.bytes t l).zipIdx.map fun (b, i) => (b, m.isBad (t + i) 1)), ks, if quiet then p else p.tileErrors n [(t, l)])
    | .none => (acc ++ List.replicate l (0, false), ks, p)) ([], [], p)

/-- What a lead's engine read, byte by byte, with the mark of each, as a follower takes it (R439). -/
def Marked.noted (b : Marked) : List Byte := b.map Prod.fst ++ b.map fun q => BitVec.ofNat 8 (bnat q.2)
def markedOf (bs : List Byte) : Marked := (bs.take (bs.length / 2)).zip ((bs.drop (bs.length / 2)).map fun b => b != 0)

/-- Runs of equal marks. -/
def runs (b : Marked) (a : Nat) : List (Nat × List Byte × Bool) :=
  match b with
  | [] => []
  | (v, m) :: rest =>
    match runs rest (a + 1) with
    | (c, bs, m') :: more => if m = m' then (a, v :: bs, m) :: more else (a, [v], m) :: (c, bs, m') :: more
    | [] => [(a, [v], m)]

/-- Bytes written at an engine address: the core's own cluster and tile store and device memory in their turn, another cluster's
scratchpad after its own writes. -/
def Perf.put (p : Perf) (n x : Nat) (uid : Option Nat) (job : Nat) (a : Word) (b : Marked) : Perf :=
  (pieces a b.length).foldl (fun (acc : Perf × Marked) (ad, l) =>
    let (p, b) := acc
    let bs := b.take l
    let p := p.mod fun m => m.commitWrite n x (spaceOf ad) (offOf ad) (bs.map Prod.fst)
    let q := match p.m.placeOf n uid job ad with
      | .dev pa => if p.m.mute n x then p else p.mod fun m => m.modPack fun q =>
          q.devWrite pa l fun d => (runs bs pa).foldl (fun d r => d.store r.1 r.2.1 r.2.2) d
      | .spad k s =>
        if p.m.muteAt n x k s l then p
        else if k = clusOf n then
          p.mod fun m => m.modCl k fun c => (runs bs s).foldl (fun c r => c.writeB r.1 r.2.1 r.2.2) c
        else p.mod fun m => m.modCl k fun c =>
          { c with remote := c.remote ++ (runs bs s).map fun r => { by_ := n, addr := r.1, data := r.2.1, bad := r.2.2, add := none } }
      | .tile t =>
        p.mod fun m => m.modCore n fun c => { c with tile := (runs bs t).foldl (fun d r => d.store r.1 r.2.1 r.2.2) c.tile }
      | .none => p
    (q, b.drop l)) (p, b) |>.1

/-- The first bank not up that a beat touches, for the one BANKOFF event of a copy (R306). A write that is not performed touches none (R440;
log 167). -/
def Mach.downAt (m : Mach) (n : Nat) (c : Copy) (write : Bool) (a : Word) (len : Nat) : Option (Nat × Nat) :=
  (pieces a len).findSome? fun (ad, l) =>
    match m.placeOf n c.uid c.job ad with
    | .spad k s => if write && m.muteAt n c.ctx k s l then none else ((m.cl k).firstDown s l).map fun b => (k, b)
    | _ => none

def Perf.bankOnce (p : Perf) (n : Nat) (c : Copy) (write : Bool) (a : Word) (len : Nat) : Copy × Perf :=
  if c.bankEv then (c, p)
  else
    match p.old.downAt n c write a len with
    | none => (c, p)
    | some (k, b) => ({ c with bankEv := true }, if p.m.follows n then p
        else p.mod fun m => m.postFrom k n c.ctx cBANKOFF (bankInfo n b (rd (m.cl k).banks b == 2)))

/-! ### gathers and scatters (R258, R259) -/

/-- Element i's index acts: no hole, and within the table's limit. -/
inductive Elt where
  | hole
  | beyond
  | at_ (a : Word)
deriving DecidableEq, Repr

/-- What an index names in the table at `tbl` (R259). -/
def Copy.elt (c : Copy) (tbl : Word) (ix : BitVec 32) : Elt :=
  if ix.msb then .hole
  else
    let e := 2 ^ c.esz
    let o := offOf tbl + ix.toNat * e
    if o < c.lim.1 ∨ c.lim.2 < o + e then .beyond else .at_ (addAddr tbl ((ix.toNat * e : Nat) : Int))

def Copy.isScat (c : Copy) : Bool :=
  match c.kind with
  | .scat => true
  | _ => false

def Copy.isGath (c : Copy) : Bool :=
  match c.kind with
  | .gath => true
  | _ => false

/-- All the indices of a copy's list have been read. -/
def Copy.listed (c : Copy) : Bool := !(c.isGath || c.isScat) || decide (c.nidx ≤ c.idx.length)

/-- A copy that has completed by an age. -/
def Copy.done (c : Copy) (a : Nat) : Bool :=
  match c.kind with
  | .bmset _ => false
  | .plain | .gath | .scat | .bmchk _ _ _ => decide (c.eta ≤ a) && c.listed

/-- The table's address in its one iteration. -/
def Copy.table (c : Copy) : Word :=
  match c.iters with
  | [] => 0
  | it :: _ => if c.isScat then it.dst else it.src

/-- The data phase of a gather or scatter whose table lies in device memory, once its last index is read (R319). -/
def Mach.replan (m : Mach) (n : Nat) (c : Copy) (busy : Nat) : Copy × Mach :=
  match c.iters with
  | it :: rest =>
    if spaceOf c.table ≠ 0 ∨ m.follows n then (c, m)
    else
      let as := c.idx.filterMap fun ix => match c.elt c.table ix with
        | .at_ a => some a
        | _ => none
      let tab := End.dev ((as.flatMap fun a => m.ctrls n c.uid c.job (offOf a) (2 ^ c.esz)).eraseDups)
      let (e1, e2) := if c.isScat then (m.endOf n c.uid c.job it.src it.len, tab) else (tab, m.endOf n c.uid c.job it.dst it.out)
      let (base, width, wheels) := pathOf n e1 e2
      let first := c.issued + 4 + (c.nidx + 23) / 24 + base + stageLat c.stg
      let m := m.unclaim (it.slots m.offset)
      let (it, m) := m.reslot c.act
        { it with base := base, width := width, wheels := wheels, claimed := false, lead := base + stageLat c.stg - 2 } (max first busy)
      ({ c with iters := it :: rest }, m)
  | [] => (c, m)

/-- The reads of an index group (R259), and what comes of them: the copy, the first element of a strict list out of range. -/
def Perf.group (p : Perf) (n : Nat) (c : Copy) (age busy : Nat) : Copy × Option (Nat × BitVec 32) × Perf :=
  let g := c.idx.length / 24
  if c.idx.length < c.nidx && decide (age = c.issued + 4 + g) then
    let cnt := min 24 (c.nidx - 24 * g)
    let ad : Word := BitVec.ofNat 64 (2 ^ 60 + c.list + 96 * g)
    let (c, p) := p.bankOnce n c false ad (4 * cnt)
    let (bs, p) : Marked × Perf := match p.m.leadRead n 0 with
      | some r => (markedOf r.1, p.mod fun m => m.tookRead n 0)
      | none =>
        let (b, _, p) := p.fetch n c.uid c.job false ad (4 * cnt)
        (b, p.mod fun m => m.noteRead n 0 b.noted false)
    let new := (chunks 4 bs).map fun q => BitVec.ofNat 32 (Marked.nat q)
    let bad := ((chunks 4 bs).zipIdx.filter fun q => Marked.bad q.1).map fun q => c.idx.length + q.2
    let out (ix : BitVec 32) : Bool := c.elt c.table ix == .beyond
    let fault := if c.strict then (new.zipIdx.find? fun q => out q.1).map fun q => (24 * g + q.2, q.1) else none
    let p := if !c.strict && new.any out then p.mod fun m => m.modCtx n c.ctx fun k => { k with gst := true } else p
    let c := { c with idx := c.idx ++ new, idxBad := c.idxBad ++ bad }
    if c.idx.length = c.nidx then
      let (c, m) := p.m.replan n c busy
      (c, fault, { p with m := m })
    else (c, fault, p)
  else (c, none, p)

/-! ### beats -/

/-- Bytes of element i: all marked if its index was (R264). -/
def Copy.tainted (c : Copy) (i : Nat) (b : Marked) : Marked := if c.idxBad.contains i then b.map fun q => (q.1, true) else b

/-- The elements of a gather's stream named, and the blocks of device memory read. -/
def Perf.gatherElts (p : Perf) (n : Nat) (c : Copy) (is : List Nat) (quiet : Bool) : Marked × List Nat × Perf :=
  let e := 2 ^ c.esz
  is.foldl (fun (acc, ks, p) i =>
    match c.elt c.table (c.idx.getD i 0) with
    | .at_ a =>
      let (b, k, p) := p.fetch n c.uid c.job quiet a e
      (acc ++ c.tainted i b, ks ++ k, p)
    | _ => (acc ++ c.tainted i (markAll false (leBytes e (c.fill.toNat * (2 ^ 32 + 1)))), ks, p)) ([], [], p)

/-- Source bytes from..from+len of an iteration, and the blocks of device memory read. -/
def Perf.source (p : Perf) (n : Nat) (c : Copy) (it : Iter) (from_ len : Nat) (quiet : Bool) : Marked × List Nat × Perf :=
  if c.isGath then
    let e := 2 ^ c.esz
    p.gatherElts n c ((List.range (len / e)).map (from_ / e + ·)) quiet
  else p.fetch n c.uid c.job quiet (addAddr it.src (from_ : Int)) len

/-- The banks that the table's elements of a beat touch, `len` bytes each (R306). -/
def Perf.bankElts (p : Perf) (n : Nat) (c : Copy) (write : Bool) (from_ cnt len : Nat) : Copy × Perf :=
  (List.range cnt).foldl (fun (c, p) i => match c.elt c.table (c.idx.getD (from_ + i) 0) with
    | .at_ a => p.bankOnce n c write a len
    | _ => (c, p)) (c, p)

/-- The read beat of an iteration due at this age (R322). A follower takes what its lead read, but its own tile store it reads itself (R439). -/
def Perf.readBeat (p : Perf) (n : Nat) (c : Copy) (it : Iter) (age : Nat) : Copy × Iter × Perf :=
  let done := it.got.length
  if done < it.len && decide (it.d ≤ age + it.lead - done / it.width) && (c.idx.length == c.nidx) then
    let len := min it.width (it.len - done)
    let own := !c.isGath && spaceOf it.src == 2
    match if own then none else p.m.leadRead n 0 with
    | some (bs, _) => (c, { it with got := it.got ++ markedOf bs }, p.mod fun m => m.tookRead n 0)
    | none =>
      let (b, ks, p) := p.source n c it done len false
      let p := p.meets ks
      let (c, p) := if c.isGath then p.bankElts n c false (done / 2 ^ c.esz) (len / 2 ^ c.esz) (2 ^ c.esz)
        else p.bankOnce n c false (addAddr it.src (done : Int)) len
      (c, { it with got := it.got ++ b }, if own then p else p.mod fun m => m.noteRead n 0 b.noted false)
  else (c, it, p)

/-- All the bytes that an iteration's stages make; source bytes not yet read are taken as memory holds them. -/
def Perf.staged (p : Perf) (n : Nat) (c : Copy) (it : Iter) : Marked :=
  let miss := it.len - it.got.length
  let src := if miss = 0 then it.got else it.got ++ (p.source n c it it.got.length miss true).1
  stages c.stg c.fmt (if stSum c.stg then it.out - 32 else it.out) src

/-- The word of device memory to which an element is added, as it stands at its turn: a follower takes what its lead took (R439). -/
def Perf.addend (p : Perf) (n pa : Nat) : (List Byte × Bool) × Perf :=
  match p.m.leadRead n 0 with
  | some r => (r, p.mod fun m => m.tookRead n 0)
  | none =>
    let r := (p.m.pack.dev.bytes pa 4, p.m.pack.dev.isBad pa 4)
    (r, (p.mod fun m => m.modPack fun q => q.meets q (blocksOf pa 4)).mod fun m => m.noteRead n 0 r.1 r.2)

/-- One element of a scatter written (R259). An addition in another cluster's scratchpad is performed there: its commit record holds the
element that is added (R438; log 160). -/
def Perf.scatElt (p : Perf) (n : Nat) (c : Copy) (b : Marked) (esz i : Nat) : Perf :=
  match c.elt c.table (c.idx.getD i 0) with
  | .at_ a =>
    let el := c.tainted i ((b.drop (esz * i)).take esz)
    if !c.add then p.put n c.ctx c.uid c.job a el
    else
      match p.m.placeOf n c.uid c.job a with
      | .spad k s =>
        if k = clusOf n then p.addAt k n c.ctx s c.fmt (Marked.nat el) (Marked.bad el) false
        else
          let p := p.mod fun m => m.commitWrite n c.ctx 3 (offOf a) (el.map Prod.fst)
          if p.m.muteAt n c.ctx k s 4 then p
          else p.mod fun m => m.modCl k fun q => { q with remote := q.remote ++
            [{ by_ := n, addr := s, data := el.map Prod.fst, bad := Marked.bad el, add := some c.fmt }] }
      | .dev pa =>
        let ((bs, bad), p) := p.addend n pa
        if bad then p
        else p.put n c.ctx c.uid c.job a (markAll (Marked.bad el) (leBytes 4 (addWord c.fmt (ofBytes bs) (Marked.nat el))))
      | _ => p
  | _ => p

/-- The write beat of an iteration in this age (R251). -/
def Perf.writeBeat (p : Perf) (n : Nat) (c : Copy) (it : Iter) (age : Nat) : Copy × Perf :=
  if age < it.d || decide (it.d + it.beats ≤ age) then (c, p)
  else
    let j := age - it.d
    match c.kind with
    | .bmchk k inv bit =>
      let b := ((p.staged n c { it with out := 1 }).headD (0, false)).1.getLsbD bit
      (c, if k = 0 then p else p.mod fun m => m.modCtx n c.ctx fun u => u.fly { due := it.d + 1, ord := 8 * c.issued + 7, what := .k k (b != inv), poison := false })
    | .bmset _ => (c, p)
    | .plain | .gath =>
      let b := ((p.staged n c it).drop (it.width * j)).take it.width
      let a := addAddr it.dst ((it.width * j : Nat) : Int)
      let (c, p) := if b.isEmpty then (c, p) else p.bankOnce n c true a b.length
      (c, p.put n c.ctx c.uid c.job a b)
    | .scat =>
      let b := p.staged n c it
      let esz := (if stSum c.stg then it.out - 32 else it.out) / c.nidx
      let is := (List.range c.nidx).filter fun i => esz * i / it.width == j
      let (c, p) := p.bankElts n c true (is.headD 0) is.length esz
      (c, is.foldl (fun p i => p.scatElt n c b esz i) p)

/-- The iterations of a copy through their read beats. -/
def Perf.readIters (p : Perf) (n : Nat) (c : Copy) (age : Nat) (its : List Iter) : Copy × List Iter × Perf :=
  match its with
  | [] => (c, [], p)
  | it :: rest =>
    let (c, it, p) := p.readBeat n c it age
    let (c, its, p) := p.readIters n c age rest
    (c, it :: its, p)

/-- The age before which no data phase of a copy's iteration begins (R251, R259). -/
def Copy.earliest (c : Copy) (it : Iter) : Nat :=
  c.issued + (if c.isGath || c.isScat then 4 + (c.nidx + 23) / 24 else 0) + it.base + stageLat c.stg

/-- An iteration whose reads have not begun at an age. -/
def Iter.unread (it : Iter) (age : Nat) : Bool := decide (age + it.lead < it.d) && it.got.isEmpty

/-- The iterations of a copy behind a data phase that ends at `busy` (R251): one whose phase has not begun at `age` starts no earlier, and
one that has no slot yet looks for it. Where work before it has been taken away (`pull`), one whose reads have not begun takes the first place
that is left (log 174). -/
def Mach.behind (m : Mach) (c : Copy) (age busy : Nat) (pull : Bool) (its : List Iter) : List Iter × Mach :=
  match its with
  | [] => ([], m)
  | it :: rest =>
    let free := it.wheels.isEmpty || it.claimed
    let stays := decide (it.d ≤ age) || decide (busy ≤ it.d) && free
    let (it, m) := if pull && it.unread age then m.reslot c.act it (max (c.earliest it) (max busy (age + it.lead)))
      else if stays then (it, m)
      else m.reslot c.act it (if free then busy else max busy (age + 3 + it.lead))
    let (its, m) := m.behind c age (it.d + it.beats) pull rest
    (it :: its, m)

/-- A copy takes its place behind those before it; a follower's stays two cycles behind its lead's (R389). -/
def Mach.queued (m : Mach) (n age busy : Nat) (pull : Bool) (c : Copy) : Copy × Mach :=
  if !c.copies then (c, m)
  else if m.follows n then ({ c with iters := m.mirrored n c.serial c.iters }, m)
  else
    let (its, m) := m.behind c age busy pull c.iters
    ({ c with iters := its }, m)

/-- The copies of an engine, in their order, behind one another. -/
def Mach.lineUp (m : Mach) (n age busy : Nat) (cs : List Copy) : List Copy × Mach :=
  match cs with
  | [] => ([], m)
  | c :: rest =>
    let (c, m) := m.queued n age busy true c
    let (cs, m) := m.lineUp n age (busyAfter busy c) rest
    (c :: cs, m)

/-- Work has been taken away from an engine: what is left moves up (R251). -/
def Mach.pullUp (m : Mach) (n e age : Nat) : Mach :=
  let cs := (rd (m.core n).eng e).copies
  if cs.isEmpty then m
  else
    let (cs, m) := m.lineUp n age 0 cs
    m.modEng n e fun g => { g with copies := cs }

/-- The slots of a copy's phases that have not begun at an age are given back. -/
def Mach.giveBack (m : Mach) (c : Copy) (a : Nat) : Mach :=
  m.unclaim (c.iters.flatMap fun i => if a < i.d then i.slots m.offset else [])

/-- Work leaves its engine at age a: its ranges disarm, and what waits for it goes on from its completion (R251, R256, R260, R263,
R279). -/
def Mach.leaves (m : Mach) (n : Nat) (c : Copy) (a : Nat) : Mach :=
  let waits (q : Copy) : Copy := if !q.copies && c.before q.ctx q.issued
    then { q with iters := q.iters.map fun i => { i with d := max i.d (a + 24) } } else q
  let m := (List.range 2).foldl (fun m e => if (rd (m.core n).eng e).copies.isEmpty then m
    else m.modEng n e fun g => { g with copies := (g.copies.filter fun q => q.serial != c.serial).map waits }) (m.giveBack c a)
  m.modCtx n c.ctx fun k => { k with
    armed := (k.armed.map fun r => { r with copies := r.copies.filter (· ≠ c.serial) }).filter fun r => !r.copies.isEmpty
    run := match k.run with
      | .drain scope i t cs => if c.issued < i then .drain scope i (max t (a + scopeA scope)) cs else .drain scope i t cs
      | r => r
    taskdone := k.taskdone.map fun q => if c.copies && decide (c.issued < q.issued) then { q with from_ := max q.from_ (a + 1) } else q }

/-- The fault of a strict gather or scatter whose element i is out of range (R242, R259). -/
def eltFault (i : Nat) (ix : BitVec 32) : Exc := exc cBOUNDS (BitVec.ofNat 64 (i * 2 ^ 32 + ix.toNat))

/-- The key under which a lead notes that a copy of it has stopped. -/
def stopKey (serial : Nat) : Nat := 2 ^ 20 + serial

/-- The reads of an engine in a cycle: index groups and read beats. A strict index out of range ends its copy; the fault goes to its
context if that still holds the task, else to the pair (R242); a follower's copy whose lead's was charged so, two cycles earlier, ends with no
second charge (R389). Where the data phase of a gather or scatter comes earlier once its indices are known (R319), those behind it move up
(R251). -/
def Perf.readEngine (p : Perf) (n age busy : Nat) (pull : Bool) (cs : List Copy) : List Copy × List (Copy × Exc) × Perf :=
  match cs with
  | [] => ([], [], p)
  | c :: rest =>
    let (c, m) := p.m.queued n age busy pull c
    if (m.leadRead n (stopKey c.serial)).isSome then
      let (cs, fs, p) := Perf.readEngine { p with m := m.tookRead n (stopKey c.serial) } n age busy true rest
      (cs, fs, p.mod fun m => m.leaves n c age)
    else
    let was := busyAfter busy c
    let (c, bad, p) := Perf.group { p with m := m } n c age busy
    match bad with
    | none =>
      let (c, its, p) := p.readIters n c age c.iters
      let (cs, fs, p) := p.readEngine n age (busyAfter busy c) (pull || decide (busyAfter busy c < was)) rest
      ({ c with iters := its } :: cs, fs, p)
    | some (i, ix) =>
      let here := p.old.sameTask n c.ctx c.uid
      let (cs, fs, p) := p.readEngine n age busy true rest
      if here then (cs, (c, eltFault i ix) :: fs, p)
      else (cs, fs, p.mod fun m => (m.postCtx n c.ctx cBOUNDS (eltFault i ix).info).leaves n c age)

/-- The writes of an engine in a cycle. -/
def Perf.writeEngine (p : Perf) (n age : Nat) (cs : List Copy) : List Copy × Perf :=
  match cs with
  | [] => ([], p)
  | c :: rest =>
    let (c, p) := c.iters.foldl (fun (c, p) it => Perf.writeBeat p n c it age) (c, p)
    let (cs, p) := p.writeEngine n age rest
    (c :: cs, p)

/-- A bit of device memory is set by an atomic OR. -/
def Mach.setBit (m : Mach) (pa bit : Nat) : Mach :=
  m.modPack fun p => p.devStore pa [p.dev.byte pa ||| BitVec.ofNat 8 (2 ^ bit)] false

/-- The bmset and its bit whose cycle has come: none of the work issued before it is outstanding (R263). -/
def Core.settingOf (c : Core) (a : Nat) (q : Copy) : Option (Copy × Nat) :=
  match q.kind with
  | .bmset b => if q.eta ≤ a ∧ !(c.copies.any fun p => p.before q.ctx q.issued) then some (q, b) else none
  | .plain | .gath | .scat | .bmchk _ _ _ => none

/-- The bmsets of an engine whose cycle has come. -/
def Core.setting (c : Core) (e a : Nat) : List (Copy × Nat) := (rd c.eng e).copies.filterMap (c.settingOf a)

/-- A bmset sets its bit at age a (R263), at the place its issue translated (R317). -/
def Mach.setsBit (m : Mach) (n a : Nat) (q : Copy × Nat) : Mach :=
  let (c, bit) := q
  let it := c.iters.headD default
  let m := m.commitWrite n c.ctx 0 it.dst.toNat [BitVec.ofNat 8 (2 ^ bit)]
  (if m.mute n c.ctx then m else m.setBit it.src.toNat bit).leaves n c a

def Perf.setCopies (p : Perf) (n e : Nat) (cs : List Copy) : Perf :=
  if (rd (p.m.core n).eng e).copies.isEmpty then p
  else p.mod fun m => m.modEng n e fun g => { g with copies := cs }

end Sys2Proof.Machine
end

