-- ==== Sys2Proof/Machine/Unit.lean ====
section
/-! DEFINITION. A cycle of the tile store and the matrix unit: class 8 accesses, product blocks, row moves, transposes and tile
sums (R205, R210, R213, R222 to R231). -/

namespace Sys2Proof.Machine

/-! ### class 8 accesses (R213) -/

/-- The accesses of a core's class 8 slots due in a cycle, and the rest. Two that fall due together go in the order of their issue (R210;
log 169). -/
def dueTile (l : List TilePending) (age : Nat) : List TilePending × List TilePending :=
  (l.filter fun q => decide (q.due ≤ age), l.filter fun q => decide (age < q.due))

/-- The reads. -/
def Perf.tileRead (p : Perf) (n : Nat) (q : TilePending) : Perf :=
  match q.acc with
  | .get a len dest land =>
    let t := (p.old.core n).tile
    (p.tileErrors n [(a, len)]).mod fun m => m.deliver n q.ctx none q.ord q.due land { (default : VEnv) with lanes := BitVec.allOnes 192 }
      (outV (bytesVec (t.bytes a len))) (t.isBad a len) [dest]
  | .put _ _ _ _ | .zero _ => p

def Mach.modTile (m : Mach) (n : Nat) (f : Memory → Memory) : Mach := m.modCore n fun c => { c with tile := f c.tile }

/-- Bytes written to a tile store, with their commit record (R438: space 2). -/
def Perf.tilePut (p : Perf) (n x a : Nat) (bs : List Byte) (bad : Bool) : Perf :=
  p.mod fun m => (m.commitWrite n x 2 a bs).modTile n fun t => t.store a bs bad

/-- The writes. -/
def Perf.tileWrite (p : Perf) (n : Nat) (q : TilePending) : Perf :=
  match q.acc with
  | .put a len v bad => p.tilePut n q.ctx a (leBytes len v.toNat) bad
  | .zero rs => rs.foldl (fun p r => p.tilePut n q.ctx r.1 (List.replicate r.2 0) false) p
  | .get _ _ _ _ => p

/-! ### the product step (R222 to R224) -/

/-- A product step: its tiles, the first blocks of A and B, and the index tile of a sparse one. -/
structure Product where
  a  : Word
  b  : Word
  c  : Word
  ja : Nat
  jb : Nat
  tm : Option Word
deriving DecidableEq, Repr

/-- The product step that a micro-operation is, with its operand X. -/
def Matrix.product (u : Matrix) : Option Product :=
  let sh (t : BitVec 4) := rd u.shapes t.toNat
  let mk (a b c : BitVec 4) (tm : Option Word) : Option Product :=
    some { a := sh a, b := sh b, c := sh c, ja := fld u.x 8 8, jb := fld u.x 16 8, tm := tm }
  match u.op with
  | some (.mmac a b c _ _ _) => mk a b c none
  | some (.mmacs a b c _ _ _) => mk a b c (some (sh (fldV u.x 24 4)))
  | some (.mmacq a b c _ _ _) => mk a b c none
  | _ => none

/-- Where block j of row r lies: n elements, or group j of an INT4Q row (R221). -/
def blockAt (sh : Word) (r j n : Nat) : Nat × Nat :=
  if shFmt sh = 9 then (rowAt sh r + 16 * j, 16) else (rowAt sh r + n * j * fmtWidth (shFmt sh), n * fmtWidth (shFmt sh))

/-- Its elements as codes, an INT4Q group expanded to BF16 (R102). -/
def blockOf (t : Memory) (sh : Word) (r j n : Nat) : List Nat :=
  let (a, len) := blockAt sh r j n
  if shFmt sh = 9 then (List.range 24).map (int4q (t.nat a 16))
  else (chunks (fmtWidth (shFmt sh)) (t.bytes a len)).map ofBytes

/-- The format in which an operand's codes are read. -/
def opFmt (c : Nat) : Nat := if c = 9 then 1 else c

/-- Fine scales are read (R107, R222). -/
def Matrix.fine (u : Matrix) : Bool := fmtFsc u.fmt && u.path == 1

/-- The bytes that a block reads at its first cycle: operands, fine scales, indices, and the coarse scales when they are formed. -/
def Matrix.reads (u : Matrix) (q : Product) (b : Nat) : List (Nat × Nat) :=
  let nB := if q.tm.isSome then 12 else 24
  ((List.range (shRows q.c)).flatMap fun r =>
      blockAt q.a r (q.ja + b) 24 :: (if u.fine then [(scaleAt q.a r + q.ja + b, 1)] else [])) ++
    ((List.range (shCols q.c)).flatMap fun r =>
      blockAt q.b r (q.jb + b) nB :: ((if u.fine then [(scaleAt q.b r + q.jb + b, 1)] else []) ++
        (match q.tm with
         | some t => [(rowAt t r + 3 * (q.jb + b), 3)]
         | none => []))) ++
    (if u.g.isNone && fmtCsc u.fmt && u.path != 4
      then (scaleAt q.b 0 + 32, 4) :: ((List.range (shRows q.c)).map fun r => (scaleAt q.a r + 32, 4)) else [])

/-- What the block latches: A's rows, B's rows, fA, fB, indices. -/
def Matrix.latched (u : Matrix) (t : Memory) (q : Product) (b : Nat) : List (List Nat) :=
  let m := List.range (shRows q.c)
  let n := List.range (shCols q.c)
  let nB := if q.tm.isSome then 12 else 24
  m.map (fun r => blockOf t q.a r (q.ja + b) 24) ++ n.map (fun r => blockOf t q.b r (q.jb + b) nB) ++
    [m.map fun r => if u.fine then t.nat (scaleAt q.a r + q.ja + b) 1 else 0x78,
     n.map fun r => if u.fine then t.nat (scaleAt q.b r + q.jb + b) 1 else 0x78,
     n.map fun r => match q.tm with
       | some i => t.nat (rowAt i r + 3 * (q.jb + b)) 3
       | none => 0]

/-- g of R108, as FP32 codes of the rows. -/
def Matrix.coarse (u : Matrix) (t : Memory) (q : Product) : List (BitVec 32) :=
  (List.range (shRows q.c)).map fun r =>
    if fmtCsc u.fmt && u.path != 4 then
      BitVec.ofNat 32 (encF fp32 (fmtRM u.fmt)
        ((decF fp32 (t.nat (scaleAt q.a r + 32) 4)).mul (decF fp32 (t.nat (scaleAt q.b 0 + 32) 4))))
    else 0x3F800000#32

/-- The dense elements that a sparse column pairs with its 12 stored ones (R224). -/
def paired (as : List Nat) (ix : Nat) : List Nat :=
  (List.range 12).map fun i => as.getD (4 * (i / 2) + fld ix (2 * i) 2) 0

/-- The dense elements at pruned positions (R112). -/
def pruned (as : List Nat) (ix : Nat) : List Nat :=
  ((List.range 24).filter fun p => !((List.range 2).any fun h => fld ix (2 * (2 * (p / 4) + h)) 2 == p % 4)).map fun p => as.getD p 0

/-- One element of the product: the accumulator after the block (R113, R114). -/
def Matrix.accumulate (u : Matrix) (sparse : Bool) (as bs : List Nat) (fa fb ix : Nat) (g : BitVec 32) (acc : Nat) : Nat :=
  let rm := fmtRM u.fmt
  let as' := if sparse then paired as ix else as
  if u.path = 4 then
    let s := (as'.zipWith (fun x y => intVal (fmtA u.fmt) x * intVal (fmtB u.fmt) y) bs).sum
    intBits 7 (satI32 (intVal 7 acc + s))
  else
    let dec (c : Nat) (x : Nat) : FVal := decF (ffmt (opFmt c)) x
    let loose := sparse && fmtStrict u.fmt && (pruned as ix).any fun x => (dec (fmtA u.fmt) x).isNan || (dec (fmtA u.fmt) x).isInf
    let v := if loose then FVal.nan
      else blockSum rm (as'.map (dec (fmtA u.fmt))) (bs.map (dec (fmtB u.fmt))) (ue5m3 fa) (ue5m3 fb)
    encF fp32 rm (sumF rm [decF fp32 acc, rndFP32 rm (v.mul (decF fp32 g.toNat))])

/-- The rows of C after a block. A row beyond those of the first block has no g in R223 where coarse scales are read: its g is a free
value (log 32 names the field); without them every row's g is 1.0 (R108). -/
def Matrix.block (u : Matrix) (n age : Nat) (t : Memory) (q : Product) : List (Nat × List Byte) :=
  let m := shRows q.c
  let k := shCols q.c
  let l (i : Nat) := u.latch.getD i []
  (List.range m).map fun r =>
    let g := match (u.g.getD [])[r]? with
      | some v => v
      | none => if fmtCsc u.fmt && u.path != 4 then Config.freeScale n r age else 0x3F800000#32
    (rowAt q.c r, (List.range k).flatMap fun c =>
      leBytes 4 (u.accumulate q.tm.isSome (l r) (l (m + c)) ((l (m + k)).getD r 0) ((l (m + k + 1)).getD c 0)
        ((l (m + k + 2)).getD c 0) g (tileElt t q.c r c)))

/-! ### effects (R228) -/

/-- The unit, the tile bytes that its effect writes, and whether it stops: the cause. -/
structure MxOut where
  u     : Matrix
  puts  : List (Nat × List Byte × Bool)
  cause : Option Nat

/-- An effect: suppressed, or stopped by the count, or performed (R228, R234). -/
def Matrix.effect (u : Matrix) (f : Matrix → MxOut) : MxOut :=
  if 65535 ≤ u.xdone then { u := u, puts := [], cause := some 2 }
  else if 0 < u.supp then { u := { u with supp := u.supp - 1, xdone := u.xdone + 1 }, puts := [], cause := none }
  else
    let o := f u
    match o.cause with
    | some _ => o
    | none => { o with u := { o.u with xdone := o.u.xdone + 1 } }

def Memory.anyBad (t : Memory) (rs : List (Nat × Nat)) : Bool := rs.any fun r => t.isBad r.1 r.2

/-- A cycle of a product step: cycle i of its step (R222). R222 counts a block after its last cycle and R228 names no cycle for the stop
of a count that would pass 65,535: the routine stops at the block's first cycle, before it reads anything (log 138). -/
def Matrix.productCycle (u : Matrix) (n age i : Nat) (t : Memory) (q : Product) : MxOut :=
  let T := u.takes / max 1 (fld u.x 0 8)
  let b := i / T
  if i % T = 0 then
    if 65535 ≤ u.xdone then { u := u, puts := [], cause := some 2 }
    else if 0 < u.supp then { u := { u with supp := u.supp - 1, xdone := u.xdone + 1, latch := [] }, puts := [], cause := none }
    else if t.anyBad (u.reads q b) then { u := u, puts := [], cause := some 1 }
    else { u := { u with latch := u.latched t q b, g := some (u.g.getD (u.coarse t q)) }, puts := [], cause := none }
  else if i % T = T - 1 ∧ u.latch ≠ [] then
    if t.anyBad ((List.range (shRows q.c)).map fun r => (rowAt q.c r, rowBytes q.c)) then { u := u, puts := [], cause := some 1 }
    else { u := { u with latch := [], xdone := u.xdone + 1 }, puts := (u.block n age t q).map fun (a, bs) => (a, bs, false), cause := none }
  else { u := u, puts := [], cause := none }

/-- The sum of two tile elements (R226). -/
def tileSum (fmt : BitVec 22) (c x y : Nat) : Nat :=
  if c = 0 then encF fp32 (fmtRM fmt) (sumF (fmtRM fmt) [decF fp32 x, decF fp32 y])
  else intBits 7 (satI32 (intVal 7 x + intVal 7 y))

/-- Cycle i of the micro-operation in progress. -/
def Matrix.cycle (u : Matrix) (n age i : Nat) (t : Memory) (v : SMap VReg) : MxOut :=
  let sh (q : BitVec 4) := rd u.shapes q.toNat
  let none_ : MxOut := { u := u, puts := [], cause := none }
  match u.product with
  | some q => u.productCycle n age i t q
  | none =>
    match u.op with
    | some (.microMzero c) =>
      if i + 1 ≠ u.takes then none_
      else u.effect fun u =>
        { u := u, cause := none
          puts := (List.range (shRows (sh c))).map fun r => (rowAt (sh c) r, List.replicate (rowBytes (sh c)) 0, false) }
    | some (.microMldv c _ _ _) =>
      u.effect fun u =>
        let (a, len) := rowSpan (sh c) (fldB u.x 28) (fld u.x 8 12 + i)
        let r := rd v (u.vwb + fld u.x 0 7 + i)
        { u := u, puts := [(a, leBytes len r.val.toNat, r.poison)], cause := none }
    | some (.microMstv a _ _ _) =>
      u.effect fun u =>
        let (ad, len) := rowSpan (sh a) (fldB u.x 28) (fld u.x 8 12 + i)
        { u := { u with mres := u.mres ++ [{ due := age + 2, reg := u.vwb + fld u.x 0 7 + i, val := bytesVec (t.bytes ad len),
                                             poison := t.isBad ad len, ctx := u.ctx }] }
          puts := [], cause := none }
    | some (.mtrn a c) =>
      let s := sh a
      if i = 0 then
        if 65535 ≤ u.xdone then { u := u, puts := [], cause := some 2 }
        else if 0 < u.supp then { u := { u with supp := u.supp - 1, xdone := u.xdone + 1, latch := [] }, puts := [], cause := none }
        else if t.anyBad ((List.range (shRows s)).map fun r => (rowAt s r, rowBytes s)) then { u := u, puts := [], cause := some 1 }
        else { u := { u with latch := (List.range (shRows s)).map fun r => (List.range (shCols s)).map (tileElt t s r) }
               puts := [], cause := none }
      else if i + 1 = u.takes ∧ u.latch ≠ [] then
        { u := { u with latch := [], xdone := u.xdone + 1 }, cause := none
          puts := (List.range (shRows (sh c))).map fun r =>
            (rowAt (sh c) r, u.latch.flatMap fun row => leBytes (fmtWidth (shFmt s)) (row.getD r 0), false) }
      else none_
    | some (.maddt a b c) =>
      u.effect fun u =>
        let spans := [sh a, sh b].map fun s => (rowAt s i, rowBytes s)
        if t.anyBad spans then { u := u, puts := [], cause := some 1 }
        else
          { u := u, cause := none
            puts := [(rowAt (sh c) i, (List.range (shCols (sh c))).flatMap fun e =>
              leBytes 4 (tileSum u.fmt (shFmt (sh c)) (tileElt t (sh a) i e) (tileElt t (sh b) i e)), false)] }
    | _ => none_

/-- The bytes of the tile store that cycle i of the micro-operation in progress reads (R222, R225, R226). -/
def Matrix.readSpans (u : Matrix) (i : Nat) : List (Nat × Nat) :=
  let sh (q : BitVec 4) := rd u.shapes q.toNat
  let rows (s : Word) : List (Nat × Nat) := (List.range (shRows s)).map fun r => (rowAt s r, rowBytes s)
  if 65535 ≤ u.xdone ∨ 0 < u.supp then []
  else
    match u.product with
    | some q =>
      let T := u.takes / max 1 (fld u.x 0 8)
      if i % T = 0 then u.reads q (i / T) else if i % T = T - 1 ∧ u.latch ≠ [] then rows q.c else []
    | none =>
      match u.op with
      | some (.microMstv a _ _ _) => [rowSpan (sh a) (fldB u.x 28) (fld u.x 8 12 + i)]
      | some (.mtrn a _) => if i = 0 then rows (sh a) else []
      | some (.maddt a b _) => [(rowAt (sh a) i, rowBytes (sh a)), (rowAt (sh b) i, rowBytes (sh b))]
      | _ => []

/-- The matrix unit of core n in this cycle: the machine, and the cause with which its routine stops. -/
def Perf.matrix (p : Perf) (n age : Nat) : Perf × Option Nat :=
  let c := p.m.core n
  let u := c.mx
  if u.state ≠ 1 ∨ u.op.isNone ∨ age < u.began ∨ age < c.still ∨ u.began + u.takes ≤ age then (p, none)
  else
    let o := u.cycle n age (age - u.began) (p.old.core n).tile (p.old.core n).v
    let p := (p.tileErrors n (u.readSpans (age - u.began))).mod fun m => m.modMx n fun _ => o.u
    (o.puts.foldl (fun p (a, bs, bad) => p.tilePut n u.ctx a bs bad) p, o.cause)

/-- A result of MSTV lands, with its commit record (R237, R438). -/
def Mach.landRow (m : Mach) (n : Nat) (r : MxResult) : Mach :=
  (m.commitReg n r.ctx 4 r.reg 0).modCore n fun c => { c with v := wr c.v r.reg { val := r.val, poison := r.poison } }

/-- Results of MSTV land after every slot result of the cycle (R225). -/
def Mach.landMx (m : Mach) (n age : Nat) : Mach :=
  let u := (m.core n).mx
  if u.mres.isEmpty then m
  else
    (u.mres.filter fun r => decide (r.due ≤ age + 1)).foldl (fun m r => m.landRow n r)
      (m.modMx n fun u => { u with mres := u.mres.filter fun r => decide (age + 1 < r.due) })

end Sys2Proof.Machine
end

