-- ==== Sys2Proof/Machine/System.lean ====
section
/-! DEFINITION. Class 11: control registers, returns, freeze actions, planes, twins, banks, posts (R153 to R160, R278, R279), and
the control registers by number. -/

namespace Sys2Proof.Machine

/-! ### control registers by number (R153, R381, R394, R400, R41, R42, R54, R443) -/

/-- A point that may be unset reads as all ones (R66, R378). -/
def pointWord (p : Option Nat) : Word :=
  match p with
  | none => BitVec.allOnes 64
  | some n => BitVec.ofNat 64 n

/-- RSTAT (R46). -/
def Region.rstat (g : Region) : Word :=
  BitVec.ofNat 64 (bnat g.caderr * 64 + bnat g.floor * 32 + bnat g.clamp * 16 + bnat g.unlock * 8 + g.state % 8)

def Region.rcfg (g : Region) : Word := BitVec.ofNat 64 (g.mode % 2 * 16 + g.src % 16)

/-- DRSTAT (R400). -/
def Cluster.drstat (c : Cluster) : Word :=
  BitVec.ofNat 64 (bnat c.drovf * 2 ^ 63 + bnat c.blocked * 2 ^ 62 + c.drreason % 8 * 2 ^ 32 + c.ringCount % 2 ^ 32)

/-- CRCFG (R41). -/
def Source.crcfg (u : Source) : Word :=
  BitVec.ofNat 64 (u.eport % 16 * 2 ^ 18 + u.sbytes % 1024 * 2 ^ 8 + u.port % 16 * 16 + u.lbw % 4 * 4 + u.kind % 4)

/-- The index that a core reads as its own: a follower its lead's, a duplicate its primary's (R439, R440). A control core, which R6 gives no
index, reads 384 plus the number of its cluster (log 189). -/
def Mach.coreIndex (m : Mach) (n x : Nat) : Nat :=
  if m.follows n then n - 1
  else if (m.ctx n x).task.any fun t => t.dup == 2 then 8 * (n / 8) + (n % 8 + 7) % 8
  else n

/-- A control register of a context (numbers below 0x100). On a control core CORE reads 384 plus its cluster, and TWIN 0 (log 189). -/
def Mach.ctxCtl (m : Mach) (n x num : Nat) : Option Word :=
  let c := m.ctx n x
  let g := m.region (m.regionOf (clusOf n))
  let w (k : Nat) : Option Word := some (BitVec.ofNat 64 k)
  match num with
  | 0x000 => some (c.fmt.setWidth 64)
  | 0x001 => some (c.masksel.setWidth 64)
  | 0x002 => w c.vwb
  | 0x003 => w c.vws
  | 0x004 => w c.rot
  | 0x005 => w c.rrb
  | 0x006 => w c.prb
  | 0x007 => some c.lc
  | 0x008 => some (c.slim.setWidth 64)
  | 0x009 => w c.tok
  | 0x00A => some (c.trapc.setWidth 64)
  | 0x00B => some c.trapi
  | 0x00C => some (pointWord c.pp)
  | 0x00D => some (pointWord c.hp)
  | 0x010 => w (m.coreIndex n x)
  | 0x011 => w (m.cyc n)
  | 0x012 => w (if m.follows n then 1 else (m.core n).twin.toNat)
  | 0x013 => w ((c.task.map fun t => t.tile.1).getD 0)
  | 0x020 => w g.cadl
  | 0x021 => w g.cadd
  | 0x022 => w g.phase
  | 0x023 => w g.scnt
  | 0x024 => w g.slack
  | 0x025 => w g.slipc
  | 0x026 => w g.skipc
  | 0x027 => w g.hemc
  | 0x028 => w g.holdt
  | 0x029 => some g.rcfg
  | 0x02A => some (g.mask.setWidth 64)
  | 0x02B => some g.rstat
  | 0x030 => w (m.regionOf (clusOf n))
  | _ => none

/-- A register of the cadence units, media streams and gussets (R56). -/
def Mach.cadCtl (m : Mach) (num : Nat) : Option Word :=
  if num < 0x1640 then
    let u := m.source ((num - 0x1600) / 4)
    match num % 4 with
    | 0 => some u.crcfg
    | 1 => some (u.freq.setWidth 64)
    | 2 => some (u.err.setWidth 64)
    | _ => none
  else if num < 0x1680 then
    let e := rd m.pack.media ((num - 0x1640) / 4)
    match num % 4 with
    | 0 => some e.ssid
    | 1 => some e.cfg
    | 2 => some e.dir
    | _ => none
  else if num < 0x1700 ∨ 0x1900 ≤ num then none
  else
    let g := m.gusset ((num - 0x1700) / 8)
    match num % 8 with
    | 0 => some (BitVec.ofNat 64 (bnat g.err * 2 ^ 23 + g.cfg.toNat))
    | 1 => some (g.gstep.setWidth 64)
    | 2 => some (BitVec.ofNat 64 g.ents.length)
    | 3 => some (g.ovrc.setWidth 64)
    | 4 => some (g.undc.setWidth 64)
    | _ => none

/-- A register of a control pair: number 0x100 and above, of the pair of cluster k. -/
def Mach.pairCtl (m : Mach) (k num : Nat) : Option Word :=
  let p := m.pair k
  let c := m.cl k
  let g := m.region (m.regionOf k)
  match num with
  | 0x100 => some (BitVec.ofNat 64 (p.save * 2 ^ 17))
  | 0x101 => some (p.evo.setWidth 64)
  | 0x102 => some (p.hvec.setWidth 64)
  | 0x103 => some (p.epc.setWidth 64)
  | 0x104 => some 0
  | 0x105 => some (BitVec.ofNat 64 (bnat p.ovf * 256 + (p.evs.length + p.frzs.length)))
  | 0x110 | 0x111 => some (rd c.regs num)
  | 0x112 => some c.drstat
  | 0x113 | 0x114 => some 0
  | 0x120 => some (BitVec.ofNat 64 (bnat g.pre * 2 ^ 28 + g.sd % 2 ^ 24))
  | 0x130 => some 0
  | 0x140 => some 0
  | 0x150 => some m.pack.ldlist
  | 0x151 => some 0
  | 0x152 => some m.pack.ldstat
  | 0x154 => some c.spare
  | 0x160 | 0x161 => some (rd m.pack.regs num)
  | _ =>
    if 0x148 ≤ num ∧ num < 0x150 then some ((rd m.pack.crate (num - 0x148)).setWidth 64)
    else if num = 0x170 ∨ num = 0x171 then some ((rd c.fleet (num - 0x170)).setWidth 64)
    else if num = 0x175 ∨ num = 0x176 then some ((rd c.fleet (num - 0x173)).setWidth 64)
    else if (0x172 ≤ num ∧ num ≤ 0x174) ∨ (0x180 ≤ num ∧ num < 0x1C0) then some ((rd m.pack.counters num).setWidth 64)
    else if (0x200 ≤ num ∧ num < 0x300) ∨ (0x400 ≤ num ∧ num < 0x1600) then some (rd c.regs num)
    else if 0x1600 ≤ num then m.cadCtl num
    else none

/-- A control register as context x of core n reads it; none if the number is unassigned. -/
def Mach.readCtl (m : Mach) (n x num : Nat) : Option Word :=
  if num < 0x100 then m.ctxCtl n x num else m.pairCtl (clusOf n) num

/-- Registers that MTC writes in any context. -/
def anyWritable (num : Nat) : Bool := num == 1 || decide (4 ≤ num ∧ num ≤ 8)

/-- Registers below 0x100 that only a control pair writes. -/
def regionWritable (num : Nat) : Bool := [0x022, 0x024, 0x025, 0x026, 0x028].contains num

/-- Registers from 0x100 up that MTC writes; the loader's, LGRT and PPR belong to the command processor, the pair of cluster 0
(R428, R433, R434). -/
def pairWritable (k num : Nat) : Bool :=
  [0x100, 0x102, 0x103, 0x104, 0x105, 0x110, 0x111, 0x112, 0x113, 0x114, 0x120, 0x130, 0x140, 0x154, 0x161].contains num ||
    [0x150, 0x151, 0x160].contains num && k == 0 ||
    decide (0x170 ≤ num ∧ num ≤ 0x176) || decide (0x180 ≤ num ∧ num < 0x1C0) || decide (0x200 ≤ num ∧ num < 0x300) ||
    decide (0x400 ≤ num ∧ num < 0x1600) ||
    decide (0x1600 ≤ num ∧ num < 0x1640 ∧ (num % 4 = 0 ∨ num % 4 = 2)) ||
    decide (0x1640 ≤ num ∧ num < 0x1680 ∧ num % 4 ≠ 3) ||
    decide (0x1700 ≤ num ∧ num < 0x1900 ∧ (num % 8 < 2 ∨ num % 8 = 3 ∨ num % 8 = 4))

/-! ### values that a register takes -/

/-- OPER 2 of a value for ROT, RRB or PRB (R75). -/
def Ctx.refuses (c : Ctx) (num : Nat) (v : Word) : Bool :=
  match num with
  | 4 => decide (c.vws < v.toNat ∨ v.toNat % 8 ≠ 0)
  | 5 => if c.rot = 0 then v != 0 else decide (c.rot ≤ v.toNat)
  | 6 => decide (7 < v.toNat)
  | _ => false

/-- A context register takes a value; ROT also clears RRB (R75). -/
def Ctx.putCtl (c : Ctx) (num : Nat) (v : Word) : Ctx :=
  match num with
  | 1 => { c with masksel := v.setWidth 8 }
  | 4 => { c with rot := v.toNat, rrb := 0 }
  | 5 => { c with rrb := v.toNat }
  | 6 => { c with prb := v.toNat }
  | 7 => { c with lc := v }
  | 8 => { c with slim := v.setWidth 22 }
  | _ => c

/-- The record of a context in a freeze. -/
def Region.recOf (g : Region) (n x : Nat) : Option FreezeRec := g.recs.find? fun r => r.core == n && r.ctx == x

/-- An action is noted on the record of a context; a rewind or a kill of a core of a twin pair on both (R389). -/
def Mach.noteAct (m : Mach) (k n x : Nat) (act : FreezeAct) : Mach :=
  let ns := match act with
    | .thaw _ => [n]
    | .rewind | .kill _ => n :: m.partner n
  m.modRegion (m.regionOf k) fun g =>
    { g with recs := g.recs.map fun q => if ns.contains q.core && q.ctx == x then { q with act := some act } else q }

/-- The core and context that an action names (R155, R381), and OPER 6 of the places that no action reaches (R384, R387). -/
def State.chkAct (s : State) (v : Word) : Except Exc FreezeRec := do
  let n := fld v.toNat 0 9
  let g := s.next.region (s.next.regionOf (clusOf n))
  when (decide (384 ≤ n) || clusOf n != s.clus || !g.frozen) (s.oper 6)
  match g.recOf n (fld v.toNat 9 3) with
  | none => .error (s.oper 6)
  | some r => do
    when r.act.isSome (s.oper 6)
    pure r

/-- The event by which a written register changes, if its write has a behaviour of its own. -/
def writeEvent (k : Nat) (r num : Nat) (v : Word) : List Owed :=
  let c : ClusterId := Fin.ofNat 48 k
  match num with
  | 0x028 => [.holdtWrite (Fin.ofNat 16 r) v]
  | 0x025 | 0x026 => [.counterClear c (BitVec.ofNat 14 num)]
  | 0x100 => [.savebWrite c v]
  | 0x104 => [.killWrite c v]
  | 0x110 => [.dringConfigWrite c false v]
  | 0x111 => [.dringConfigWrite c true v]
  | 0x113 => if v.getLsbD 0 then [.dretry c] else []
  | 0x114 => match fld v.toNat 8 2 with
    | 1 => [.dhold c (v.setWidth 8)]
    | 2 => [.dholdKill c (v.setWidth 8)]
    | 3 => [.dholdKillJob c (v.setWidth 8)]
    | _ => []
  | 0x120 => if v.getLsbD 31 then [.rsync (Fin.ofNat 16 r)] else []
  | 0x130 => []
  | 0x140 =>
    (((List.range 8).filter fun i => v.getLsbD i).map fun i => Owed.clrpend c (Fin.ofNat 8 i)) ++
      (if v.getLsbD 8 then [.clrlate c] else []) ++ (if v.getLsbD 9 then [.clrloss c] else []) ++
      (if v.getLsbD 10 then [.clrdig c] else []) ++ (if v.getLsbD 11 then [.clrnov c] else []) ++
      (if v.getLsbD 12 then [.clrcrc c] else [])
  | 0x151 => if v.getLsbD 0 then [.ldgo] else []
  | 0x154 => [.spare c v]
  | 0x160 => [.lgrt v]
  | 0x161 => [.ppr v]
  | _ =>
    if 0x170 ≤ num ∧ num < 0x1C0 then [.counterClear c (BitVec.ofNat 14 num)]
    else if 0x1600 ≤ num ∧ num < 0x1640 then
      (if num % 4 = 0 then [.crcfgWrite (Fin.ofNat 16 ((num - 0x1600) / 4)) v] else [.counterClear c (BitVec.ofNat 14 num)])
    else if 0x1700 ≤ num then
      let g := Fin.ofNat 64 ((num - 0x1700) / 8)
      match num % 8 with
      | 0 => [.gcfgWrite g v]
      | 1 => [.gstepWrite g v]
      | _ => [.counterClear c (BitVec.ofNat 14 num)]
    else [.registerWrite c (BitVec.ofNat 14 num) v]

/-- Steps to come, a number of cycles of the pairs' clock later. -/
def State.later (s : State) (wait : Nat) (es : List Owed) : State :=
  s.mod fun m => { m with owed := m.owed ++ es.map fun e => (.pair (m.pclk + wait), e) }

/-! ### the instructions -/

/-- R153: d := the register, at c+2. -/
def execMfc (d : SReg) (i : BitVec 14) (s : State) : Out :=
  issue s do
    let num := (s.imm i).toInt
    when (decide (0x100 ≤ num) && !isControl s.n) (s.plain cPRIV)
    match (if num < 0 then none else s.view.readCtl s.n s.x num.toNat) with
    | none => .error (s.oper 3)
    | some w =>
      let v := match s.next.leadRead s.n mfcKey with
        | some (bs, _) => BitVec.ofNat 64 (ofBytes bs)
        | none => w
      pure ((s.mod fun m => (m.noteRead s.n mfcKey (leBytes 8 v.toNat) false).tookRead s.n mfcKey).putS d v 2)

/-- The refusals of a value by its register's rule (R75, R381, R400). -/
def State.chkValue (s : State) (num : Nat) (v : Word) : Except Exc Unit := do
  when (s.me.refuses num v) (s.oper 2)
  when (num == 0x100 && decide (23 < fld v.toNat 17 5)) (s.oper 20)
  when ((num == 0x110 || num == 0x111) && decide ((s.next.cl s.clus).ringCount ≠ 0)) (s.oper 20)
  if num = 0x104 then do
    let _ ← s.chkAct v
    pure ()
  else pure ()

/-- When a register written in cycle c takes its value: from c+2; the register that clears counters does so after what cycle c+2 brings
(R153, R357). -/
def writeWait (num : Nat) : Nat := if num = 0x140 then 3 else 2

/-- A write of CLR wipes the tag table among the accesses of cycle c+2 (R308). -/
def State.wipes (s : State) (num : Nat) (v : Word) : State := if num = 0x130 ∧ v.getLsbD 0 then s.access 2 .tagwipe else s

/-- R153: the register := s(D), at c+2, by the register's own rules. -/
def execMtc (a : SReg) (i : BitVec 14) (s : State) : Out :=
  issue s do
    let num := (s.imm i).toInt
    when ((decide (0x100 ≤ num) || decide (0 ≤ num) && regionWritable num.toNat) && !isControl s.n) (s.plain cPRIV)
    s.chkS [a]
    let k := num.toNat
    when (decide (num < 0) || !(anyWritable k || regionWritable k || pairWritable s.clus k)) (s.oper 3)
    s.chkValue k (s.rs a)
    pure (if anyWritable k then s.putC k (s.rs a) else
      let t := if k = 0x104 then
          s.mod fun m => m.noteAct s.clus (fld (s.rs a).toNat 0 9) (fld (s.rs a).toNat 9 3) (.kill ((s.rs a).getLsbD 12))
        else s
      (t.wipes k (s.rs a)).later (writeWait k) (writeEvent s.clus s.myRegion k (s.rs a)))

/-- Bytes of a plane of a kind (R428). -/
def planeSize (kind : Nat) : Nat :=
  match kind with
  | 0 => 65536
  | 1 => 69632
  | 2 => 8192
  | 3 => 32768
  | 4 => 262144
  | _ => 1048576

/-- The bytes of a firmware plane. -/
def Plane.firmware (p : Plane) (kind : Nat) : List Byte :=
  if kind = 4 then p.fw.bytes 0 (planeSize 4) else p.sfw.bytes 0 (planeSize 5)

/-- A plane of firmware has become active in a core: the version of its image is that of the image running there (R426, R430). -/
def Mach.nowRuns (m : Mach) (slot n kind : Nat) : Mach :=
  match Config.parseImage (((m.core n).planeOf kind).firmware kind) with
  | some i => m.modPack fun p => { p with running := wr p.running slot (some i.version) }
  | none => m

/-- R154: the handler ends; the context continues at EPC, whose bits 1 and 0 PC does not hold (R81; log 183); the dispatcher firmware plane flips if its swap is pending (R430). -/
def execRfe (s : State) : Out :=
  issue s do
    s.chkPriv
    let t := s.mod fun m => m.returnEvent s.clus
    let t := if !s.myCore.flips.getLsbD 4 then t
      else (t.modMyCore fun c => c.flip 0x10#6).mod fun m => (m.nowRuns s.clus s.n 4).extend 3
        (leBytes 1 s.clus ++ leBytes 1 0x10 ++ leBytes 8 (m.region (m.regionOf s.clus)).hemc)
    pure (t.modTurn fun u => { u with target := some ((s.view.pair s.clus).epc.toNat / 4 * 4) })

/-- An action on a frozen context is noted, and takes effect 8 cycles later on the pairs' clock (R155, R384). -/
def State.actOn (s : State) (r : FreezeRec) (act : FreezeAct) : State :=
  let t := s.mod fun m => m.noteAct s.clus r.core r.ctx act
  t.later 8 [.freezeActionEffect (Fin.ofNat 384 r.core) (Fin.ofNat 8 r.ctx) act]

/-- R155: the named context resumes from its record, past its bundle if skip is set. -/
def execThaw (a : SReg) (s : State) : Out :=
  issue s do
    s.chkPriv
    s.chkS [a]
    when (above (s.rs a) 13) (s.oper 7)
    let r ← s.chkAct (s.rs a)
    when (r.kind != 1) (s.oper 6)
    when (r.trapc.toNat == cTWIN) (s.oper 29)
    pure (s.actOn r (.thaw ((s.rs a).getLsbD 12)))

/-- R155: the named context restarts at its seam-entry record. -/
def execRewind (a : SReg) (s : State) : Out :=
  issue s do
    s.chkPriv
    s.chkS [a]
    when (above (s.rs a) 12) (s.oper 7)
    let r ← s.chkAct (s.rs a)
    when (s.next.ctx r.core r.ctx).rwf (s.oper 27)
    pure (s.actOn r .rewind)

/-- The cores of a cluster, by global index. -/
def coresIn (k : Nat) : List Nat := (List.range 8).map (8 * k + ·)

/-- OPER 8: a selected shadow plane is not complete (R156). -/
def Mach.incomplete (m : Mach) (k : Nat) (mask : BitVec 6) : Bool :=
  (List.range 6).any fun i => mask.getLsbD i &&
    (if i < 4 then (coresIn k).any fun n => !(m.core n).complete.getLsbD i
     else !(m.core (if i = 4 then 384 + k else 384)).complete.getLsbD i)

/-- R156: flips configuration planes at each core's next performed notch, or at the region's next hem. -/
def execSwap (d : SReg) (i : BitVec 14) (s : State) : Out :=
  issue s do
    s.chkPriv
    s.chkS [d]
    let w := (s.imm i).toNat
    when (decide (1 < w)) (s.oper 7)
    let mask : BitVec 6 := (s.rs d).setWidth 6
    when (s.next.incomplete s.clus mask) (s.oper 8)
    let low := mask &&& 0xF#6
    let t := s.mod fun m =>
      let m := m.modCore (384 + s.clus) fun c => { c with flips := c.flips ||| (mask &&& 0x10#6) }
      let m := m.modCore 384 fun c => { c with flips := c.flips ||| (mask &&& 0x20#6) }
      if w = 1 then m.modCl s.clus fun c => { c with flips := c.flips ||| low }
      else (coresIn s.clus).foldl (fun m n => m.modCore n fun c => { c with flips := c.flips ||| low }) m
    pure t

/-- R278: the record at s(a) is offered to a dispatcher; k receives 1 at c+12 if it was posted. -/
def execTaskpost (k : KReg) (a : SReg) (s : State) : Out :=
  issue s do
    s.chkS [a]
    let ea := s.rs a
    when (decide (0x300000 < ea.toNat + 64)) (exc cBOUNDS ea)
    when (decide (ea.toNat % 64 ≠ 0)) (exc cALIGN ea)
    pure (s.access 2 (.post ea.toNat k.toNat 10))

/-- R279: the edges from the named footprints are satisfied in the cycle after the context's copies, scatters and spills end. -/
def execTaskdone (a : SReg) (s : State) : Out :=
  issue s do
    s.chkS [a]
    when (above (s.rs a) 8) (s.oper 7)
    let mask := (s.rs a).toNat
    when ((List.range 8).any fun j => mask.testBit j && !s.fps.any fun f => f.j == j && f.write) (s.oper 26)
    let w := (s.mine.filter fun p => p.acc.isSpill).foldl (fun w p => max w p.due) s.age
    pure (if s.view.follows s.n then s
      else s.modMe fun c => { c with taskdone := c.taskdone ++ [{ issued := s.age, from_ := w + 1, mask := mask }] })

/-- R157: joins or splits a pair at the region's next hem. -/
def execTwin (d : SReg) (i : BitVec 14) (s : State) : Out :=
  issue s do
    s.chkPriv
    s.chkS [d]
    let mode := (s.imm i).toNat
    when (decide (1 < mode) || above (s.rs d) 2) (s.oper 7)
    let j := (s.rs d).toNat
    when (mode == 1 && (List.range 8).any fun x => (s.next.ctx (8 * s.clus + 2 * j + 1) x).task.isSome) (s.oper 9)
    pure (s.modMyCl fun c => { c with twinReq := c.twinReq ++ [(j, mode == 1)] })

/-- R158: banks of the cluster go down, or start to wake, at c+2. -/
def execBank (d : SReg) (i : BitVec 14) (s : State) : Out :=
  issue s do
    s.chkS [d]
    when (decide (1 < (s.imm i).toNat)) (s.oper 7)
    pure (s.access 2 (.bank ((s.rs d).setWidth 8) ((s.imm i) == 1)))

/-- R160: no further bundle issues until an event is posted. -/
def execHalt (s : State) : Out :=
  issue s do
    s.chkPriv
    pure (s.modTurn fun u => { u with next := some .halted })

end Sys2Proof.Machine
end

