-- ==== Sys2Proof/Machine/Tasks.lean ====
section
/-! DEFINITION. The cluster dispatcher: tables, posts, edges, the overflow ring, allotments, preloads and page walks, runs, and the
end of a task (R312 to R317, R367, R390, R393 to R408, R440). -/

namespace Sys2Proof.Machine

/-! ### tables (R393, R394) -/

/-- A task-type entry as one number. -/
def Cluster.type (c : Cluster) (t : Nat) : Nat :=
  (List.range 4).foldr (fun w acc => (rd c.regs (0x200 + 4 * t + w)).toNat + 2 ^ 64 * acc) 0

/-- A word of a job card. -/
def Cluster.card (c : Cluster) (i w : Nat) : Nat := (rd c.regs (0x400 + 18 * i + w)).toNat

/-- The present footprints of a card. -/
def Cluster.footprints (c : Cluster) (i : Nat) : List Footprint :=
  (List.range 8).filterMap fun j =>
    let a := c.card i (2 + 2 * j)
    if fldB a 63 then some { j := j, write := fldB a 62, base := fld a 0 57, len := fld (c.card i (3 + 2 * j)) 0 48 } else none

/-- The entry breaks a limit of R393. -/
def typeBad (e : Nat) : Bool :=
  decide (fld e 120 136 ≠ 0 ∨ fld e 105 3 ≠ 0 ∨ fld e 90 6 ≠ 0 ∨ fld e 68 12 ≠ 0 ∨ fld e 12 1 ≠ 0 ∨ fld e 0 8 ≠ 0) ||
    decide (60 < fld e 114 6 ∨ 60 < fld e 108 6 ∨ 256 < fld e 96 9 ∨ fld e 80 10 = 0 ∨ 736 < fld e 80 10 ∨ fld e 64 4 = 0 ∨
      fld e 32 32 = 0 ∨ fld e 16 2 ≠ 0 ∨ 8 < fld e 8 4) || !fldB e 15

/-! ### records (R395) -/

def recJob (h : Nat) : Nat := fld h 56 8
def recType (h : Nat) : Nat := fld h 50 6
def recPrio (h : Nat) : Nat := fld h 48 2
def recClus (h : Nat) : Nat := fld h 40 6
def recCore (h : Nat) : Nat := fld h 32 3
def recCard (h : Nat) : Nat := fld h 24 8
def recTag (h : Nat) : Nat := fld h 0 16
def recReserved (h : Nat) : Bool := decide (fld h 46 2 ≠ 0 ∨ fld h 35 5 ≠ 0 ∨ fld h 16 7 ≠ 0)

def headOf (ws : List Word) : Nat := (ws.headD 0).toNat

def Mach.job (m : Mach) (j : Nat) : Option Job := m.pack.jobs.find? fun b => b.num == j

/-! ### page walks (R312 to R314) -/

/-- What a walk ends in: a page, or a reason of R316. -/
inductive Walk where
  | page (base pa size : Nat) (rd wr : Bool)
  | unmapped
  | malformed
deriving DecidableEq, Repr

/-- The 16 entries of a 64 KiB page agree (R314). -/
def group64 (m : Memory) (table i : Nat) : Bool :=
  let e (k : Nat) := m.nat (table + 8 * (i / 16 * 16 + k)) 8
  let a0 := fld (e 0) 12 40
  (List.range 16).all fun k => fldB (e k) 0 && fldB (e k) 2 && fldB (e k) 5 && fld (e k) 3 2 == fld (e 0) 3 2 &&
    fld (e k) 12 40 == a0 + k && a0 % 16 == 0

/-- The entry is malformed where it stands, at level l (R314). -/
def pteBad (l e : Nat) : Bool :=
  let leaf := fldB e 2
  decide (fld e 52 12 ≠ 0 ∨ fld e 6 6 ≠ 0) || fldB e 1 || (leaf && decide (3 ≤ l)) || (!leaf && l == 0) ||
    (!leaf && (fldB e 3 || fldB e 4 || fldB e 5)) || (fldB e 5 && l != 0)

/-- The entries that a walk reads: one of each level that it comes to, and the group of a 64 KiB page (R312, R314). -/
def walkReads (m : Memory) (va table : Nat) (levels : List Nat) : List (Nat × Nat) :=
  match levels with
  | [] => []
  | l :: rest =>
    let i := fld va (12 + 9 * l) 9
    let e := m.nat (table + 8 * i) 8
    if !fldB e 0 || pteBad l e then [(table + 8 * i, 8)]
    else if !fldB e 2 then (table + 8 * i, 8) :: walkReads m va (fld e 12 40 * 4096) rest
    else if fldB e 5 then [(table + 8 * (i / 16 * 16), 128)]
    else [(table + 8 * i, 8)]

/-- The walk from a table, level by level, the highest first. -/
def walk (m : Memory) (va table : Nat) (levels : List Nat) : Walk :=
  match levels with
  | [] => .malformed
  | l :: rest =>
    let i := fld va (12 + 9 * l) 9
    let e := m.nat (table + 8 * i) 8
    let ad := fld e 12 40 * 4096
    let leaf := fldB e 2
    let size := if fldB e 5 then 65536 else 2 ^ (12 + 9 * l)
    if !fldB e 0 then .unmapped
    else if pteBad l e then .malformed
    else if !leaf then walk m va ad rest
    else if fldB e 5 then
      if !group64 m table i then .malformed
      else
        let base := fld (m.nat (table + 8 * (i / 16 * 16)) 8) 12 40 * 4096
        if 0x7800000000 < base + size then .malformed else .page (va / size * size) base size (fldB e 3) (fldB e 4)
    else if ad % size ≠ 0 ∨ 0x7800000000 < ad + size then .malformed
    else .page (va / size * size) ad size (fldB e 3) (fldB e 4)

/-- The root table of a job, which the command processor holds with it (R312). -/
def Mach.rootOf (m : Mach) (job : Nat) : Nat := ((m.job job).map Job.root).getD 0

/-- The walk from the job's root table. -/
def Mach.walkOf (m : Mach) (job va : Nat) : Walk := walk m.pack.dev va (m.rootOf job) [4, 3, 2, 1, 0]

/-- Walks of a job read their entries from device memory (R442, R443). -/
def Mach.walked (m : Mach) (job : Nat) (vas : List Nat) : Mach :=
  if m.pack.clean then m
  else (vas.flatMap fun va => walkReads m.pack.dev va (m.rootOf job) [4, 3, 2, 1, 0]).foldl (fun m q => m.devMeets q.1 q.2) m

/-! ### preloads (R315, R316) -/

/-- The first va above `va` and below `lim` at which a range entry of the job begins or has ended, or `lim`: up to there one entry, or none,
translates (R310). -/
def Mach.rangeNext (m : Mach) (die job va lim : Nat) : Nat :=
  ((m.rangesOf die job).flatMap fun e => [fld e 0 57, fld e 64 57 + 1]).foldl (fun n b => if va < b ∧ b < n then b else n) lim

/-- The footprint lies wholly inside one matching range entry (R315). -/
def Mach.inRange (m : Mach) (die job : Nat) (f : Footprint) : Bool :=
  (m.rangesOf die job).any fun e => decide (fld e 0 57 ≤ f.base ∧ f.base + f.len ≤ fld e 64 57 + 1)

/-- Translations for a footprint from a va on by the range entries alone, each va by the lowest-numbered entry that matches it (R310); they
take no entry of the buffer (R315). A die's 128 entries make at most 257 pieces. -/
def Mach.pieces (m : Mach) (die job uid : Nat) (f : Footprint) (va fuel : Nat) (got : List Xlat) : Except (Nat × Nat) (List Xlat) :=
  match fuel with
  | 0 => .ok got
  | n + 1 =>
    if f.base + f.len ≤ va then .ok got
    else
      match m.rangeHit die job va with
      | none => .error (1, va)
      | some (pa, r, w) =>
        let next := m.rangeNext die job va (f.base + f.len)
        if !(if f.write then w else r) then .error (3, va)
        else m.pieces die job uid f next n
          ({ job := job, va := va, len := next - va, pa := pa, rd := r, wr := w, counted := false, users := [uid] } :: got)

/-- Translations for the pages of a footprint from a va on, while `free` entries remain: a page of 4 KiB where a range entry translates it,
else the page that the page tables give (R310, R315). An entry held for a running task of the job is shared. -/
def Mach.pages (m : Mach) (k job uid : Nat) (f : Footprint) (va free fuel : Nat) (got : List Xlat) : Except (Nat × Nat) (List Xlat × Nat) :=
  match fuel with
  | 0 => .error (4, f.base)
  | n + 1 =>
    let lim := f.base + f.len
    if lim ≤ va then .ok (got, free)
    else
      let next := m.rangeNext (k / 12) job va lim
      let held (p : Xlat → Bool) : Option Xlat := ((m.cl k).xlats ++ got).find? fun x => x.job == job && x.counted && p x
      match m.rangeHit (k / 12) job va with
      | some (pa, r, w) =>
        let x : Xlat := { job := job, va := va / 4096 * 4096, len := 4096, pa := pa / 4096 * 4096, rd := r, wr := w, counted := true, users := [uid] }
        let here := held fun y => y.va == x.va && y.len == 4096 && y.pa == x.pa
        if !(if f.write then w else r) then .error (3, va)
        else if here.isNone ∧ free = 0 then .error (4, f.base)
        else m.pages k job uid f (x.va + 4096) (free - bnat here.isNone) n ({ x with counted := here.isNone } :: got)
      | none =>
        match held fun x => decide (x.va ≤ va ∧ va < x.va + x.len) with
        | some x =>
          if !(if f.write then x.wr else x.rd) then .error (3, va)
          else m.pages k job uid f (min (x.va + x.len) next) free n (got ++ [{ x with users := [uid], counted := false }])
        | none =>
          match m.walkOf job va with
          | .unmapped => .error (1, va)
          | .malformed => .error (2, va)
          | .page base pa size r w =>
            if !(if f.write then w else r) then .error (3, va)
            else if free = 0 then .error (4, f.base)
            else m.pages k job uid f (min (base + size) next) (free - 1) n
              (got ++ [{ job := job, va := base, len := size, pa := pa, rd := r, wr := w, counted := true, users := [uid] }])

/-- The translations of a task's footprints, or the reason and va with which its preload fails. A footprint that lies wholly inside one range
entry takes no entry of the buffer (R315). -/
def Mach.preload (m : Mach) (k job uid : Nat) (fs : List Footprint) (free : Nat) (got : List Xlat) : Except (Nat × Nat) (List Xlat) :=
  match fs with
  | [] => .ok got
  | f :: rest =>
    let part : Except (Nat × Nat) (List Xlat × Nat) :=
      if m.inRange (k / 12) job f then (m.pieces (k / 12) job uid f f.base 258 got).map fun g => (g, free)
      else m.pages k job uid f f.base free 4096 got
    match part with
    | .error e => .error e
    | .ok (g, n) => m.preload k job uid rest n g

/-- The page-table reads of a preload: of the pages that the tables gave it, and of the va that they failed (R442). -/
def Mach.preloadReads (m : Mach) (k job : Nat) (r : Except (Nat × Nat) (List Xlat)) : Mach :=
  let vas := match r with
    | .ok xs => (xs.filter Xlat.counted).map Xlat.va
    | .error (why, va) => if why = 4 then [] else [va]
  m.walked job (vas.filter fun va => (m.rangeHit (k / 12) job va).isNone)

/-- Free entries of the translation buffer. -/
def Cluster.freeXlats (c : Cluster) : Nat := 1024 - (c.xlats.filter Xlat.counted).length

/-- A task's entries are released (R315): an entry that another uses stays counted. -/
def Cluster.release (c : Cluster) (uid : Nat) : Cluster :=
  let mine := c.xlats.filter fun x => x.users.contains uid
  let rest := c.xlats.filter fun x => !x.users.contains uid
  { c with xlats := mine.foldl (fun l x =>
      if x.counted then
        match l.find? fun y => y.job == x.job && y.va == x.va && y.len == x.len && !y.counted with
        | some y => l.map fun z => if z = y then { z with counted := true } else z
        | none => l
      else l) rest }

/-! ### edges (R333, R397) -/

def Footprint.meets (a b : Footprint) : Bool :=
  (a.write || b.write) && decide (a.base < b.base + b.len ∧ b.base < a.base + a.len)

/-- The footprints of a task in the dispatcher's books: those of its admission once it has been admitted, else what its card holds now
(R394, R411). -/
def Cluster.footprintsOf (c : Cluster) (q : QEnt) : List Footprint :=
  match q.state with
  | .resident _ _ | .preloading _ _ => q.fps
  | .queued | .ring => c.footprints (recCard (headOf q.words))

/-- The tasks of a job that have been posted and have not retired, with their footprints (R397); the primary stands for a duplicated task
until its instances have been compared (R440, R441). -/
def Cluster.earlier (c : Cluster) (job : Nat) : List (Nat × List Footprint) :=
  ((c.queue.filter fun q => recJob (headOf q.words) == job && q.dup != 2).map fun q => (q.uid, c.footprintsOf q)) ++
    ((c.dups.filter fun d => d.job == job && !c.queue.any fun q => q.uid == d.a).map fun d => (d.a, d.fps))

/-- The edges into a new task from the tasks posted before it. -/
def Cluster.newEdges (c : Cluster) (job uid : Nat) (fs : List Footprint) : List Edge :=
  (c.earlier job).flatMap fun (u, gs) => (gs.filter fun f => fs.any f.meets).map fun f => { src := u, j := f.j, write := f.write, dst := uid }

/-- A task waits for nothing (R401). -/
def Mach.isReady (m : Mach) (k : Nat) (q : QEnt) : Bool :=
  let c := m.cl k
  q.state == .queued && decide (q.slot < 255) && !q.held && !q.reads && (q.wb.isNone || q.wbSet) && !(c.edges.any fun e => e.dst == q.uid) &&
    !m.follows q.core && !(c.spareUsed == false && c.spareReq == some (q.core % 8)) &&
    !(m.job (recJob (headOf q.words))).any Job.pree

/-! ### posting (R396 to R400) -/

/-- A record occupies queue entry i. One that runs keeps its entry if it may be pre-empted (R408; log 152). -/
def QEnt.occupies (q : QEnt) (i : Nat) : Bool :=
  q.slot == i && match q.state with
    | .resident _ _ => fldB q.entry 13
    | .queued | .preloading _ _ | .ring => true

/-- The free queue entries below 255. -/
def Cluster.freeSlots (c : Cluster) : List Nat := (List.range 255).filter fun i => !c.queue.any fun q => q.occupies i

/-- The lowest of them. -/
def Cluster.freeSlot (c : Cluster) : Option Nat := (List.range 255).find? fun i => !c.queue.any fun q => q.occupies i

/-- The number of records that the ring may hold. -/
def Cluster.ringSize (c : Cluster) : Nat := 64 * fld (rd c.regs 0x111).toNat 0 16

def Cluster.ringJob (c : Cluster) : Nat := fld (rd c.regs 0x111).toNat 16 8

/-- The va of a place in the ring. -/
def Cluster.ringVa (c : Cluster) (i : Nat) : Nat := (rd c.regs 0x110).toNat + 64 * (i % max 1 c.ringSize)

/-- The completion bit that a record waits for, translated for a read through the job's page tables (R403): physical byte address and bit. -/
def Mach.waitBit (m : Mach) (ws : List Word) : Option (Nat × Nat) :=
  let w := (ws.getD 7 0).toNat
  match m.walkOf (recJob (headOf ws)) (fld w 0 57) with
  | .page base pa _ true _ => some (pa + (fld w 0 57 - base), fld w 57 3)
  | .page _ _ _ false _ | .unmapped | .malformed => none

/-- The instances that a record's post creates (R440). -/
def Mach.instances (m : Mach) (h : Nat) : Nat := if ((m.job (recJob h)).map fun j => j.dupMask.getLsbD (recType h)).getD false then 2 else 1

/-- How many of n new records are bound for the ring (R398). -/
def Cluster.spills (c : Cluster) (n : Nat) : Nat := if c.ringCount = 0 then n - c.freeSlots.length else n

/-- The reason for which a post is refused, if any (R396). `cmd`: the command processor posts it for a pattern job. -/
def Mach.refusal (m : Mach) (k : Nat) (ws : List Word) (cmd : Bool) : Option Nat :=
  let h := headOf ws
  let c := m.cl k
  let g := m.region (m.regionOf k)
  let card := recCard h
  if recReserved h || !fldB (c.type (recType h)) 15 then some 1
  else if g.job != some (recJob h) || (g.mode == 1 && !cmd) then some 2
  else if !fldB (c.card card 0) 63 || fld (c.card card 0) 0 8 != recJob h then some 3
  else if fldB h 23 && (m.waitBit ws).isNone then some 4
  else if 4096 < c.edges.length + m.instances h * (c.newEdges (recJob h) c.nextUid (c.footprints card)).length then some 5
  else if 0 < c.spills (m.instances h) ∧ c.ringSize < c.ringCount + c.spills (m.instances h) then some 6
  else if c.blocked then some 7
  else none

/-- The core on which a record's task runs: in a TWIN job bit 0 of CORE is ignored (R437). -/
def Mach.placeTask (m : Mach) (k h : Nat) (dup : Nat) : Nat :=
  let twin := ((m.job (recJob h)).map Job.twin).getD false
  let n := recCore h
  8 * k + (if dup = 2 then (n + 1) % 8 else if twin then n / 2 * 2 else n)

def Cluster.modQ (c : Cluster) (uid : Nat) (f : QEnt → QEnt) : Cluster :=
  { c with queue := c.queue.map fun q => if q.uid = uid then f q else q }

/-- The device physical address of a place of the ring: a page is translated by a walk when it is first written (R400; log 151). -/
def Mach.ringPlace (m : Mach) (k i : Nat) : Except Nat (Mach × Nat) :=
  let c := m.cl k
  let va := c.ringVa i
  let page := i % max 1 c.ringSize / 64
  match c.ringPages.find? fun q => q.1 == page with
  | some (_, pa) => .ok (m, pa + va % 4096)
  | none =>
    match m.walkOf c.ringJob va with
    | .unmapped => .error 1
    | .malformed => .error 2
    | .page base pa _ _ _ =>
      let p := (pa + (va - base)) / 4096 * 4096
      .ok ((m.walked c.ringJob [va]).modCl k fun c => { c with ringPages := c.ringPages ++ [(page, p)] }, p + va % 4096)

/-- A record goes to the ring, or is held in entry 255 if its page does not translate, behind those held before it (R399, R400; log 153). -/
def Mach.spillRecord (m : Mach) (k : Nat) (q : QEnt) : Mach :=
  let c := m.cl k
  let hold (m : Mach) : Mach := m.modCl k fun c => c.modQ q.uid fun q => { q with slot := 255 }
  if c.queue.any fun p => p.slot == 255 && decide (p.uid < q.uid) then hold m
  else
    match m.ringPlace k (c.ringHead + c.ringCount) with
    | .ok (m, pa) => m.modCl k fun c => { (c.modQ q.uid fun q => { q with slot := 256 }) with
        ringCount := c.ringCount + 1, ringOps := c.ringOps ++ [.put pa q.words] }
    | .error r => (hold m).postEv k cFOOT (BitVec.ofNat 64 (r * 2 ^ 60 + c.ringVa (c.ringHead + c.ringCount)))

/-- The pages of a pattern job's card are preloaded with its post, before a bundle of it issues (R315; log 118). -/
def Mach.cardPages (m : Mach) (k : Nat) (q : QEnt) (fs : List Footprint) : Mach :=
  let j := recJob (headOf q.words)
  if !(m.job j).any Job.pattern then m
  else
    let r := m.preload k j q.uid fs (m.cl k).freeXlats []
    let m := m.preloadReads k j r
    match r with
    | .ok xs => m.modCl k fun c => { c with xlats := c.xlats ++ xs }
    | .error (why, va) =>
      (m.modCl k fun c => c.modQ q.uid fun q => { q with held := true }).postEv k cFOOT (BitVec.ofNat 64 (why * 2 ^ 60 + va % 2 ^ 57))

/-- One instance of a posted task queued with its edges (R397, R398): at its level's tail, or in the ring. -/
def Mach.enqueue (m : Mach) (k : Nat) (ws : List Word) (dup : Nat) (es : List Edge) : Mach :=
  let h := headOf ws
  let c := m.cl k
  let toRing := c.freeSlot.isNone || decide (0 < c.ringCount) || c.blocked
  let wb := if fldB h 23 then m.waitBit ws else none
  let q : QEnt :=
    { uid := c.nextUid, words := ws, level := recPrio h, slot := c.freeSlot.getD 256, held := false,
      wb := wb, wbSet := false, tested := 0, waited := 0, state := if toRing then .ring else .queued, core := m.placeTask k h dup, dup := dup,
      saved := none, fps := [], sset := 0, entry := 0, reads := false }
  let q := if toRing then { q with slot := 256 } else q
  let m := m.modCl k fun c => { c with
    nextUid := c.nextUid + 1, queue := c.queue ++ [q], edges := c.edges ++ es.map fun e => { e with dst := q.uid } }
  (if toRing then m.spillRecord k q else m).cardPages k q (c.footprints (recCard h))

/-- The oldest ring record returns to a free queue entry (R398); its 64 bytes are read in a slot to come (R399). -/
def Mach.fromRing (m : Mach) (k : Nat) : Mach :=
  let c := m.cl k
  match c.freeSlot, c.queue.find? fun q => q.state == .ring && q.slot == 256 with
  | some i, some q =>
    match m.ringPlace k c.ringHead with
    | .error _ => m
    | .ok (m, pa) => m.modCl k fun c => { c with
        ringHead := (c.ringHead + 1) % max 1 c.ringSize
        ringCount := c.ringCount - 1
        ringOps := c.ringOps ++ [.get pa q.uid]
        queue := (c.queue.filter fun p => p.uid != q.uid) ++ [{ q with slot := i, state := .queued, reads := true }] }
  | _, _ => m

/-- A post judged (R396, R440): the machine, and the reason of its refusal or 0. A ring record that may return does so first (R411). The
duplicate has the edges of its primary. -/
def Mach.judge (m : Mach) (ws : List Word) (cmd : Bool) : Mach × Nat :=
  let h := headOf ws
  let k := recClus h
  if 48 ≤ k then (m, 2)
  else
    let m := if (m.cl k).ringCount = 0 then m else m.fromRing k
    let m := if fldB h 23 then m.walked (recJob h) [fld (ws.getD 7 0).toNat 0 57] else m
    match m.refusal k ws cmd with
    | some r =>
      let m := m.modCl k fun c => { c with drreason := r }
      if r = 6 ∧ !(m.cl k).drovf then
        ((m.modCl k fun c => { c with drovf := true }).postEv k cOPER (BitVec.ofNat 64 (recJob h * 256 + 30)), r)
      else (m, r)
    | none =>
      let u := (m.cl k).nextUid
      let es := (m.cl k).newEdges (recJob h) u ((m.cl k).footprints (recCard h))
      if m.instances h = 2 then
        (((m.enqueue k ws 1 es).enqueue k ws 2 es).modCl k fun c => { c with dups := c.dups ++
          [{ a := u, b := u + 1, job := recJob h, tag := recTag h, fps := [], open_ := [], sa := none, sb := none }] }, 0)
      else (m.enqueue k ws 0 es, 0)

/-! ### allotments (R403) -/

/-- The ranges in use of a kind: vector units and tile units of a core, scratchpad units of the cluster. -/
def Cluster.inUse (c : Cluster) (kind n : Nat) (save : Nat) : List (Nat × Nat) :=
  ((c.allots.filter fun a => a.kind == kind && (kind == 1 || a.core == n)).map fun a => (a.start, a.len)) ++
    (if kind = 1 then [(32 * save, 32)] else [])

/-- The lowest start below `total` from which `len` units are free. -/
def firstFit (used : List (Nat × Nat)) (total len : Nat) : Option Nat :=
  (List.range (total + 1 - len)).find? fun s => used.all fun u => decide (s + len ≤ u.1 ∨ u.1 + u.2 ≤ s)

/-- Nothing of a context that has lost its task is in flight. -/
def Mach.calm (m : Mach) (n x : Nat) : Bool :=
  (m.ctx n x).inflight.isEmpty && !((m.cl (clusOf n)).pend.any fun p => p.core == n && p.ctx == x) && !((rd m.tile n).any fun p => p.ctx == x)

/-- A context of a core is free: it holds no task, none is on its way to it, and nothing of an earlier one is in flight. -/
def Mach.freeCtx (m : Mach) (n : Nat) : Option Nat :=
  let c := m.cl (clusOf n)
  (List.range 8).find? fun x => (m.ctx n x).task.isNone && m.calm n x &&
    !(c.queue.any fun q => q.state == .preloading n x) && !(c.allots.any fun a => a.core == n && a.kind == 3 && a.start == x)

/-- The head of a level, if it is on core n: the oldest ready task (R401, R402). -/
def Mach.head (m : Mach) (n lvl : Nat) : Option QEnt :=
  match (m.cl (clusOf n)).queue.find? fun q => q.level == lvl && m.isReady (clusOf n) q with
  | some q => if q.core = n then some q else none
  | none => none

/-- Everything that a task of a type needs, allotted: context, and vector, scratchpad and tile ranges; none if one does not fit. -/
def Mach.allot (m : Mach) (n uid e : Nat) : Option (Nat × List Allot) :=
  let k := clusOf n
  let c := m.cl k
  let save := (m.pair k).save
  match m.freeCtx n, firstFit (c.inUse 0 n save) 64 (fld e 64 4), firstFit (c.inUse 1 n save) 768 (fld e 80 10),
      firstFit (c.inUse 2 n save) 256 (fld e 96 9) with
  | some x, some v, some s, some t =>
    let a (kind start len : Nat) : Allot := { kind := kind, core := n, start := start, len := len, uid := uid, until_ := none }
    some (x, [a 0 v (fld e 64 4), a 1 s (fld e 80 10)] ++ if fld e 96 9 = 0 then [] else [a 2 t (fld e 96 9)])
  | _, _, _, _ => none

/-- Admission of the head of one level (R402, R404): a task that fits starts its preload; one whose type breaks a limit is held, once it would
fit, or at once where it never can (log 154). -/
def Mach.letIn (m : Mach) (n lvl : Nat) : Mach :=
  let k := clusOf n
  match m.head n lvl with
  | none => m
  | some q =>
    let h := headOf q.words
    let e := (m.cl k).type (recType h)
    let fails := (m.modCl k fun c => c.modQ q.uid fun q => { q with held := true }).postEv k cOPER
      (BitVec.ofNat 64 (q.slot * 2 ^ 16 + recType h * 2 ^ 8 + 31))
    match m.allot n q.uid e with
    | none => if 736 < fld e 80 10 ∨ 256 < fld e 96 9 then fails else m
    | some (x, as) =>
      if typeBad e then fails
      else
        let m := m.modCl k fun c => { (c.modQ q.uid fun q => { q with
          state := .preloading n x, fps := c.footprints (recCard h), sset := c.card (recCard h) 1, entry := e }) with allots := c.allots ++ as }
        let r := m.regionOf k
        { m with owed := m.owed ++ [(.age r ((m.region r).age + Config.preloadCycles k n x (recJob h) (recCard h)),
          .preloadComplete (Fin.ofNat 384 n) (Fin.ofNat 8 x))] }

/-! ### runs (R405, R406) -/

/-- The context that a core runs next (R406). -/
def Mach.choice (m : Mach) (n : Nat) : Option (Nat × Nat) :=
  let c := m.core n
  let cand := (List.range 8).filter fun x => (m.ctx n x).task.isSome && (m.ctx n x).run == .none
  (List.range 4).findSome? fun l =>
    let at_ := cand.filter fun x => ((m.ctx n x).task.map Task.prio).getD 0 == l
    if at_.isEmpty then none
    else
      let start := rd c.last l
      ((List.range 8).map fun i => (start + i) % 8).find? at_.contains |>.map fun x => (l, x)

/-- Expansion cycles of a segment of u words (R301). -/
def expandCycles (u : Nat) : Nat := 8 + (u + 3) / 4

/-- Expansion cycles of the segment whose header stands at an address of a core's instruction plane. -/
def Mach.expandTime (m : Mach) (n hdr : Nat) : Nat := expandCycles (fld (rd ((m.core n).planeOf 0).imem (hdr / 4 + 1)).toNat 0 12)

/-- The end of an expansion. -/
def expanded (n x : Nat) : Owed := .segmentExpansionComplete (Fin.ofNat 384 n) (Fin.ofNat 8 x)

/-- The segment at an address is expanded by age `due`. -/
def Mach.expandBy (m : Mach) (n x hdr due : Nat) : Mach :=
  let m := m.modCtx n x fun c => { c with segbuf := c.segbuf.map fun b => { b with ptr := hdr, due := some due } }
  { m with owed := m.owed ++ [(.age (m.regionOf (clusOf n)) due, expanded n x)] }

/-- The segment that follows begins to expand in age a (R301). -/
def Mach.expandNext (m : Mach) (n x hdr a : Nat) : Mach :=
  if hdr = 0xFFFF then m.modCtx n x fun c => { c with segbuf := c.segbuf.map fun b => { b with ptr := hdr, due := none } }
  else m.expandBy n x hdr (a + m.expandTime n hdr)

/-- No expansion of the context is under way. -/
def Mach.noExpansion (m : Mach) (n x : Nat) : Mach := { m with owed := m.owed.filter fun q => q.2 != expanded n x }

/-- Execution of a context goes on in age t: it enters the half that has been expanded for it, and the next segment begins to expand; a task's
first segment, or a rewound one, is expanded first (R301, R303). With the age of its first bundle. -/
def Mach.enters (m : Mach) (n x t : Nat) : Mach × Nat :=
  match (m.ctx n x).segbuf with
  | none => (m, t)
  | some b =>
    if b.waits then
      let first := t + m.expandTime n b.ptr
      (m.expandBy n x b.ptr first, first)
    else
      match b.cur, b.other with
      | none, some g => ((m.modCtx n x fun c => { c with segbuf := some { b with cur := some g, other := none } }).expandNext n x g.next t, t)
      | some _, _ | none, none => (m, t)

/-- The core takes its next run, which begins no earlier than `t`, with its first bundle or, in segment mode, with the expansion of its task's first
segment, whose cycles its budget counts (R301). The pace point and the hem point are unset (R66, R143). -/
def Mach.choose (m : Mach) (n t : Nat) : Mach :=
  if (m.core n).cur.isSome then m
  else
    match m.choice n with
    | none => m
    | some (l, x) =>
      let t := max t (m.core n).gapTo
      let (m, first) := (m.modCore n fun c => { c with cur := some x, last := wr c.last l ((x + 1) % 8) }).enters n x t
      m.modCtx n x fun c => { c with run := .at first, runFrom := if first = t then none else some (m.cyc n + (t - m.now n)), pp := none, hp := none }

/-- The state of a context at a task's entry (R367, R405): the scalars, windows, predicates, flags and control registers. -/
def entryCtx (t : Task) (vwb vws : Nat) (pc : Nat) (args : List Word) : Ctx :=
  { (default : Ctx) with
    pc := BitVec.ofNat 16 pc
    s := ((args.zipIdx.map fun (v, i) => (i + 1, ({ val := v, poison := false } : Scalar))).filter fun q => q.2.val != 0) ++
      [(30, { val := BitVec.ofNat 64 (t.spad.1 + t.spad.2), poison := false })]
    vwb := vwb
    vws := vws
    slim := BitVec.ofNat 22 t.spad.1
    task := some t
    fresh := true }

/-- The argument words (R395): s1 to s8. -/
def argWords (ws : List Word) (scal : Nat) : List Word :=
  (List.range 8).map fun i =>
    if i + 1 ≤ scal ∧ i < 7 then ws.getD (i + 1) 0 else if i = 7 ∧ scal = 8 then ws.headD 0 else 0

/-- A task becomes resident on its context (R405). -/
def Mach.settle (m : Mach) (n x : Nat) (q : QEnt) : Mach :=
  let k := clusOf n
  let c := m.cl k
  let h := headOf q.words
  let e := q.entry
  let range (kind : Nat) := ((c.allots.find? fun a => a.kind == kind && a.uid == q.uid).map fun a => (a.start, a.len)).getD (0, 0)
  let sp := range 1
  let ti := range 2
  let vr := range 0
  let t : Task :=
    { uid := q.uid, job := recJob h, type := recType h, tag := recTag h, prio := q.level, card := recCard h, budget := fld e 32 32,
      act0 := fld e 108 6, act1 := fld e 114 6, fps := q.fps, ssCores := fld q.sset 48 8, ssClus := fld q.sset 0 48, spad := (4096 * sp.1, 4096 * sp.2), tile := ti, seg := fldB e 14, pree := fldB e 13,
      entry := fld e 16 16, args := argWords q.words (fld e 8 4), record := q.words, dup := q.dup }
  let from_ : Saved := q.saved.getD { pc := if t.seg then 0 else t.entry, seg := t.entry, regs := t.args }
  let put (m : Mach) (n : Nat) : Mach :=
    let buf : Option SegBuf := if t.seg then some { cur := none, ptr := from_.seg, due := none, other := none, waits := true } else none
    let m := m.modCore n fun c => { c with v := c.v.filter fun q => decide (q.1 < 8 * vr.1 ∨ 8 * (vr.1 + vr.2) ≤ q.1) }
    (m.noExpansion n x).modCtx n x fun _ => { entryCtx t (8 * vr.1) (8 * vr.2) from_.pc from_.regs with segbuf := buf }
  let m := m.modCl k fun c => c.modQ q.uid fun q => { q with state := .resident n x, saved := none, waited := 0 }
  put m n

/-- A follower without a run takes the run that its lead has yet to start, two cycles later; a task new to the pair comes with its
entry state (R389). -/
def Mach.shadow (m : Mach) (f a : Nat) : Mach :=
  if !m.follows f || (m.core f).cur.isSome then m
  else
    match (m.core (f - 1)).cur with
    | none => m
    | some x =>
      let c := m.ctx (f - 1) x
      match c.run with
      | .at t =>
        if t ≤ a ∨ c.runFrom.any (fun r => decide (r ≤ m.cyc (f - 1))) then m
        else
          let m := m.modCore f fun k => { k with cur := some x, v := if c.fresh then (m.core (f - 1)).v else k.v }
          let m := m.modCtx f x fun k => { (if c.fresh then c else k) with run := .at (t + 2), runFrom := c.runFrom, pp := none, hp := none }
          match (m.ctx f x).segbuf with
          | none => m
          | some b => if b.waits then (m.noExpansion f x).expandBy f x b.ptr (t + 2) else (m.enters f x (t + 2)).1
      | _ => m

/-- A task of the job is still to be posted, queued, in a ring, on a context, or waits to be compared (R410, R441). -/
def Mach.live (m : Mach) (j : Nat) : Bool :=
  m.pack.submit.any (fun u => u.job == j && !u.rest.isEmpty) || (List.range 48).any fun k => (m.cl k).dups.any (fun d => d.job == j) || (m.cl k).queue.any fun q => recJob (headOf q.words) == j

/-! ### the end of a task (R147, R279, R387, R390, R441) -/

/-- The edges from footprints of a task are satisfied. -/
def Cluster.satisfy (c : Cluster) (uid : Nat) (which : Edge → Bool) : Cluster :=
  { c with edges := c.edges.filter fun e => !(e.src == uid && which e) }

/-- The last age at which a result of a context lands, so far as it is known. -/
def Mach.lastResult (m : Mach) (n x a : Nat) : Nat :=
  let w := (m.ctx n x).inflight.foldl (fun w r => max w r.due) a
  (m.coming n x).foldl (fun w c => max w c.due) w

/-- A context loses its task: at once, or with its results in flight still to land (R15, R147). Allotments of window and scalars
return in the cycle after the last lands, the rest at once. -/
def Mach.vacate (m : Mach) (n x uid a : Nat) : Mach :=
  let k := clusOf n
  let w := m.lastResult n x a
  let m := m.modCl k fun c => { c with allots :=
    (c.allots.filter fun g => g.uid != uid || g.kind == 0).map fun g => if g.uid = uid then { g with until_ := some (w + 1) } else g }
  let m := m.modCl k fun c => { c with allots := c.allots ++
    [{ kind := 3, core := n, start := x, len := 1, uid := uid, until_ := some (w + 1) }] }
  let m := m.modCtx n x Ctx.emptied
  m.modCore n fun c => if c.cur = some x then { c with cur := none, gapTo := max c.gapTo (a + 3) } else c

/-- A task leaves the dispatcher's books. -/
def Cluster.forget (c : Cluster) (uid : Nat) : Cluster := { c with queue := c.queue.filter fun q => q.uid != uid }

/-- An instance of a duplicated task has retired (R440): its signature is complete once its last result has landed. -/
def Cluster.noteRetired (c : Cluster) (n x : Nat) (t : Task) : Cluster :=
  { c with dups := c.dups.map fun d =>
      if d.a = t.uid ∨ d.b = t.uid then
        { d with fps := if d.a = t.uid then t.fps else d.fps, open_ := d.open_ ++ [(t.uid, n, x)] }
      else d }

/-- The signatures of instances whose last results have landed, and the comparison in the next cycle once both are known (R441, R447;
log 155). -/
def Mach.launched (m : Mach) (k : Nat) : Mach :=
  let calm (q : Nat × Nat × Nat) : Bool := m.calm q.2.1 q.2.2
  let r := m.regionOf k
  ((m.cl k).dups.filter fun d => d.open_.any calm).foldl (fun m d =>
    let e := (d.open_.filter calm).foldl (fun (d : Dup) (u, n, x) =>
      if u = d.a then { d with sa := some (m.ctx n x).launch } else { d with sb := some (m.ctx n x).launch }) d
    let m := m.modCl k fun c => { c with dups := c.dups.map fun f => if f.a = d.a then { e with open_ := d.open_.filter fun q => !calm q } else f }
    if e.sa.isSome && e.sb.isSome then { m with owed := m.owed ++ [(.age r ((m.region r).age + 1), .dupCompare (Fin.ofNat 48 k) d.a)] } else m) m

/-- RETIRE at age a (R147): the task's edges are satisfied, its context and allotments return. -/
def Mach.retire (m : Mach) (n x a : Nat) : Mach :=
  let k := clusOf n
  match (m.ctx n x).task with
  | none => m
  | some t =>
    if m.follows n then m.vacate n x t.uid a
    else
      let m := m.vacate n x t.uid a
      let m := m.modCl k fun c => c.forget t.uid
      m.modCl k fun c => if t.dup = 0 then c.satisfy t.uid fun _ => true else c.noteRetired n x t

/-- Pre-emption in task mode (R390, R408): the task returns to the head of its level with its PC and s1 to s8, in the entry it has kept. A level that
waiting has raised stays raised, after the start and here (log 165). -/
def Mach.preemptTask (m : Mach) (n x a pc : Nat) : Mach :=
  let k := clusOf n
  match (m.ctx n x).task with
  | none => m
  | some t =>
    let at_ := ((m.ctx n x).seam.map fun e => (e.pc, e.seg)).getD (pc, 0)
    let kept : Saved := { pc := at_.1, seg := at_.2, regs := (List.range 8).map fun i => (m.ctx n x).sval (i + 1) }
    let m := m.vacate n x t.uid a
    if m.follows n then m
    else m.modCl k fun c =>
      { c with queue := ((c.queue.filter fun q => q.uid == t.uid).map fun q =>
          { q with state := .queued, saved := some kept, waited := 0 }) ++
        c.queue.filter fun q => q.uid != t.uid }

end Sys2Proof.Machine
end

