-- ==== Sys2Proof/Machine/Close.lean ====
section
/-! DEFINITION. Bundles in a cycle: which contexts issue, what the close of a bundle does, and the beginning of microwords
(R18, R22, R27, R145 to R149, R216, R218, R295, R301 to R303, R375, R383). -/

namespace Sys2Proof.Machine

/-! ### who issues -/

/-- The accesses of a context that wait to be performed. -/
def Mach.pendOf (m : Mach) (n x : Nat) : List Pending := (m.cl (clusOf n)).pend.filter fun p => p.core == n && p.ctx == x

/-- A scratchpad write of the context, a push included. -/
def Access.writesSpad (a : Access) : Bool :=
  match a with
  | .store _ _ _ _ _ | .amo _ _ _ _ _ _ | .amoTold _ _ _ _ _ _ _ | .vstore _ _ _ _ _ | .scatter _ _ _ _ _ | .scatterAdd _ _ _ _ _ _ | .spillP _ _
  | .bytes _ _ _ => true
  | .pop _ i _ ds _ => ds.any (fun d => match d with
      | .spad _ => true
      | _ => false) || (match i with
      | .vstx _ _ _ _ | .vstxa _ _ _ _ => true
      | _ => false)
  | .gather _ _ _ ds _ => ds.any fun d => match d with
      | .spad _ => true
      | _ => false
  | .load _ _ _ _ _ | .vload _ _ _ | .fillS _ _ _ _ | .fillV _ _ _ _ | .fillP _ _ _ _ | .lookup _ _ _ | .tagset _ _ | .tagclr _
  | .tagwipe | .bank _ _ | .payload _ _ _ | .members _ _ _ _ _ | .post _ _ _ => false

/-- A timed send whose vector is still to be popped (R165, R269). -/
def Access.sends (a : Access) : Bool :=
  match a with
  | .pop _ _ _ ds _ => ds.any fun d => match d with
      | .send _ _ => true
      | _ => false
  | _ => false

/-- The accesses of a context, not yet performed, that it issued before age i. -/
def Mach.pendBefore (m : Mach) (n x i : Nat) : List Pending := (m.pendOf n x).filter fun p => decide (p.ord < 8 * i)

/-- The timed sends of a context on their way that it issued before age i. -/
def Mach.sentBefore (m : Mach) (n x i : Nat) : List Flight :=
  m.pack.flights.filter fun f => f.src == n && f.srcCtx == x && decide (f.issued < i)

/-- The cycle in which a push of a row to a scratchpad bobbin is performed, while the tile store is still to be read (R165, R213). -/
def TileAcc.pushAt (a : TileAcc) (d : Nat) : Option Nat :=
  match a with
  | .get _ _ (.spad _) land => some (d + land - 2)
  | .get _ _ _ _ | .put _ _ _ _ | .zero _ => none

/-- The cycles of such pushes of a context that it issued before age i. -/
def Mach.pushesBefore (m : Mach) (n x i : Nat) : List Nat :=
  ((rd m.tile n).filter fun q => q.ctx == x && decide (q.ord < 8 * i)).filterMap fun q => q.acc.pushAt q.due

/-- The fills of a context, outstanding, that it issued before age i: a fill lands 10 cycles after its issue (R266). -/
def Mach.fillsBefore (m : Mach) (n x i : Nat) : List FillTok := (m.ctx n x).toks.filter fun t => decide (t.due < i + 10)

/-- What a FENCE with a mask, issued at age i, waits for is outstanding (R149). The other slots of its own bundle are not issued earlier. -/
def Mach.fenced (m : Mach) (n x mask i : Nat) : Bool :=
  let c := m.core n
  let k := rd c.ctxs x
  let pend := m.pendBefore n x i
  mask.testBit 0 && (k.inflight.any (fun r => decide (r.ord < 8 * i)) || (m.coming n x).any fun r => decide (r.ord < 8 * i)) ||
  mask.testBit 1 && (pend.any (fun p => p.acc.writesSpad) || !(m.pushesBefore n x i).isEmpty) ||
  mask.testBit 2 && c.copies.any (fun q => q.before x i) ||
  mask.testBit 3 && (!(m.fillsBefore n x i).isEmpty || pend.any fun p => p.acc.isSpill) ||
  mask.testBit 4 && (c.mx.state == 1 && decide (c.mx.called < i)) ||
  mask.testBit 5 && (pend.any (fun p => p.acc.sends) || !(m.sentBefore n x i).isEmpty)

/-- The context issues a bundle at age a of its clock (R22). -/
def Mach.ready (m : Mach) (n x a : Nat) : Bool :=
  match (m.ctx n x).run with
  | .none | .halted | .sstep _ => false
  | .at t | .rendezvous t => decide (t ≤ a)
  | .cyc c => decide (c ≤ m.cyc n)
  | .fence mask i => !m.fenced n x mask i
  | .drain scope i t cs => decide (t ≤ a) && cs.isEmpty && !(m.core n).copies.any fun q => q.before x i && !(scopeA scope == 0 && ((m.core n).settingOf a q).isSome)

/-- The cores of a domain that issue in its cycle, in ascending order. -/
def Mach.issuers (m : Mach) (d : Domain) : List Nat :=
  match d with
  | .region r =>
    (m.coresOf r.val).filter fun n => match (m.core n).cur with
      | some x => m.ready n x (m.region r.val).age
      | none => false
  | .pairs => ((List.range 48).filter fun k => !(m.pair k).dead && m.ready (384 + k) 0 m.pclk).map (384 + ·)

/-- The cores of a region whose matrix unit begins a microword in its cycle (R216, R218). -/
def Mach.sequencing (m : Mach) (d : Domain) : List Nat :=
  match d with
  | .region r => (m.coresOf r.val).filter fun n => (m.core n).mx.state == 1 && decide ((m.core n).mx.nextAt ≤ (m.region r.val).age)
  | .pairs => []

/-- The turn at the first slot of core n's bundle. -/
def State.begin (s : State) (n : Nat) : State :=
  let x := ((s.next.core n).cur).getD 0
  let pc := (s.view.ctx n x).pc.toNat
  let addr := (((s.next.core n).passes.find? fun q => q.1 == x && q.2.1 == pc).map fun q => q.2.2).getD pc
  let s := if addr = pc then s else s.mod fun m => m.modCore n fun c => { c with passes := c.passes.filter fun q => q.1 != x || q.2.1 != pc }
  s.modTurn fun t =>
    { t with
      core := n, ctx := x, addr := addr, pos := 0, word := 0, words := [], ext := none, fault := none
      target := none, next := none, ends := 0, arm := [], copied := [], snap := some s.next }

/-- On to the next core that issues, if there is one. -/
def State.nextCore (s : State) : State :=
  let s := s.modTurn fun t => { t with cores := t.cores.tail, snap := none }
  match s.turn.cores with
  | n :: _ => s.begin n
  | [] => s

/-! ### the end of a bundle -/

/-- A fault of the bundle: its effects are annulled (R90); a compute context's is charged to it, a control context's halts its
pair (R383). -/
def State.annul (s : State) (e : Exc) : State :=
  let t := { s with next := s.turn.snap.getD s.next }
  if isControl s.n then t.mod fun m => m.haltPair s.clus e
  else t.modTurn fun u => { u with faults := u.faults ++ [(s.n, s.x, e, true)] }

/-- The context goes on at a byte address (R7), or at an offset of its segment; past the segment's end at offset 0 of the next
(R303), which execution enters at once, or, where the bundle yields, with the context's next run. The spec does not say where a bundle whose last slot stands at byte 0xFFFC goes on: the model takes the address modulo 65,536 and goes on at
0 (log 162). -/
def Mach.goOn (m : Mach) (n x pc a : Nat) (yields : Bool) : Mach :=
  match (m.ctx n x).segbuf with
  | none => m.modCtx n x fun c => { c with pc := BitVec.ofNat 16 pc }
  | some b =>
    if pc < 4 * b.words.length then m.modCtx n x fun c => { c with pc := BitVec.ofNat 16 pc }
    else
      match b.other with
      | some _ =>
        let m := m.modCtx n x fun c => { c with pc := 0, segbuf := some { b with cur := none } }
        if yields then m else (m.enters n x (a + 1)).1
      | none => m.modCtx n x fun c =>
          { c with pc := if b.ptr = 0xFFFF then BitVec.ofNat 16 pc else 0, segbuf := some { b with cur := none } }

/-- The swaps that a performed notch of core n carries out (R156, R427). -/
def Mach.flipAtNotch (m : Mach) (n : Nat) : Mach :=
  let mask := (m.core n).flips &&& 0xF#6
  if mask = 0 then m
  else (m.modCore n fun c => c.flip mask).extend 3
    (leBytes 1 (clusOf n) ++ leBytes 1 mask.toNat ++ leBytes 8 (m.core n).notches)

/-- Bytes of a freeze record's header (R378). -/
def Mach.recordHead (m : Mach) (n x pc kind trapc : Nat) (trapi : Word) (fcyc idlek idle nres : Nat) : List Byte :=
  let c := m.ctx n x
  leBytes 8 trapi.toNat ++ leBytes 8 fcyc ++
    leBytes 8 (bnat c.gst * 2 ^ 42 + idlek * 2 ^ 40 + bnat c.rwf * 2 ^ 39 + nres * 2 ^ 32 + kind * 2 ^ 28 + x % 8 * 2 ^ 24 +
      trapc % 256 * 2 ^ 16 + pc % 2 ^ 16) ++
    leBytes 8 (idle % 2 ^ 32) ++ leBytes 8 (pointWord c.pp).toNat ++ leBytes 8 (pointWord c.hp).toNat ++ List.replicate 16 0

/-- Where the record of a context lies (R377). -/
def Mach.recordAt (m : Mach) (n x : Nat) : Nat := (m.pair (clusOf n)).save * 131072 + 2048 * (8 * (n % 8) + x)

/-- n free bytes of a record (log 37). -/
def freeBytes (n x count from_ len : Nat) : List Byte := (List.range len).map fun i => Config.freeRecord n x count (from_ + i)

/-- A seam-entry record goes to the context's place in the save area (R364), behind the last entry that a freeze record can have (log 163). -/
def Mach.putSeam (m : Mach) (n x : Nat) : Mach :=
  if m.follows n || isControl n then m
  else
    let count := (m.region (m.regionOf (clusOf n))).count
    m.modCl (clusOf n) fun c => c.writeB (m.recordAt n x + 1600) ((List.range 448).map fun i => Config.freeSeam n x count i) false

/-- Pre-emption at a performed notch (R390): a KIND 3 record with s1 to s8, and the task returns to its dispatcher. A bank that is down takes no
byte of the record, and no BANKOFF is posted (log 167). -/
def Mach.preemptAt (m : Mach) (n x a pc : Nat) : Mach :=
  let regs := (List.range 8).flatMap fun i => leBytes 8 ((m.ctx n x).sval (i + 1)).toNat
  let count := (m.region (m.regionOf (clusOf n))).count
  let free := freeBytes n x count
  let head := m.recordHead n x (((m.ctx n x).seam.map Seam.pc).getD pc) 3 0 0 count 3 (ofBytes (free 28 4)) 0
  let at_ := m.recordAt n x
  let m := if m.follows n then m else m.modCl (clusOf n) fun c => c.writeB at_ (head ++ regs ++ free 128 1920) false
  m.preemptTask n x a pc

/-- The waits of rewinds that a performed notch of core n at cycle `cyc` takes (R295, R386). -/
def Core.waits (c : Core) (cyc : Nat) : Nat := ((c.owed.filter fun w => decide (w.1 ≤ cyc)).map Prod.snd).sum

/-- The core waits w cycles, issuing nothing until age `till`, with its CYC held (R295). -/
def Mach.waitOut (m : Mach) (n x cyc w till : Nat) : Mach :=
  (m.modCore n fun (c : Core) =>
    { c with lag := c.lag + w, heldTo := till, owed := c.owed.filter fun q => decide (cyc < q.1), gapTo := max c.gapTo till }).modCtx n x
    fun (c : Ctx) => { c with run := .rendezvous till }

/-- What a performed notch does beyond its operation: planes flip, the record goes to the save area, a pending pre-emption takes effect, the core waits out rewinds,
and the dispatcher may let a task in (R145, R156, R295, R390, R402). -/
def State.atNotch (s : State) (pc : Nat) : State :=
  let n := s.n
  let x := s.x
  let a := s.age
  let w := (s.next.core n).waits s.cyc
  let t := s.mod fun m => ((m.modCore n fun c => { c with notches := c.notches + 1 }).flipAtNotch n).putSeam n x
  let t := if w = 0 then t else t.mod fun m => m.waitOut n x s.cyc w (a + 1 + w)
  let t := if (t.next.ctx n x).preempt && (t.next.ctx n x).task.any Task.pree then t.mod fun m => m.preemptAt n x a pc else t
  t.modTurn fun u => { u with points := u.points ++ [n] }

/-- Lost messages that no notch raised before a task of their core ended (R349). -/
def Mach.lossEvents (m : Mach) (n x : Nat) : Mach :=
  let ws := (m.core n).losses
  if ws.isEmpty then m
  else (ws.foldl (fun m w => m.postCtx n x cLOSS w) m).modCore n fun c => { c with losses := [] }

/-- The posts of a seam, with those that the bundle's expect has made (R281). -/
def State.bundlePosts (s : State) (l : SMap Nat) : SMap Nat :=
  ((s.next.cl s.clus).posts.filter fun p => p.core == s.n && p.ctx == s.x && decide (p.due = s.age + 2)).foldl
    (fun l p => up l p.cls (· + p.count)) l

/-- YIELD at age a ends the run (R147). A control core, which has one context and no dispatcher, begins its next run with it (R122); so does its
RETIRE, which ends the run and finds no task to end (log 179). -/
def Mach.yields (m : Mach) (n x a : Nat) : Mach :=
  if isControl n then m.modCtx n x fun c => { c with run := .at (a + 3), runFrom := none, pp := none, hp := none }
  else (m.modCtx n x fun c => { c with run := .none, runFrom := none }).modCore n fun c => { c with cur := none, gapTo := a + 3 }

/-- The bundle has issued without fault: the context goes on, and what the bundle ends or begins takes effect. -/
def State.commitBundle (s : State) : State :=
  let n := s.n
  let x := s.x
  let a := s.age
  let pc := s.turn.target.getD s.after
  let first := (s.next.ctx n x).fresh
  let t := if !first || s.turn.ends == 3 then s
    else (s.modMe fun c => { c with seam := some (s.view.seamAt n x s.turn.addr ((s.cyc : Int) - 1)) }).mod fun m => m.putSeam n x
  let t := t.modMe fun c => { c with seam := c.seam.map fun e => { e with posts := s.bundlePosts e.posts } }
  let t := t.modMe fun c =>
    { c with run := s.turn.next.getD (.at (a + 1)), fresh := false, runFrom := some (c.runFrom.getD s.cyc) }
  let t := if s.turn.arm.isEmpty || s.armsOn.isEmpty then t
    else t.modMe fun c => { c with armed := c.armed ++ s.turn.arm.map fun (b, n) => ({ base := b, len := n, copies := s.armsOn } : Armed) }
  let t := t.mod fun m => (m.goOn n x pc a (s.turn.ends == 1)).commit n x (2 ^ 42) (leBytes 2 s.turn.addr)
  match s.turn.ends with
  | 1 => t.mod fun m => m.yields n x a
  | 2 => t.mod fun m => if isControl n then (m.lossEvents n x).yields n x a else (m.lossEvents n x).retire n x a
  | 3 => t.atNotch (pc % 65536)
  | _ => t

/-- The bundle closes, and the next core takes its turn. -/
def State.close (s : State) : State :=
  (match s.turn.fault with
    | some (_, e) => s.annul e
    | none => s.commitBundle.correctRegs).nextCore

/-- After a slot: the next slot of the bundle, or its close. -/
def State.advance (s : State) : State := if s.lastSlot then s.close else s.nextSlot

end Sys2Proof.Machine
end

