-- ==== Sys2Proof/Machine/Cycle.lean ====
section
/-! DEFINITION. The end of a cycle: accesses performed in their order, results landing, posts judged, the dispatcher's part, the
signatures, and the counts; a freeze in place of all of them when a fault is charged (R15, R32, R89, R132, R148, R210, R292 to R298,
R375, R379, R405, R438, R448). -/

namespace Sys2Proof.Machine

/-! ### accesses (R32, R132, R210, R323, R329, R448) -/

/-- The accesses that perform in this cycle: of a compute core by its age, of a control pair those whose own cycle has passed. -/
def Pending.dueAt (q : Pending) (a pclk : Nat) : Bool :=
  if isControl q.core then decide (q.due < pclk) else decide (q.due ≤ a)

/-- The place of an access among those of its cycle (R132): by core, then by slot position; two slots of one position, of different
bundles, in issue order (log 147). The accesses of a control pair that fall in one cycle of its region go first by the pair's own cycles
(R132, R327, R329, R448); a wipe of the tag table comes after the other accesses of its cycle (R308). -/
def Pending.rank (q : Pending) : Nat :=
  let last := match q.acc with
    | .tagwipe => 1
    | _ => 0
  ((q.core * 2 ^ 128 + (if isControl q.core then q.due else 0)) * 16 + 8 * last + q.ord % 8) * 2 ^ 128 + q.ord

/-- The accesses of a cluster due in a cycle, in their order. -/
def Mach.dueIn (m : Mach) (k a : Nat) : List Pending := sortOn Pending.rank ((m.cl k).pend.filter fun q => q.dueAt a m.pclk)

/-- The reads of an engine. -/
def Perf.engineReads (p : Perf) (n a e : Nat) : Perf × List Charge × List Stopped :=
  let cs := (rd (p.m.core n).eng e).copies
  if cs.isEmpty then (p, [], [])
  else
    let (cs, fs, p) := p.readEngine n a 0 false cs
    (p.setCopies n e cs, fs.map (fun f => (n, f.1.ctx, f.2, false)), fs.map fun f => (n, 1 + e, f.1.serial))

/-- The writes of an engine: its copies' beats, then the bits that its bmsets set (R263, R329). -/
def Perf.engineWrites (p : Perf) (n a e : Nat) : Perf :=
  let cs := (rd (p.m.core n).eng e).copies
  if cs.isEmpty || decide (a < (p.m.core n).still) then p
  else
    let due := (p.m.core n).setting e a
    let (cs, p) := p.writeEngine n a cs
    due.foldl (fun p q => p.mod fun m => m.setsBit n a q) (p.setCopies n e cs)

/-- The plain reads of core n in a cycle. -/
def Perf.coreReads (p : Perf) (n a : Nat) (due : List Pending) : Perf × List Charge × List Stopped :=
  let p := (dueTile (rd p.old.tile n) a).1.foldl (fun p q => p.tileRead n q) p
  let p := (due.filter fun q => q.core == n).foldl Perf.readAcc p
  let (p, f0, s0) := p.engineReads n a 0
  let (p, f1, s1) := p.engineReads n a 1
  (p, f0 ++ f1, s0 ++ s1)

/-- The writes of core n in a cycle: its slots, then engine 0, then engine 1, then its matrix unit. -/
def Perf.coreWrites (p : Perf) (arch : Mach) (n a : Nat) (due : List Pending) : Perf × List Charge × List Stopped :=
  let p := (due.filter fun q => q.core == n).foldl Perf.writeAcc p
  let p := (dueTile (rd p.old.tile n) a).1.foldl (fun p q => p.tileWrite n q) p
  let p := (p.engineWrites n a 0).engineWrites n a 1
  let (p, cause) := p.matrix n a
  match cause with
  | none => (p, [], [])
  | some c =>
    let (m, fs, ss) := p.m.stopMx arch n c
    ({ p with m := m }, fs, ss)

/-- The accesses of clusters that perform in a cycle wait no longer. -/
def Mach.dropDue (m : Mach) (ks : List Nat) (a : Nat) : Mach :=
  ks.foldl (fun m k => if (m.cl k).pend.isEmpty then m
    else m.modCl k fun c => { c with pend := c.pend.filter fun q => !q.dueAt a m.pclk }) m

/-- Everything that performs in a cycle of region r at age a: the machine after it, and the faults found. A push of a row that the cycle's reads
took from a tile store is among its writes (R165, R213). -/
def Mach.performed (m arch : Mach) (r a : Nat) : Mach × List Charge × List Stopped :=
  let ks := m.clustersOf r
  let ns := m.coresOf r
  let due := ks.flatMap fun k => m.dueIn k a
  let m0 := m.dropDue ks a
  let m0 := ns.foldl (fun m n => if (rd m.tile n).isEmpty then m else { m with tile := wr m.tile n (dueTile (rd m.tile n) a).2 }) m0
  let start : Perf × List Charge × List Stopped := ({ old := m, m := m0, fix := [] }, [], [])
  let reads := ns.foldl (fun (p, fs, ss) n =>
    let (p, f, s) := Perf.coreReads p n a due
    (p, fs ++ f, ss ++ s)) start
  let pushed := ks.flatMap fun k => reads.1.m.dueIn k a
  let due := if pushed.isEmpty then due else sortOn Pending.rank (due ++ pushed)
  let reads := if pushed.isEmpty then reads else (reads.1.mod fun m => m.dropDue ks a, reads.2)
  let (p, fs, ss) := ns.foldl (fun (p, fs, ss) n =>
    let (p, f, s) := Perf.coreWrites p arch n a due
    (p, fs ++ f, ss ++ s)) reads
  let p := (due.filter fun q => isControl q.core).foldl Perf.writeAcc p
  let p := ks.foldl (fun p k =>
    let ws := sortOn Remote.by_ (p.m.cl k).remote
    if ws.isEmpty then p
    else (ws.foldl (fun p w => p.remote k w) p).mod fun m => m.modCl k fun c => { c with remote := [] }) p
  let p := { p with m := p.corrected }
  (((due.foldl (fun p q => p.bankAcc q a) p).m), fs, ss)

/-! ### landing (R15, R74, R89, R379) -/

/-- Kind and destination of R379. -/
def Landing.key (w : Landing) : Nat × Nat :=
  match w with
  | .s n _ => (1, n)
  | .k n _ => (2, n)
  | .p n _ => (3, n)
  | .v n _ _ => (4, n)
  | .ctl n _ => (5, n)
  | .fmt _ => (6, 0)

/-- The VALUE field of R379. -/
def Landing.value (w : Landing) : Word :=
  match w with
  | .s _ w => w
  | .k _ b => if b then 1 else 0
  | .p _ _ => 0
  | .v _ _ _ => 0
  | .ctl _ w => w
  | .fmt f => f.setWidth 64

/-- The register that a result writes whole, as `Core.soft` names it. -/
def Landing.whole (w : Landing) (x : Nat) : Option (Nat × Nat × Nat) :=
  match w with
  | .s n _ => some (1, x, n)
  | .p n _ => some (2, x, n)
  | .v n _ mask => if mask = fullMask then some (0, 0, n) else none
  | .k _ _ | .ctl _ _ | .fmt _ => none

/-- A register that is written whole holds no error any more (R443; log 178). -/
def Mach.renewed (m : Mach) (n x : Nat) (w : Landing) : Mach :=
  if (m.core n).soft.isEmpty then m else m.modCore n fun c => { c with soft := c.soft.filter fun q => w.whole x != some q }

/-- A result lands: a write to a vector register clears or sets its mark (R161). -/
def Mach.landOne (m : Mach) (n x : Nat) (r : Result) : Mach :=
  let m := (m.commitReg n x r.what.key.1 r.what.key.2 r.what.value).renewed n x r.what
  match r.what with
  | .s d v => m.modCtx n x fun c => { c with s := wr c.s d { val := v, poison := r.poison } }
  | .k d v => m.modCtx n x fun c => { c with k := wr c.k d v }
  | .p d v => m.modCtx n x fun c => { c with p := wr c.p d v }
  | .v d v mask => m.modCore n fun c =>
      { c with v := up c.v d fun o => { val := if mask = fullMask then v else merge o.val v mask, poison := r.poison } }
  | .ctl num v => m.modCtx n x fun c => c.putCtl num v
  | .fmt v => m.modCtx n x fun c => { c with fmt := v }

/-- The results of a context that a bundle issued at age a + 1 reads, under those of a loop closed in the cycle (R89); fill tokens clear with theirs (R266), GST by `bstat gather`. -/
def Mach.landCtx (m : Mach) (n x a : Nat) : Mach :=
  let c := m.ctx n x
  let due := sortOn Result.ord (c.inflight.filter fun r => decide (r.due ≤ a + 1))
  let m := if due.isEmpty then m
    else due.foldl (fun m r => m.landOne n x r)
      (m.modCtx n x fun c => { c with inflight := c.inflight.filter fun r => decide (a + 1 < r.due) })
  let m := match c.loop with
    | some (lc, rrb, prb) => m.modCtx n x fun c => { c with lc := lc, rrb := rrb, prb := prb, loop := none }
    | none => m
  let m := if c.toks.isEmpty then m else m.modCtx n x fun c => { c with toks := c.toks.filter fun t => decide (a + 1 < t.due) }
  if c.gstClr.any (fun t => decide (t ≤ a + 1)) then
    m.modCtx n x fun c => { c with gst := false, gstClr := c.gstClr.filter fun t => decide (a + 1 < t) }
  else m

/-- Engine registers take their values (R246). -/
def Engine.settle (e : Engine) (a : Nat) : Engine :=
  let due := e.sets.filter fun q => decide (q.due ≤ a + 1)
  due.foldl (fun e q => match q.reg with
    | 0 => { e with csrc := q.val }
    | 1 => { e with cdst := q.val }
    | 2 => { e with cdesc := q.val }
    | 3 => { e with cfill := q.val.setWidth 32 }
    | _ => { e with stlen := q.val.setWidth 32 }) { e with sets := e.sets.filter fun q => decide (a + 1 < q.due) }

/-- Shapes and m registers take their values (R212). -/
def Core.settleSets (c : Core) (a : Nat) : Core :=
  (c.sets.filter fun q => decide (q.due ≤ a + 1)).foldl
    (fun c q => if q.shape then { c with shapes := wr c.shapes q.reg q.val } else { c with m := wr c.m q.reg (q.val.setWidth 32) })
    { c with sets := c.sets.filter fun q => decide (a + 1 < q.due) }

/-- A bobbin's seeks take force (R197). -/
def Mach.settleBob (m : Mach) (n b a : Nat) (k : Bobbin) : Mach :=
  let due := k.seeks.filter fun q => decide (q.1 ≤ a + 1)
  if due.isEmpty then m
  else m.modBob n b fun k => k.sought a

/-- Everything of a core that lands for age a + 1. -/
def Mach.landCore (m : Mach) (n a : Nat) : Mach :=
  let c := m.core n
  let m := c.ctxs.foldl (fun m (x, _) => m.landCtx n x a) m
  let m := c.eng.foldl (fun m (e, g) => if g.sets.isEmpty then m else m.modEng n e fun g => g.settle a) m
  let m := if c.sets.isEmpty then m else m.modCore n fun c => c.settleSets a
  let m := c.bob.foldl (fun m (b, k) => if k.seeks.isEmpty then m else m.settleBob n b a k) m
  m.landMx n a

/-- A post comes into force: what rewinds have taken back beyond the count is made good first (R281, R282). -/
def Cluster.expects (c : Cluster) (cls n : Nat) : Cluster :=
  let paid := min (rd c.cdebt cls) n
  { c with cpend := up c.cpend cls (· + (n - paid)), cdebt := if paid = 0 then c.cdebt else up c.cdebt cls (· - paid) }

/-- A rewind takes posts back: those of messages that have opened meanwhile are owed (R281, R282). -/
def Cluster.takesBack (c : Cluster) (cls n : Nat) : Cluster :=
  let have_ := min (rd c.cpend cls) n
  { c with cpend := up c.cpend cls (· - have_), cdebt := if n = have_ then c.cdebt else up c.cdebt cls (· + (n - have_)) }

/-- EXPECT posts of compute cores, or of the control core, that a bundle issued at age a + 1 finds in force (R273). The posts that
came into force at age a are kept apart no longer (R351). -/
def Mach.landPosts (m : Mach) (k a : Nat) (ctl : Bool) : Mach :=
  let c := m.cl k
  if c.posts.isEmpty then m
  else
    let due := c.posts.filter fun p => isControl p.core == ctl && decide (p.due = a + 1)
    m.modCl k fun c => due.foldl (fun c p => c.expects p.cls p.count)
      { c with posts := c.posts.filter fun p => isControl p.core != ctl || decide (a < p.due) }

/-- Vectors pushed by a region land in the egress register of a source (R51). -/
def Source.landed_ (u : Source) (r a : Nat) : Source :=
  let mine (q : Push) : Bool := q.reg == r && decide (q.due ≤ a)
  match (u.pushes.filter mine).getLast? with
  | none => u
  | some q => { u with pushes := u.pushes.filter fun q => !mine q, egress := q.val, egBad := q.bad, egGap := false, landed := true }

/-- One entry enters a gusset (R55, R58): dropped and counted when it is full, discarded while it is disabled; output begins once
START entries are held (R57). -/
def Gusset.push (g : Gusset) (e : GusEnt) : Gusset :=
  if !g.en then g
  else if g.depth ≤ g.ents.length then { g with ovrc := satInc g.ovrc 1 }
  else { g with ents := g.ents ++ [e], started := g.started || decide (g.start ≤ g.ents.length + 1) }

/-- A push at the consumer's age: one that finds an ELASTIC gusset full waits for the pops of the cycle that its consumer is in, if the
consumer's clock runs (R69; log 146). -/
def Gusset.pushed (g : Gusset) (runs : Bool) (e : GusEnt) : Gusset :=
  if runs && g.en && !g.linear && (decide (g.depth ≤ g.ents.length) || !g.late.isEmpty) then { g with late := g.late ++ [e] } else g.push e

/-- Vectors pushed by a region land in a gusset, at the age of the consumer region (R53, R57). -/
def Gusset.landed_ (g : Gusset) (r a cons : Nat) (runs : Bool) : Gusset :=
  let mine (q : Push) : Bool := q.reg == r && decide (q.due ≤ a)
  let due := g.pushes.filter mine
  if due.isEmpty then g
  else due.foldl (fun g q => g.pushed runs { at_ := cons, val := q.val, bad := q.bad }) { g with pushes := g.pushes.filter fun q => !mine q }

/-- The consumer's cycle is over: the pushes that waited for its pops enter, or are dropped. -/
def Gusset.settle (g : Gusset) : Gusset := g.late.foldl Gusset.push { g with late := [] }

def Mach.landPorts (m : Mach) (r a : Nat) : Mach :=
  let m := m.pack.sources.foldl (fun m (u, s) => if s.pushes.isEmpty then m else m.modSource u fun s => s.landed_ r a) m
  let m := m.pack.gussets.foldl (fun m (g, s) => if s.consR ≠ r ∨ s.late.isEmpty then m else m.modGusset g Gusset.settle) m
  m.pack.gussets.foldl (fun m (g, s) => if s.pushes.isEmpty then m
    else m.modGusset g fun s => s.landed_ r a (m.region s.consR).age ((m.region s.consR).runs && s.consR != r)) m

/-! ### barriers and drains (R148, R260) -/

/-- The participants of a context's barrier: the cores of the superstep set if it names its own, else itself alone. -/
def Mach.participants (m : Mach) (n x : Nat) : List Nat :=
  match (m.ctx n x).task with
  | none => [n]
  | some t =>
    let ns := ((List.range 48).filter fun k => t.ssClus.testBit k).flatMap fun k =>
      ((List.range 8).filter fun i => t.ssCores.testBit i).map fun i => 8 * k + i
    if ns.contains n then ns else [n]

/-- Lb of R148. -/
def barrierLat (ns : List Nat) : Nat :=
  let ks := (ns.map clusOf).eraseDups
  if ks.length ≤ 1 then 4
  else if (ks.map (· / 12)).eraseDups.length ≤ 1 then
    4 + 2 * (ks.flatMap fun a => ks.map fun b => hops a b).foldl max 0
  else 40

/-- The age at which a core's context came to the barrier, if it is there. -/
def Mach.atBarrier (m : Mach) (n : Nat) : Option (Nat × Nat) :=
  match (m.core n).cur with
  | none => none
  | some x => match (m.ctx n x).run with
    | .sstep a => some (x, a)
    | _ => none

/-- Work that a context issued before age i and that W of R148 waits for, at the end of the cycle of age a: a write, copy, bit, send or window is
left to perform, complete, be set, arrive or close. A copy whose last beat was written in the cycle is complete (R251). -/
def Mach.unfinished (m : Mach) (n x i a count : Nat) : Bool :=
  ((m.pendBefore n x i).any fun p => p.acc.writesSpad || p.acc.isSpill || p.acc.sends) || !(m.pushesBefore n x i).isEmpty ||
    (m.core n).copies.any (fun c => c.before x i && !c.done (a + 1)) ||
    !(m.sentBefore n x i).isEmpty || (m.ctx n x).closes.any fun t => decide (t.1 < i ∧ count < t.2)

/-- Work that W of R148 waits for: a participant is a core, and what any context of it issued before the SSTEP of age i counts (log 187). -/
def Mach.working (m : Mach) (n i a count : Nat) : Bool := (List.range 8).any fun x => m.unfinished n x i a count

/-- The barriers that release for age a + 1. -/
def Mach.release (m : Mach) (r a : Nat) : Mach :=
  let held := (m.coresOf r).filterMap fun n => (m.atBarrier n).map fun q => (n, q.1, q.2)
  if held.isEmpty then m
  else
    let free (n x : Nat) : Bool :=
      let ns := m.participants n x
      ns.all fun p => match m.atBarrier p with
        | none => false
        | some (_, t) => decide (t + barrierLat ns ≤ a + 1) && !m.working p t a (m.region 0).count
    (held.filter fun (n, x, _) => free n x).foldl (fun m (n, x, _) => m.modCtx n x fun c => { c with run := .at (a + 1) }) m

/-- The barrier of a control core, its only participant, releases for pair cycle a + 1 (R122, R148). -/
def Mach.releaseControl (m : Mach) (n a : Nat) : Mach :=
  match (m.ctx n 0).run with
  | .sstep t => if t + 4 ≤ a + 1 ∧ !m.working n t a (m.region 0).count then m.modCtx n 0 fun c => { c with run := .at (a + 1) } else m
  | _ => m

/-- A drain of SYSTEM scope whose windows close in this cycle, of age a and count t, waits on from it (R260). -/
def Mach.drains (m : Mach) (n x a t : Nat) : Mach :=
  match (m.ctx n x).run with
  | .drain scope i e cs =>
    if cs.any fun c => decide (c ≤ t) then
      m.modCtx n x fun c => { c with run := .drain scope i (max e (a + scopeA scope)) (cs.filter fun c => decide (t < c)) }
    else m
  | _ => m

/-! ### the dispatcher's part of a cycle (R279, R396, R402, R405, R406) -/

/-- The posts read in this cycle are judged in the order of their posters (R396); TASKPOST's flag receives the answer. -/
def Mach.judgePosts (m : Mach) (ks : List Nat) : Mach :=
  let qs := sortOn (fun p : Post => p.core * 2 ^ 128 + p.ord) (ks.flatMap fun k => (m.cl k).postq)
  if qs.isEmpty then m
  else
    let m := ks.foldl (fun m k => if (m.cl k).postq.isEmpty then m else m.modCl k fun c => { c with postq := [] }) m
    qs.foldl (fun m p =>
      let m := m.commitOut p.core p.ctx 11 (recClus (headOf p.words)) (p.words.flatMap fun w => leBytes 8 w.toNat)
      let (m, ok) : Mach × Bool :=
        match m.leadRead p.core postKey with
        | some (bs, _) => (m.tookRead p.core postKey, bs != [0])
        | none =>
          if m.mute p.core p.ctx then (m, (m.refusal (recClus (headOf p.words)) p.words false).isNone)
          else
            let (m, why) := m.judge p.words false
            (m.noteRead p.core postKey [if why = 0 then 1 else 0] false, decide (why = 0))
      match p.k with
      | some 0 | none => m
      | some k => m.modCtx p.core p.ctx fun c => c.fly { due := p.land, ord := p.ord, what := .k k ok, poison := false }) m

/-- The pair's accesses of a cluster that `take` names perform as one cycle: reads, then writes, then power changes. -/
def Mach.pairBatch (m : Mach) (k : Nat) (take : Pending → Bool) : Mach :=
  let mine (q : Pending) : Bool := isControl q.core && take q
  let due := sortOn Pending.rank ((m.cl k).pend.filter mine)
  if due.isEmpty then m
  else
    let p := due.foldl Perf.readAcc { old := m, m := m.modCl k fun c => { c with pend := c.pend.filter fun q => !mine q }, fix := [] }
    let p := due.foldl Perf.writeAcc p
    let p := { p with m := p.corrected }
    (due.foldl (fun p q => p.bankAcc q (m.region (m.regionOf k)).age) p).m

/-- The access's result, due on the pair's clock. -/
def Access.answers (a : Access) : Option Nat :=
  match a with
  | .amo _ _ _ _ _ land | .lookup _ _ land => some land
  | _ => none

/-- The access when its result has been given: an AMO keeps to the word that it returned (R330). -/
def Access.told (a : Access) (w : Option Result) : Access :=
  match a with
  | .amo fn a v swap _ land => match w with
    | some { what := .s _ old, poison := bad, .. } => .amoTold fn a v swap old bad false
    | _ => .amo fn a v swap 0 land
  | .lookup va _ land => .lookup va 0 land
  | a => a

/-- A freeze record is written after the instant of an AMO whose result has been given: what it writes there stays. -/
def Access.before (a : Access) (addr len : Nat) : Access :=
  match a with
  | .amoTold fn b v swap old bad late => .amoTold fn b v swap old bad (late || decide (addr ≤ b ∧ b < addr + len))
  | a => a

/-- Edges that TASKDONE satisfies in this cycle (R279); those of a duplicated task wait for both instances (R441). -/
def Mach.doneEdges (m : Mach) (n x a : Nat) : Mach :=
  let c := m.ctx n x
  let ready (q : TaskDone) : Bool := decide (q.from_ ≤ a) && !(m.core n).copies.any fun p => p.copies && p.before x q.issued
  let due := c.taskdone.filter ready
  if due.isEmpty then m
  else
    let m := m.modCtx n x fun c => { c with taskdone := c.taskdone.filter fun q => !ready q }
    match c.task with
    | none => m
    | some t =>
      if t.dup ≠ 0 then m
      else m.modCl (clusOf n) fun k => due.foldl (fun k q => k.satisfy t.uid fun e => e.write && q.mask.testBit e.j) k

/-- Allotments and translations of ended tasks return (R147, R315); a pattern job's translations stay until it ends. -/
def Mach.returns (m : Mach) (k a : Nat) : Mach :=
  let c := m.cl k
  if c.allots.isEmpty && c.xlats.isEmpty then m
  else
    let held (u : Nat) : Bool := c.allots.any fun g => g.uid == u && g.kind == 0
    let keep (x : Xlat) : Bool := ((m.job x.job).map Job.pattern).getD false
    let gone := ((c.xlats.filter fun x => !keep x).flatMap Xlat.users).eraseDups.filter fun u => !held u
    m.modCl k fun c => { (gone.foldl Cluster.release c) with
      allots := c.allots.filter fun g => match g.until_ with
        | some t => decide (a < t)
        | none => true }

/-! ### signatures (R438 to R440) -/

/-- Commit records enter the launch signature of an instance (R440). -/
def Mach.launchSig (m : Mach) (n x : Nat) (bs : List Byte) : Mach := m.modCtx n x fun k => { k with launch := crc64 k.launch bs }

/-- The cycle's commit records enter the signatures of core n. -/
def Mach.signed (m : Mach) (n : Nat) : Mach :=
  let c := m.core n
  if c.twin == 0 && c.commits.isEmpty then m
  else
    let rs := sortOn Prod.fst c.commits
    let own (x : Nat) := (rs.filter fun q => decide (q.1 < 2 ^ 42) && q.2.1 == x).flatMap fun q => q.2.2
    let ends := (m.cl (clusOf n)).dups.flatMap Dup.open_
    let m := c.ctxs.foldl (fun m (x, k) => if k.task.any (fun t => t.dup != 0) || ends.any (fun q => q.2 == (n, x)) then m.launchSig n x (own x)
      else m) m
    let sig := crc64 c.sig (rs.flatMap fun q => q.2.2)
    m.modCore n fun c => if c.twin == 0 then { c with commits := [] }
      else { c with commits := [], sig := sig, sigs := (sig :: c.sigs).take 3 }

/-- The signatures of pair j of cluster k for the cycle compared (R438): the follower's now, the lead's two cycles earlier; what they
differ by; of a pair that the hem before this cycle has split, what they differed by then (R447). -/
def Mach.mismatch (m : Mach) (k j : Nat) : Word :=
  let lead := 8 * k + 2 * j
  if !m.follows (lead + 1) then (m.core lead).parted
  else (m.core (lead + 1)).sigs.headD 0 ^^^ (m.core lead).sigs.getD 2 0

/-! ### the counts (R45, R295, R297) -/

/-- The region's counts after a cycle: the count stands while a slip's hold lasts. -/
def Region.advance (g : Region) : Region :=
  if 0 < g.hold then { g with age := g.age + 1, free := g.free + 1, hold := g.hold - 1 }
  else { g with age := g.age + 1, free := g.free + 1, count := g.count + 1 }

/-- A data phase on a wheeled path that has not begun at age a starts a cycle later. -/
def Iter.heldBack (i : Iter) (a : Nat) : Iter := if i.wheels.isEmpty || decide (i.d ≤ a) then i else { i with d := i.d + 1 }

/-- While region 0's count stands, so do the wheels (R293): data phases not yet begun on wheeled paths start a cycle later. -/
def Mach.heldWheels (m : Mach) (r a : Nat) : Mach :=
  if r ≠ 0 ∨ (m.region 0).hold = 0 then m
  else (m.coresOf 0).foldl (fun m n => (List.range 2).foldl (fun m e =>
    if (rd (m.core n).eng e).copies.isEmpty then m
    else m.modEng n e fun g => { g with copies := g.copies.map fun c => { c with iters := c.iters.map fun i => i.heldBack a } }) m) m

/-- A core idles in HEMSYNC, or holds no run (R297). -/
def Mach.tailIdle (m : Mach) (n r : Nat) : Bool :=
  match (m.core n).cur with
  | none => true
  | some x =>
    let c := m.ctx n x
    match c.run, c.hp with
    | .cyc t, some h => t == (m.region r).hemOf h + 1
    | _, _ => false

/-- No register or effect of a core's own is on its way, outside its contexts (R296). -/
def Core.still_ (c : Core) : Bool :=
  c.mx.state != 1 && c.mx.mres.isEmpty && c.copies.isEmpty && c.sets.isEmpty && c.eng.all fun q => q.2.sets.isEmpty

/-- A push of a region is on its way to a gusset or an egress register (R53, R202). -/
def Mach.pushing (m : Mach) (r : Nat) : Bool :=
  (m.pack.sources.any fun q => q.2.pushes.any fun p => p.reg == r) || m.pack.gussets.any fun q => q.2.pushes.any fun p => p.reg == r

/-- Nothing of a region is outstanding (R296). -/
def Mach.quiet (m : Mach) (r : Nat) : Bool :=
  !m.pushing r &&
  (m.coresOf r).all (fun n => m.tailIdle n r && (m.core n).still_ && (rd m.tile n).isEmpty &&
      (m.core n).ctxs.all fun (_, c) => c.inflight.isEmpty && c.toks.isEmpty && c.closes.all fun t => decide (t.2 ≤ (m.region 0).count)) &&
    (m.clustersOf r).all (fun k => (m.cl k).pend.all fun q => isControl q.core) &&
    m.pack.flights.all (fun f => !(m.region r).mask.getLsbD (clusOf f.src)) &&
    (r != 0 || (m.clustersOf 0).all (fun k => (m.cl k).inc.all Incoming.closed) &&
      m.clus.all (fun q => q.2.stages.isEmpty && q.2.ringOps.isEmpty) && m.pack.hostq.isEmpty && (!m.pack.ldbusy || m.pack.ldover))

/-- The cycles that a region may skip after the cycle c before its count (R297). -/
def Mach.skipBy (m : Mach) (r : Nat) : Nat :=
  let g := m.region r
  let c := g.count - 1
  if g.sd = 0 ∨ g.cadl = 0 ∨ g.count = 0 ∨ 0 < g.hold ∨ !m.quiet r then 0 else min g.sd (g.hemOf (c / g.cadl) - c)

/-! ### the cycle's end -/

/-- The charge is that of a routine which stopped in the cycle. -/
def Mach.ofRoutine (m : Mach) (ss : List Stopped) (f : Charge) : Bool :=
  ss.contains (f.1, 0, 0) && f.2.1 == (m.core f.1).mx.owner && f.2.2.1 == (m.core f.1).mx.fault

/-- A fault is charged: the region freezes as the cycle found it, but a routine or an engine's work that stopped stays stopped
(R230, R231, R242, R375). An engine fault beside a bundle fault of its context becomes an event (R391); a routine's is recorded in
MXSTATE alone (R238; log 53). Every TWIN raised is counted (R443), and one that a split has left to be raised is raised once (R447). -/
def State.freezeCycle (s : State) (r : Nat) (fs : List Charge) (ss : List Stopped) (after : Mach) : State :=
  let ks := fs.map fun f => (f.1, f.2.1)
  let first := ks.eraseDups.filterMap fun q =>
    ((fs.find? fun f => (f.1, f.2.1) == q && f.2.2.2).or (fs.find? fun f => (f.1, f.2.1) == q))
  let m := (s.turn.undo.getD s.arch).freeze r first
  let m := ss.foldl (fun m (n, u, c) =>
    if u = 0 then (m.modMx n fun _ => (after.core n).mx).noteStop n
    else
      match (rd (m.core n).eng (u - 1)).copies.find? fun q => q.serial == c with
      | some q => ((m.leaves n q (m.now n)).pullUp n (u - 1) (m.now n)).noteRead n (stopKey c) [] false
      | none => m) m
  let m := (fs.filter fun f => f.2.2.1.cause == cTWIN).foldl (fun m f =>
    (m.modCl (clusOf f.1) fun c => c.tally 2 1).modCore f.1 fun c => { c with parted := 0 }) m
  let rest := fs.filter fun f => !f.2.2.2 && !first.contains f && !after.ofRoutine ss f
  let m := rest.foldl (fun m f => m.postCtx f.1 f.2.1 f.2.2.1.cause f.2.2.1.info) m
  let m := first.foldl (fun m (n, x, e, _) =>
    let m := m.modCtx n x fun c => { c with trapc := BitVec.ofNat 8 e.cause, trapi := e.info }
    let m := if e.cause = cLOSS then m.modCore n fun c => { c with losses := c.losses.erase e.info } else m
    if e.cause = cBUDGET then m.modPack fun p => { p with counters := up p.counters (0x180 + fld e.info.toNat 58 6) fun v => satInc v 1 } else m) m
  { s with next := m }

/-- The cycle of count c is the slot in which the dispatcher tests the bit that a queued task waits for (R403): the first of a wheel turn
that ACT0 owns and has not consumed. -/
def Mach.testsAt (m : Mach) (k : Nat) (q : QEnt) (c : Nat) : Bool :=
  match q.wb with
  | none => false
  | some (pa, _) => !q.wbSet && q.state == .queued && decide (c % 8 = 0 ∧ q.tested ≤ c / 2048) &&
      m.slotFree (ctrlOf pa) (fld ((m.cl k).type (recType (headOf q.words))) 108 6) c []

def Mach.testsBit (m : Mach) (k : Nat) (q : QEnt) : Bool := m.testsAt k q (m.region 0).count

/-- The command processor's posts to cluster k are of this domain's cycle (R396, R448). -/
def Mach.postsTo (m : Mach) (d : Domain) (k : Nat) : Bool :=
  decide (48 ≤ k) || match d with
    | .region r => m.regionOf k == r.val
    | .pairs => !(m.region (m.regionOf k)).runs

/-- The step for them, if a SUBMIT has such a post, or none left; none while the command processor is halted (R10, R383). -/
def Mach.postSteps (m : Mach) (d : Domain) : List Owed :=
  match m.pack.submit with
  | none => []
  | some u => if (m.pair 0).dead then [] else match u.rest with
    | [] => [.posting]
    | ws :: _ => if m.postsTo d (recClus (headOf ws)) then [.posting] else []

/-- The steps that the end of a region's cycle brings on: a skip, a hem, the dispatcher's. The slots that a skip of region 0 passes over are lost
(R293). -/
def Mach.afterCycle (m : Mach) (r was : Nat) (idle : Bool) (points : List Nat) : List Owed :=
  let ks := m.clustersOf r
  let g := m.region r
  let j := if idle && decide (was < g.count) then m.skipBy r else 0
  let busy := ks.filter fun k => !(m.cl k).queue.isEmpty
  let ring := (busy.filter fun k => (m.cl k).freeSlot.isSome && decide (0 < (m.cl k).ringCount)).map fun k => Owed.ringReturn (Fin.ofNat 48 k)
  let tests := if r ≠ 0 then [] else (List.range 48).flatMap fun k => ((m.cl k).queue.filter fun q => m.testsAt k q (g.count + j)).map fun q =>
    Owed.completionBitTest (Fin.ofNat 48 k) (Fin.ofNat 256 q.slot)
  let ns := (points ++ (busy.flatMap fun k => (m.cl k).queue.map QEnt.core).filter fun n => (m.core n).cur.isNone).eraseDups
  let adm := (ns.filter fun n => (m.cl (clusOf n)).queue.any fun q => q.core == n && m.isReady (clusOf n) q).map fun n =>
    Owed.admission (Fin.ofNat 384 n)
  let age := (ks.filter fun k => (m.cl k).notched).map fun k => Owed.taskAging (Fin.ofNat 48 k)
  let skip := if 0 < j then [Owed.slipDebtSkip (Fin.ofNat 16 r)] else []
  let hem := if g.cadl ≠ 0 ∧ was / g.cadl ≠ (g.count + j) / g.cadl then [Owed.hem (Fin.ofNat 16 r)] else []
  let ends := (m.pack.jobs.filter fun j => j.regions.getLsbD r && !m.live j.num).map fun j => Owed.jobEnd (BitVec.ofNat 8 j.num)
  m.postSteps (.region (Fin.ofNat 16 r)) ++ skip ++ ring ++ tests ++ sortOn (fun o => match o with
    | .admission n => n.val
    | _ => 0) adm ++ age ++ ends ++ hem

/-- The end of a region's cycle. -/
def State.endRegion (s : State) (r : Nat) : State :=
  let a := (s.next.region r).age
  let (m, fs, ss) := s.next.performed s.arch r a
  let fs := s.turn.faults ++ fs
  let ss := s.turn.stops ++ ss
  if !fs.isEmpty then s.freezeCycle r fs ss m
  else
    let ks := m.clustersOf r
    let m := (m.coresOf r).foldl (fun m n => m.landCore n a) m
    let m := ks.foldl (fun m k => m.landPosts k a false) m
    let m := m.landPorts r a
    let m := m.judgePosts ks
    let m := (m.coresOf r).foldl (fun m n => (m.core n).ctxs.foldl (fun m (x, _) => (m.doneEdges n x a).drains n x a (m.region r).count) m) m
    let m := m.release r a
    let m := ks.foldl (fun m k => m.returns k a) m
    let m := (m.coresOf r).foldl (fun m n => if m.follows n then m.shadow n a else m.choose n (a + 1)) m
    let m := (m.coresOf r).foldl (fun m n => m.signed n) m
    let m := ks.foldl (fun m k => if (m.cl k).dups.isEmpty then m else m.launched k) m
    let m := (m.coresOf r).foldl (fun m n => if (m.core n).log.isEmpty then m
      else m.modCore n fun c => { c with log := c.log.filter fun q => decide (a ≤ q.1 + 2) }) m
    let m := m.heldWheels r a
    let was := (m.region r).count
    let m := m.modRegion r Region.advance
    let todo := m.afterCycle r was (s.arch.quiet r && (s.arch.issuers (.region (Fin.ofNat 16 r))).isEmpty) s.turn.points
    { s with next := ks.foldl (fun m k => if (m.cl k).notched then m.modCl k fun c => { c with notched := false } else m) m, todo := todo }

end Sys2Proof.Machine
end

