-- ==== Sys2Proof/Machine/Jobs.lean ====
section
/-! DEFINITION. The end of tasks and jobs, the resumption of a frozen region, and the dispatcher's own steps (R281, R295 to R298, R384
to R387, R396 to R410, R440, R441, R447). -/

namespace Sys2Proof.Machine

/-! ### work taken back (R281, R352, R386, R387) -/

def Copy.keeps (c : Copy) (x : Nat) : Bool :=
  c.ctx != x || match c.kind with
    | .bmset _ => true
    | .plain | .gath | .scat | .bmchk _ _ _ => false

/-- Everything of a context that has not taken effect is discarded: results, accesses, pushes, copies but bmsets, spills and fills,
values of mpar, mtsh and cpyset, timed sends, and the messages whose payload is not yet read. -/
def Mach.dropWork (m : Mach) (n x : Nat) : Mach :=
  let k := clusOf n
  let mine (o : Outgoing) : Bool := o.core == n && o.ctx == x && decide (o.data.length < o.len)
  let gone := (m.cl k).out.filter mine
  let m := m.modCl k fun c => { c with
    pend := c.pend.filter fun p => p.core != n || p.ctx != x
    out := c.out.filter fun o => !mine o
    postq := c.postq.filter fun p => p.core != n || p.ctx != x }
  let m := if (rd m.tile n).isEmpty then m else { m with tile := up m.tile n fun l => l.filter fun q => q.ctx != x }
  let m := m.modCtx n x fun c => { c with
    inflight := [], toks := [], armed := [], closes := gone.foldl (fun l o => l.eraseP fun q => q.2 == o.close) c.closes }
  let m := if (m.core n).sets.isEmpty then m else m.modCore n fun c => { c with sets := c.sets.filter fun q => q.ctx != x }
  let m := (List.range 2).foldl (fun m e =>
    if (rd (m.core n).eng e).copies.isEmpty && (rd (m.core n).eng e).sets.isEmpty then m
    else
      let m := ((rd (m.core n).eng e).copies.filter fun c => !c.keeps x).foldl (fun m c => m.giveBack c (m.now n)) m
      (m.modEng n e fun g => { g with copies := g.copies.filter fun c => c.keeps x, sets := g.sets.filter fun q => q.ctx != x }).pullUp n e
        (m.now n)) m
  m.modPack fun p => { p with
    flights := p.flights.filter fun f => f.src != n || f.srcCtx != x
    sources := p.sources.map fun (u, s) => (u, { s with pushes := s.pushes.filter fun q => q.core != n || q.ctx != x })
    gussets := p.gussets.map fun (u, s) => (u, { s with pushes := s.pushes.filter fun q => q.core != n || q.ctx != x }) }

def Mach.modJob (m : Mach) (j : Nat) (f : Job → Job) : Mach :=
  m.modPack fun p => { p with jobs := p.jobs.map fun b => if b.num = j then f b else b }

/-- The dispatcher records a kill in the job's status (R387, R410): the first killed task is named there. -/
def Mach.countKill (m : Mach) (j tag : Nat) (trapc : BitVec 8) (trapi : Word) : Mach :=
  m.modJob j fun b => { b with killed := b.killed + 1, first := b.first.or (some (tag, trapc, trapi)) }

/-- A context's task is killed (R387): its work is discarded, its allotments return, its edges stay unsatisfied. -/
def Mach.killTask (m : Mach) (n x : Nat) : Mach :=
  match (m.ctx n x).task with
  | none => m
  | some t =>
    let m := m.lossEvents n x
    let c := m.ctx n x
    let m := ((m.dropWork n x).modCtx n x fun c => { c with taskdone := [] }).vacate n x t.uid (m.now n)
    if m.follows n then m
    else (m.modCl (clusOf n) fun c => c.forget t.uid).countKill t.job t.tag c.trapc c.trapi

/-- A queued task is killed: its record, and what a preload under way has allotted, return (R387, R404, R411); the translations of a pattern
job's task stay until the job ends (R315). -/
def Mach.killQueued (m : Mach) (k : Nat) (q : QEnt) : Mach :=
  let stays := (m.job (recJob (headOf q.words))).any Job.pattern
  let m := m.modCl k fun c => { (if stays then c.forget q.uid else (c.forget q.uid).release q.uid) with
    allots := c.allots.filter fun a => a.uid != q.uid
    ringOps := c.ringOps.filter fun o => match o with
      | .get _ u => u != q.uid
      | .put _ _ => true }
  m.countKill (recJob (headOf q.words)) (recTag (headOf q.words)) 0 0

/-- The ring after records have been taken from it: those that stay stand one after another from its head (R410; log 38). -/
def Mach.compact (m : Mach) (k : Nat) : Mach :=
  let c := m.cl k
  let held := c.queue.filter fun q => q.state == .ring && q.slot == 256
  if held.length = c.ringCount then m
  else
    let gets := c.ringOps.filter fun o => match o with
      | .get _ _ => true
      | .put _ _ => false
    held.zipIdx.foldl (fun m (q, i) =>
      match m.ringPlace k (c.ringHead + i) with
      | .ok (m, pa) => m.modCl k fun c => { c with ringOps := c.ringOps ++ [.put pa q.words] }
      | .error _ => m) (m.modCl k fun c => { c with ringCount := held.length, ringOps := gets })

/-! ### the resumption of a region (R295, R298, R384, R386, R391) -/

/-- A context has received its action, and the action has taken effect. -/
def Mach.acted (m : Mach) (n x : Nat) (act : FreezeAct) : Mach :=
  m.modRegion (m.regionOf (clusOf n)) fun g => { g with recs := g.recs.map fun q =>
    if q.core = n ∧ q.ctx = x then { q with act := some (q.act.getD act), done := true } else q }

/-- Every KIND 1 context has its action, and every action issued has taken effect. -/
def Region.answered (g : Region) : Bool :=
  g.frozen && g.recs.all fun q => if q.kind = 1 ∨ q.act.isSome then q.done else true

/-- The cycles by which a rewound context stands behind its region's count: F − E of R295, and the cycles of a segment's expansion
(R303). -/
def Mach.behindBy (m : Mach) (n x : Nat) : Option Int :=
  let c := m.ctx n x
  let g := m.region (m.regionOf (clusOf n))
  let wait := match c.segbuf with
    | some b => if b.cur.isSome then 0 else (b.due.map (· - g.age)).getD (m.expandTime n b.ptr)
    | none => 0
  c.seam.map fun e => (g.count : Int) - e.e + wait

/-- A core that holds the run of a rewound context: its CYC stands where the seam began, and it waits what is left of the hold. -/
def Mach.restartCore (m : Mach) (n : Nat) (own : Int) (hold : Nat) : Mach :=
  let g := m.region (m.regionOf (clusOf n))
  let shift := if m.follows n then 2 else 0
  let left := ((hold : Int) - own).toNat
  m.modCore n fun c => { c with
    lag := (g.free - g.count + shift + own).toNat
    heldTo := 0
    owed := if left = 0 then [] else [(g.count, left)] }

/-- The slip of rewinds (R295, R298, R386): the count holds, the other cores owe a wait, and the debt grows within SLACK. -/
def Mach.slip (m : Mach) (r : Nat) (back : List (Nat × Nat × Int)) : Mach :=
  let g := m.region r
  let s := (back.foldl (fun (w : Int) (q : Nat × Nat × Int) => max w q.2.2) 0).toNat
  let hold := g.hold + s
  let m := (m.coresOf r).foldl (fun m n =>
    match back.find? fun q => q.1 == n && (m.core n).cur == some q.2.1 with
    | some q => m.restartCore n q.2.2 hold
    | none => if s = 0 then m else m.modCore n fun c => { c with owed := c.owed ++ [(g.count, s)] }) m
  let m := m.modRegion r fun g => { g with
    hold := hold, sd := min g.slack (g.sd + s), slipc := min (2 ^ 32 - 1) (g.slipc + 1), perr := g.perr + s }
  let m := if g.slack < g.sd + s then m.postRegion r cSLIP (BitVec.ofNat 64 (r * 2 ^ 24 + (g.sd + s - g.slack) % 2 ^ 24)) else m
  m.pack.gussets.foldl (fun m (i, u) =>
    if (u.prodR == r || u.consR == r) && decide (u.depth * g.cadl < s * g.cadd)
    then m.postRegion r cGUSSET (BitVec.ofNat 64 (r * 2 ^ 8 + i)) else m) m

/-- The region resumes once every action it waits for has taken effect. -/
def Mach.tryResume (m : Mach) (r : Nat) : Mach :=
  let g := m.region r
  if !g.answered then m
  else
    let back := (g.recs.filter fun q => q.act == some .rewind).filterMap fun q =>
      (m.behindBy q.core q.ctx).map fun w => (q.core, q.ctx, w)
    let m := if g.recs.any (fun q => q.act == some .rewind) then m.slip r back else m
    m.modRegion r fun g => { g with frozen := false, recs := [], recsAt := none }

/-! ### freeze records (R377 to R379) -/

/-- The completion of an engine's work so far as it is known: a bmset's is 24 cycles after that of the work issued before it (R251, R263). -/
def Core.ends (c : Core) (fuel : Nat) (q : Copy) : Nat :=
  match fuel with
  | 0 => q.eta
  | k + 1 => if q.copies then q.eta else (c.copies.filter fun p => p.before q.ctx q.issued).foldl (fun w p => max w (c.ends k p + 24)) q.eta

/-- The cycle of the last scratchpad write of an access that is due in cycle d: a vector slot that has still to pop writes later (R165,
R187). -/
def Access.writtenAt (a : Access) (d : Nat) : Nat :=
  match a with
  | .pop _ i _ _ land => match i with
    | .vstx _ _ _ _ | .vstxa _ _ _ _ => d + 8
    | _ => d + land - 2
  | .gather _ _ _ _ land => d + land - 2
  | _ => d

/-- The cycle in which an access that is due in cycle d has its timed send arrive (R269). -/
def Access.arrives (a : Access) (d : Nat) : Nat :=
  match a with
  | .pop _ _ _ _ land => d + land
  | _ => d

/-- The age at which a fence with the mask, issued at age i, releases, so far as the work it waits for tells it; a routine tells its end
(R229; log 142). A write, and a bmset's bit, releases it in the cycle after its own (log 129). -/
def Mach.fenceAge (m : Mach) (n x mask i a : Nat) : Option Nat :=
  let c := m.core n
  let k := rd c.ctxs x
  let pend := m.pendBefore n x i
  let when_ (b : Bool) (l : List Nat) : Nat := if b then l.foldl max a else a
  let ends := if mask.testBit 4 && c.mx.state == 1 && decide (c.mx.called < i) then m.routineEnd n (2 ^ 32) else some a
  ends.map fun e => [
    e,
    when_ (mask.testBit 0) ((k.inflight.filter fun r => decide (r.ord < 8 * i)).map Result.due ++
      ((m.coming n x).filter fun r => decide (r.ord < 8 * i)).map Coming.due),
    when_ (mask.testBit 1) ((pend.filter fun p => p.acc.writesSpad).map (fun p => p.acc.writtenAt p.due + 1) ++
      (m.pushesBefore n x i).map (· + 1)),
    when_ (mask.testBit 2) ((c.copies.filter fun q => q.before x i).map fun q => c.ends 16 q + (if q.copies then 0 else 1)),
    when_ (mask.testBit 3) ((m.fillsBefore n x i).map FillTok.due ++ (pend.filter fun p => p.acc.isSpill).map fun p => p.due + 1),
    when_ (mask.testBit 5) ((pend.filter fun p => p.acc.sends).map (fun p => p.acc.arrives p.due) ++
      (m.sentBefore n x i).map Flight.due)].foldl max a

/-- A gather or scatter with the indices that it has still to read taken as memory holds them. -/
def Mach.indexed (m : Mach) (n : Nat) (c : Copy) : Copy :=
  let s := (m.cl (clusOf n)).spad
  { c with idx := c.idx ++ ((List.range c.nidx).drop c.idx.length).map fun i => BitVec.ofNat 32 (s.nat (c.list + 4 * i) 4) }

/-- The copies of an engine with the data phases that their indices will give them (R251, R319). -/
def Mach.foretold (m : Mach) (n age busy : Nat) (pull : Bool) (cs : List Copy) : List Copy :=
  match cs with
  | [] => []
  | c :: rest =>
    let (c, m) := m.queued n age busy pull c
    let was := busyAfter busy c
    let (c, m) := if c.listed then (c, m) else m.replan n (m.indexed n c) busy
    c :: m.foretold n age (busyAfter busy c) (pull || decide (busyAfter busy c < was)) rest

/-- The machine for the completions of core n's copies at age a: indices not yet read are taken as memory holds them; a follower's copies come
after its lead's (R319, R378, R389; log 142). -/
def Mach.ahead (m : Mach) (n a : Nat) : Mach :=
  ((if m.follows n then [n - 1, n] else [n]).flatMap fun n => [(n, 0), (n, 1)]).foldl (fun m (n, e) =>
    let cs := (rd (m.core n).eng e).copies
    if cs.all Copy.listed then m else m.modEng n e fun g => { g with copies := m.foretold n a 0 false cs }) m

/-- IDLEK of a context, and IDLE where IDLEK is 0 (R378). -/
def Mach.idleOf (m : Mach) (n x a : Nat) : Nat × Option Nat :=
  let m := m.ahead n a
  match (m.ctx n x).run with
  | .none | .halted => (3, none)
  | .at t => (0, some (t - a))
  | .cyc c => (0, some (c - m.cyc n))
  | .fence mask i => (0, (m.fenceAge n x mask i a).map (· - a))
  | .drain scope i t cs =>
    let c := m.core n
    let w := (c.copies.filter fun q => q.before x i).foldl (fun w q => max w (c.ends 16 q + scopeA scope)) t
    (0, some (cs.foldl (fun w t => max w (a + (t - (m.region (m.regionOf (clusOf n))).count) + scopeA scope)) w - a))
  | .sstep _ => (1, none)
  | .rendezvous t => if t ≤ a then (0, some 0) else (2, none)

/-- The results of a context in flight, in the order of R379; those of accesses not yet performed are not listed. -/
def Mach.listed (m : Mach) (n x : Nat) : List Result := sortOn (fun r : Result => r.due * 2 ^ 128 + r.ord) (m.ctx n x).inflight

/-- An entry of a record (R379). -/
def Result.entry (r : Result) (a : Nat) : List Byte :=
  let (kind, num) := r.what.key
  leBytes 8 (bnat r.poison * 2 ^ 56 + (r.due - a) % 2 ^ 24 * 2 ^ 32 + num % 2 ^ 16 * 2 ^ 16 + kind) ++ leBytes 8 r.what.value.toNat

/-- The record of a context at the freeze of its region. -/
def Mach.record (m : Mach) (g : Region) (q : FreezeRec) : List Byte :=
  let c := m.ctx q.core q.ctx
  let rs := m.listed q.core q.ctx
  let (kind, idle) := m.idleOf q.core q.ctx g.age
  let free := freeBytes q.core q.ctx g.fcyc
  let head := m.recordHead q.core q.ctx c.pc.toNat q.kind q.trapc.toNat q.trapi g.fcyc kind
    (idle.getD (ofBytes (free 28 4))) rs.length
  let body := head ++ rs.flatMap fun r => r.entry g.age
  body ++ free body.length (2048 - body.length)

/-- The event of a KIND 1 record (R382). -/
def Mach.freezeEvent (m : Mach) (r : Nat) (q : FreezeRec) : Event :=
  { cause := q.trapc.toNat, info := q.trapi, core := q.core, ctx := q.ctx, region := r, frz := true, rwf := (m.ctx q.core q.ctx).rwf }

/-- The records of a frozen region, in ascending core and context. -/
def Mach.lateRecs (m : Mach) (r t : Nat) : List LateRec :=
  let g := m.region r
  (sortOn (fun q : FreezeRec => 8 * q.core + q.ctx) g.recs).map fun q =>
    { at_ := t, clus := clusOf q.core, addr := m.recordAt q.core q.ctx, data := m.record g q
      ev := if q.kind = 1 then some (m.freezeEvent r q) else none }

/-- The records of a region are kept as they stand, still to be written, before an answer changes what they hold (R377). -/
def Mach.fileRecs (m : Mach) (r : Nat) : Mach :=
  match (m.region r).recsAt with
  | none => m
  | some t =>
    let l := m.lateRecs r t
    m.modRegion r fun g => { g with recsAt := none, late := g.late ++ l }

/-! ### the end of a job (R410, R437, R441, R447) -/

/-- The regions of a job. -/
def Job.regionsOf (b : Job) : List Nat := (List.range 16).filter fun r => b.regions.getLsbD r

/-- Every task of a job ends in one cluster, in posting order. -/
def Mach.killIn (m : Mach) (k j : Nat) : Mach :=
  let qs := sortOn QEnt.uid ((m.cl k).queue.filter fun q => recJob (headOf q.words) == j)
  let m := qs.foldl (fun m q => match q.state with
    | .resident n x => (m.killTask n x).acted n x (.kill false)
    | .queued | .ring | .preloading _ _ => m.killQueued k q) m
  let m := (coresIn k).foldl (fun m n => (List.range 8).foldl (fun m x =>
    if (m.ctx n x).task.any fun t => t.job == j then (m.killTask n x).acted n x (.kill false) else m) m) m
  (m.modCl k fun c => { c with dups := c.dups.filter fun d => d.job != j, postq := c.postq.filter fun p => recJob (headOf p.words) != j }).compact k

/-- The job as a whole is ended (R410). -/
def Mach.killJob (m : Mach) (j : Nat) : Mach :=
  match m.job j with
  | none => m
  | some b =>
    let m := b.regionsOf.foldl Mach.fileRecs (m.modJob j fun b => { b with whole := true })
    let m := m.modPack fun p => { p with submit := p.submit.map fun u => if u.job = j then { u with rest := [] } else u }
    let m := (b.regionsOf.flatMap m.clustersOf).foldl (fun m k => m.killIn k j) m
    let m := b.regionsOf.foldl Mach.tryResume m
    { m with owed := m.owed ++ [(.now, .jobEnd (BitVec.ofNat 8 j))] }

/-- A killed instance of a duplicated task ends its job (R447). -/
def Mach.killed (m : Mach) (t : Task) : Mach := if t.dup = 0 then m else m.killJob t.job

/-- The status block of a job that has ended (R410). -/
def Job.block (b : Job) : List Byte :=
  let (tag, c, i) := b.first.getD (0, 0, 0)
  leBytes 8 (b.killed % 2 ^ 32 * 2 ^ 16 + (if b.whole then 2 else 1)) ++ leBytes 8 (c.toNat * 2 ^ 16 + tag % 2 ^ 16) ++
    leBytes 8 i.toNat ++ leBytes 8 (b.rtag % 2 ^ 16 * 2 ^ 16 + b.reason % 8) ++ List.replicate 32 0

/-- A job ends: its status block is written, its translations and edges go, its pairs are split, its regions are free. The command processor does
it, unless it is halted (R10, R383). -/
def Mach.endJob (m : Mach) (j : Nat) : Mach :=
  match m.job j with
  | none => m
  | some b =>
    if m.live j || (m.pair 0).dead then m
    else
      let ks := b.regionsOf.flatMap m.clustersOf
      let m := m.modPack fun p => { (p.devStore b.status b.block false) with jobs := p.jobs.filter fun c => c.num != j }
      let m := ks.foldl (fun m k => m.modCl k fun c => { c with
        edges := []
        xlats := c.xlats.filter fun x => x.job != j
        twinReq := if b.twin then c.twinReq ++ (List.range 4).map fun i => (i, false) else c.twinReq }) m
      b.regionsOf.foldl (fun m r => m.modRegion r fun g => { g with job := none }) m

/-! ### the dispatcher's steps -/

/-- R402: an admission point of core n: each level in turn. -/
def execAdmission (n : CoreId) (s : State) : Out := .next (s.mod fun m => (List.range 4).foldl (fun m l => m.letIn n.val l) m)

/-- The allotment of a preload that failed returns, and its task is held (R316, R404). -/
def Mach.holdPreload (m : Mach) (k : Nat) (q : QEnt) (why va : Nat) : Mach :=
  (m.modCl k fun c => { (c.modQ q.uid fun q => { q with state := .queued, held := true }) with
    allots := c.allots.filter fun a => a.uid != q.uid }).postEv k cFOOT (BitVec.ofNat 64 (why * 2 ^ 60 + va % 2 ^ 57))

/-- R315, R316, R405: the translations are made, and the task becomes resident; or it is held. -/
def execPreloadComplete (n : CoreId) (x : CtxId) (s : State) : Out :=
  let k := clusOf n.val
  let m := s.next
  match (m.cl k).queue.find? fun q => q.state == .preloading n.val x.val with
  | none => .next s
  | some q =>
    let h := headOf q.words
    match m.preload k (recJob h) q.uid q.fps (m.cl k).freeXlats [] with
    | .error (why, va) => .next (s.mod fun m => (m.preloadReads k (recJob h) (.error (why, va))).holdPreload k q why va)
    | .ok xs =>
      .next (s.mod fun m =>
        let m := m.preloadReads k (recJob h) (.ok xs)
        let m := m.modCl k fun c => { c with xlats := c.xlats ++ xs }
        let m := m.settle n.val x.val q
        let m := m.modCore n.val fun c => { c with gapTo := max c.gapTo (m.now n.val + 3) }
        m.modCtx n.val x.val fun c => { c with preempt := (m.job (recJob h)).any Job.pree })

/-- R29, R407: one counted notch: a task that has waited 64 at its level joins the tail of the level above. -/
def execTaskAging (k : ClusterId) (s : State) : Out :=
  .next (s.mod fun m => m.modCl k.val fun c =>
    let counts (q : QEnt) : Bool := q.state == .queued && decide (0 < q.level)
    let qs := c.queue.map fun q => if counts q then { q with waited := q.waited + 1 } else q
    let (up, stay) := qs.partition fun q => counts q && decide (64 ≤ q.waited)
    { c with queue := stay ++ up.map fun q => { q with level := q.level - 1, waited := 0 } })

/-- R403: the slot, still unconsumed, is consumed, and the bit is read. -/
def execCompletionBitTest (k : ClusterId) (entry : Fin 256) (s : State) : Out :=
  let m := s.next
  let c0 := (m.region 0).count
  match (m.cl k.val).queue.find? fun q => q.slot == entry.val && m.testsBit k.val q with
  | none => .next s
  | some q =>
    let (pa, bit) := q.wb.getD (0, 0)
    let set := (m.pack.dev.byte pa).getLsbD bit
    .next (s.mod fun m =>
      let m := (m.devMeets pa 1).claim [(ctrlOf pa, c0 / 8)]
      m.modCl k.val fun c => c.modQ q.uid fun q => { q with wbSet := set, tested := c0 / 2048 + 1 })

/-- R398: the oldest ring record returns to the tail of its level. -/
def execRingReturn (k : ClusterId) (s : State) : Out := .next (s.mod fun m => m.fromRing k.val)

/-- R441: the instances of a duplicated task are compared: their edges are satisfied, or the job ends. -/
def execDupCompare (k : ClusterId) (pair : Nat) (s : State) : Out :=
  let k := k.val
  match (s.next.cl k).dups.find? fun d => d.a == pair && d.sa.isSome && d.sb.isSome with
  | none => .next s
  | some d =>
    let t := s.mod fun m => m.modCl k fun c => { c with dups := c.dups.filter fun e => e.a != d.a }
    if d.sa = d.sb then .next (t.mod fun m => m.modCl k fun c => c.satisfy d.a fun _ => true)
    else
      .next (t.mod fun m =>
        let m := (m.modCl k fun c => c.tally 3 1).postEv k cOPER (BitVec.ofNat 64 (d.tag % 2 ^ 16 * 2 ^ 16 + d.job % 256 * 2 ^ 8 + 32))
        (m.modJob d.job fun b => { b with first := some (d.tag, 0x0E, 0) }).killJob d.job)

/-- R410: a job none of whose tasks is left ends. -/
def execJobEnd (job : Byte) (s : State) : Out := .next (s.mod fun m => m.endJob job.toNat)

/-- The task queued in an entry. -/
def Cluster.entry (c : Cluster) (e : Nat) : Option QEnt :=
  c.queue.find? fun q => q.slot == e && match q.state with
    | .queued | .preloading _ _ | .ring => true
    | .resident _ _ => false

/-- R404: HELD clears. -/
def execDhold (k : ClusterId) (entry : Byte) (s : State) : Out :=
  .next (s.mod fun m => m.modCl k.val fun c => { c with queue := c.queue.map fun q =>
    if ((c.entry entry.toNat).any fun e => e.uid == q.uid) then { q with held := false } else q })

/-- R404: the task in the entry is killed, without a freeze. -/
def execDholdKill (k : ClusterId) (entry : Byte) (s : State) : Out :=
  match (s.next.cl k.val).entry entry.toNat with
  | none => .next s
  | some q => .next (s.mod fun m =>
      let m := m.killQueued k.val q
      if q.dup = 0 then m else m.killJob (recJob (headOf q.words)))

/-- R404: every task of the job of the task in the entry is killed. -/
def execDholdKillJob (k : ClusterId) (entry : Byte) (s : State) : Out :=
  match (s.next.cl k.val).entry entry.toNat with
  | none => .next s
  | some q => .next (s.mod fun m => m.killJob (recJob (headOf q.words)))

/-- R400: the spill held is tried again; both instances of a duplicated task in their order. -/
def execDretry (k : ClusterId) (s : State) : Out :=
  .next (s.mod fun m => (sortOn QEnt.uid ((m.cl k.val).queue.filter fun q => q.slot == 255)).foldl (fun m q => m.spillRecord k.val q) m)

/-- R400: DRBASE or DRCFG is written while the ring is empty. -/
def execDringConfigWrite (k : ClusterId) (cfg : Bool) (v : Word) (s : State) : Out :=
  if (s.next.cl k.val).ringCount ≠ 0 then .next s
  else
    let w := BitVec.ofNat 64 (if cfg then v.toNat % 2 ^ 24 else fld v.toNat 12 45 * 2 ^ 12)
    .next (s.mod fun m => m.modCl k.val fun c => { c with regs := wr c.regs (if cfg then 0x111 else 0x110) w, ringHead := 0, ringPages := [] })

end Sys2Proof.Machine
end

