-- ==== Sys2Proof/Machine/Traps.lean ====
section
/-! DEFINITION. Freezes and their answers (R377 to R391), run budgets and commit signatures (R27, R374, R438), slip debt paid (R297),
and the expansion of segments (R301 to R303). -/

namespace Sys2Proof.Machine

/-! ### freeze records complete (R377, R382) -/

/-- A freeze event is posted: the queue holds one for each context, and one that the context still has there gives way (R382; log 185). -/
def Pair.posts (p : Pair) (e : Event) : Pair :=
  { p with frzs := (p.frzs.filter fun q => !(q.core == e.core && q.ctx == e.ctx)) ++ [e] }

/-- A record is written, and its event posted. Into a bank that is down or waking its bytes are discarded, and no BANKOFF is posted (log 167). -/
def Mach.putRec (m : Mach) (q : LateRec) : Mach :=
  let m := m.modCl q.clus fun c => { (c.writeB q.addr q.data false) with
    pend := c.pend.map fun p => { p with acc := p.acc.before q.addr q.data.length } }
  match q.ev with
  | some e => m.modPair q.clus fun p => p.posts e
  | none => m

/-- A freeze's records are complete in this cycle (R377). -/
def Mach.recordsDone (m : Mach) (r : Nat) : Bool :=
  ((m.region r).recsAt.any fun t => decide (t ≤ m.pclk)) || (m.region r).late.any fun q => decide (q.at_ ≤ m.pclk)

/-- R377, R382: the records are complete, and every KIND 1 record's event is posted, in ascending core and context. -/
def execFreezeRecordsComplete (r : RegionId) (s : State) : Out :=
  if !s.next.recordsDone r.val then .next s
  else
    let m := if (s.next.region r.val).recsAt.any fun t => decide (t ≤ s.next.pclk) then s.next.fileRecs r.val else s.next
    let due := (m.region r.val).late.filter fun q => decide (q.at_ ≤ m.pclk)
    .next (s.mod fun _ => (due.foldl Mach.putRec m).modRegion r.val fun g =>
      { g with late := g.late.filter fun q => decide (m.pclk < q.at_) })

/-- R382: control context 0 takes its oldest event, a freeze event first, unless it is in a handler or the pair is halted. -/
def execEventTake (k : ClusterId) (s : State) : Out :=
  let p := s.next.pair k.val
  if p.dead || p.handler then .next s
  else
    match p.frzs, p.evs with
    | e :: rest, _ => .next (s.mod fun m => (m.takeEvent k.val e).modPair k.val fun p => { p with frzs := rest })
    | [], e :: rest => .next (s.mod fun m => (m.takeEvent k.val e).modPair k.val fun p => { p with evs := rest })
    | [], [] => .next s

/-! ### actions (R155, R281, R352, R384 to R387, R389) -/

/-- The expect posts of a seam taken back (R281): those not yet in force at age a are dropped, the others subtracted. -/
def Cluster.unpost (c : Cluster) (n x a : Nat) (made : SMap Nat) : Cluster :=
  let mine (p : ExpPost) : Bool := p.core == n && p.ctx == x
  let early (cls : Nat) : Nat := ((c.posts.filter fun p => mine p && p.cls == cls && decide (a < p.due)).map ExpPost.count).sum
  made.foldl (fun c q => c.takesBack q.1 (q.2 - early q.1)) { c with posts := c.posts.filter fun p => !mine p }

/-- A rewind of a context (R146, R235, R281, R352, R386): its work is discarded, its seam-entry record restored. The routine of the matrix unit is
cancelled if the context owns it and still holds the task with which it came to own it (log 171). -/
def Mach.rewindCtx (m : Mach) (n x : Nat) (byBundle : Bool) : Mach :=
  let k := clusOf n
  let a := m.now n
  let c := m.ctx n x
  let seam := match c.seam with
    | some e => some e
    | none => if byBundle then some (m.seamAt n x c.pc.toNat ((m.cyc n : Int) - 1)) else none
  let m := m.dropWork n x
  let m := m.modMx n fun u => if u.owner = x ∧ u.ownerUid = c.task.map Task.uid
    then { u with state := 0, op := none, mres := [] } else { u with mres := u.mres.filter fun r => r.ctx != x }
  let m := m.modCtx n x fun c => { c with rwf := true, seam := seam, sent := [] }
  match seam with
  | none => m
  | some e =>
    let m := m.modCl k fun c => c.unpost n x a e.posts
    let m := m.modCl k fun cl => { cl with groups := cl.groups.map fun g =>
      let sent (d : Bool) : Bool := c.sent.contains (d, g.id.toNat)
      let seqs := if sent false then setSeq g.seqs n (seqOf e.seqs g.id.toNat) else g.seqs
      let dseqs := if sent true then setSeq g.dseqs n (seqOf e.dseqs g.id.toNat) else g.dseqs
      { g with seqs := seqs, dseqs := dseqs } }
    let m := e.bobs.foldl (fun m (b, k) =>
      let m := match (rd (m.core n).bob b).bound with
        | some g => m.releaseB n b g
        | none => m
      m.modBob n b fun _ => { k with usable := 0, seeks := [] }) m
    let runs := (m.core n).cur.isNone || (m.core n).cur == some x
    let shift := if m.follows n then 2 else 0
    let m := if runs then m.modCore n fun c => { c with cur := some x } else m
    let m := (m.noExpansion n x).modCtx n x fun c => { c with
      seam := some { e with posts := [] }
      pc := BitVec.ofNat 16 e.pc, lc := e.lc, rot := e.rot, rrb := e.rrb, prb := e.prb, pp := e.pp, hp := e.hp, fmt := e.fmt
      masksel := e.masksel
      segbuf := c.segbuf.map fun _ => { cur := none, ptr := e.seg, due := none, other := none, waits := true }
      run := .none }
    if !runs then m
    else
      let (m, first) := m.enters n x (a + shift)
      m.modCtx n x fun c => { c with run := .at first }

/-- A twin pair of which a core was rewound or killed starts its signatures afresh (log 39). -/
def Mach.clearSigs (m : Mach) (n : Nat) : Mach :=
  if (m.partner n).isEmpty then m else m.modCore n fun c => { c with sig := 0, sigs := [0, 0, 0], commits := [], log := [] }

/-- The run budget counts afresh from the resumption (R385). -/
def Mach.freshBudget (m : Mach) (n x : Nat) : Mach := m.modCtx n x fun c => { c with runFrom := some (m.cyc n) }

/-- A thaw (R155, R385): the context resumes from its record, past the annulled bundle under skip, and so does its follower when it
comes to that bundle. -/
def Mach.thawCtx (m : Mach) (n x : Nat) (q : FreezeRec) (skip : Bool) : Mach :=
  let m := if !q.byBundle ∧ q.trapc.toNat = cDEADLINE ∧ fld q.trapi.toNat 32 32 = 0xFFFFFFFE
    then (n :: m.partner n).foldl (fun m n => m.freshBudget n x) m else m
  if skip && q.byBundle then
    let pc := (m.ctx n x).pc.toNat
    let next := pc + 4 * m.slotsFrom n x pc 8
    let m := if m.isLead n then m.modCore (n + 1) fun c => { c with passes := c.passes ++ [(x, pc, next)] } else m
    m.goOn n x next (m.now n - 1) false
  else m

/-- An action takes effect. -/
def Mach.act (m : Mach) (n x : Nat) (q : FreezeRec) (act : FreezeAct) : Mach :=
  let both := sortOn id (n :: m.partner n)
  match act with
  | .thaw skip => (m.thawCtx n x q skip).acted n x act
  | .rewind => both.foldl (fun m n => ((m.rewindCtx n x q.byBundle).clearSigs n).acted n x act) m
  | .kill esc =>
    match (m.ctx n x).task with
    | none => m
    | some t =>
      let m := both.foldl (fun m n => ((m.killTask n x).clearSigs n).acted n x act) m
      if esc then m.killJob t.job else m.killed t

/-- R384 to R387: the action takes effect, and the region resumes with the last one it waits for. -/
def execFreezeActionEffect (n : CoreId) (x : CtxId) (act : FreezeAct) (s : State) : Out :=
  let r := s.next.regionOf (clusOf n.val)
  match (s.next.region r).recOf n.val x.val with
  | none => .next s
  | some q =>
    if !(s.next.region r).frozen || q.done then .next s
    else .next (s.mod fun m => ((m.fileRecs r).act n.val x.val q act).tryResume r)

/-- R381, R384, R387: a write to KILL, 2 cycles after its issue: the kill takes effect 6 cycles later. -/
def execKillWrite (k : ClusterId) (v : Word) (s : State) : Out :=
  let n := fld v.toNat 0 9
  let x := fld v.toNat 9 3
  let g := s.next.region (s.next.regionOf k.val)
  if 384 ≤ n ∨ clusOf n ≠ k.val ∨ !g.frozen ∨ (g.recOf n x).isNone then .next s
  else .next (s.later 6 [.freezeActionEffect (Fin.ofNat 384 n) (Fin.ofNat 8 x) (.kill (v.getLsbD 12))])

/-! ### run budgets and signatures -/

/-- R27, R374: DEADLINE is charged in this cycle. -/
def execRunBudgetExpiry (n : CoreId) (x : CtxId) (s : State) : Out :=
  let b := ((s.next.ctx n.val x.val).task.map Task.budget).getD 0
  .next (s.modTurn fun t => { t with faults := t.faults ++
    [(n.val, x.val, exc cDEADLINE (BitVec.ofNat 64 (0xFFFFFFFE * 2 ^ 32 + b % 2 ^ 32)), false)] })

/-- The context of a core that a TWIN fault is charged to: its run's, else the lowest that holds a task. -/
def Mach.charged (m : Mach) (n : Nat) : Option Nat :=
  match (m.core n).cur with
  | some x => some x
  | none => (List.range 8).find? fun x => (m.ctx n x).task.isSome

/-- R374, R389, R438: the signatures of a pair differ: TWIN is charged to the lead's context. -/
def execTwinCompare (k : ClusterId) (j : Fin 4) (s : State) : Out :=
  let lead := 8 * k.val + 2 * j.val
  let w := s.next.mismatch k.val j.val
  let t := if (s.next.core lead).parted = 0 then s else s.mod fun m => m.modCore lead fun c => { c with parted := 0 }
  match s.next.charged lead with
  | none => .next t
  | some x =>
    if w = 0 then .next t
    else .next (t.modTurn fun t => { t with faults := t.faults ++ [(lead, x, exc cTWIN w, false)] })

/-- R297: in a quiescent cycle the count advances by the debt it can pay, which leaves the phase error (R64). -/
def execSlipDebtSkip (r : RegionId) (s : State) : Out :=
  let g := s.next.region r.val
  let j := s.next.skipBy r.val
  if j = 0 then .next s
  else .next (s.mod fun m => m.modRegion r.val fun _ => { g with count := g.count + j, free := g.free + j, sd := g.sd - j, perr := g.perr - j })

/-! ### segments (R301 to R303) -/

/-- The body words of a segment expanded one by one: the words so far, or the word that makes it malformed (R302). -/
def expandBody (ulen : Nat) (body out : List (BitVec 32)) : Except (BitVec 32) (List (BitVec 32)) :=
  match body with
  | [] => .ok out
  | w :: rest =>
    let c := wordClass w
    let n := if c = 14 then fld w.toNat 0 16 + 1 else if c = 15 then fld w.toNat 0 11 + 1 else 1
    let dist := if c = 14 then 1 else fld w.toNat 11 11
    if ulen < out.length + n then .error w
    else if c < 14 then expandBody ulen rest (out ++ [w])
    else if w.getLsbD 31 || (c == 14 && decide (fld w.toNat 16 11 ≠ 0)) || decide (dist = 0 ∨ out.length < dist) then .error w
    else expandBody ulen rest ((List.range n).foldl (fun o _ => o ++ [o.getD (o.length - dist) 0]) out)

/-- The segment whose header stands at an address of an instruction plane (R301, R302; log 40). -/
def expandSegment (im : SMap (BitVec 32)) (hdr : Nat) : Segment :=
  let h0 := rd im (hdr / 4)
  let h1 := rd im (hdr / 4 + 1)
  let ulen := fld h1.toNat 0 12
  let clen := fld h0.toNat 16 12
  let seg (ws : List (BitVec 32)) (bad : Option (BitVec 32)) : Segment := { hdr := hdr, words := ws, bad := bad, next := fld h1.toNat 16 16 }
  if fld h0.toNat 0 16 ≠ 0 ∨ fld h0.toNat 28 4 ≠ 0 ∨ 65536 < hdr + 8 + 4 * clen then seg [] (some h0)
  else if fld h1.toNat 12 4 ≠ 0 ∨ 512 < ulen then seg [] (some h1)
  else
    match expandBody ulen ((List.range clen).map fun i => rd im (hdr / 4 + 2 + i)) [] with
    | .error w => seg [] (some w)
    | .ok ws => if ws.length = ulen then seg ws none else seg [] (some h1)

/-- R301: the expansion is complete: the segment stands in the other half, or is entered at once if its context runs and waits for it. -/
def execSegmentExpansionComplete (n : CoreId) (x : CtxId) (s : State) : Out :=
  let m := s.next
  match (m.ctx n.val x.val).segbuf with
  | none => .next s
  | some b =>
    if b.ptr = 0xFFFF ∨ b.other.isSome ∨ (b.cur.isNone ∧ b.due.isNone) then .next s
    else
      let g := expandSegment ((m.core n.val).planeOf 0).imem b.ptr
      if b.cur.isSome then
        .next (s.mod fun m => m.modCtx n.val x.val fun c => { c with segbuf := some { b with other := some g } })
      else
        .next (s.mod fun m =>
          let m := m.modCtx n.val x.val fun c => { c with segbuf := some { b with other := some g, waits := false } }
          if (m.core n.val).cur = some x.val then (m.enters n.val x.val (m.now n.val)).1 else m)

end Sys2Proof.Machine
end

