-- ==== Sys2Proof/Machine/Cadence.lean ====
section
/-! DEFINITION. Sources, region ticks, gussets at a tick, the states of a region, and hems (R25, R38 to R69, R156, R157, R291, R299, R300,
R416, R432, R434). -/

namespace Sys2Proof.Machine

/-! ### source ticks (R61 to R65; log 41) -/

/-- Femtoseconds in 2^16 seconds over 2^-16 Hz: a spacing in femtoseconds times CRFREQ is this many for each period. -/
def tickUnit : Nat := 2 ^ 16 * 10 ^ 15

/-- The whole k for which a spacing lies within 500 ppm of k periods (R61). -/
def multipleOf (delta freq : Nat) : Option Nat :=
  let x := delta * freq
  let k := max 1 ((x + tickUnit / 2) / tickUnit)
  let y := k * tickUnit
  if 2000 * ((x - y) + (y - x)) ≤ y then some k else none

/-- A tick at time t is good where a rate is held: the multiple k of the reference spacing; the first tick of all is taken as good. -/
def Source.goodHeld (u : Source) (t : Nat) : Option Nat :=
  match u.lastGood with
  | none => some 1
  | some (t0, _) => if u.freq = 0 then some 1 else multipleOf (t - t0) u.freq.toNat

/-- A tick at time t is good where no rate is held. -/
def Source.goodFree (u : Source) (t : Nat) : Bool :=
  match u.prevT with
  | t1 :: t0 :: _ =>
    let d := t1 - t0
    let e := t - t1
    decide (2000 * ((e - d) + (d - e)) ≤ d)
  | _ => false

/-- The clock that a source rate implies lies between 250 MHz and 2.25 GHz (R62). -/
def Region.inRange (g : Region) (freq : BitVec 48) : Bool :=
  decide (250000000 * 65536 * g.cadd ≤ freq.toNat * g.cadl ∧ freq.toNat * g.cadl ≤ 2250000000 * 65536 * g.cadd)

/-- The regions bound to a source that are not IDLE. -/
def Mach.boundTo (m : Mach) (u : Nat) : List Nat :=
  (List.range 16).filter fun r => (m.region r).src == u && (m.region r).state != 0

/-- A SOURCE event of a region (R65). -/
def Mach.sourceEv (m : Mach) (r sub : Nat) : Mach := m.postRegion r cSOURCE (BitVec.ofNat 64 (r * 16 + sub))

def Mach.sourceEvIf (m : Mach) (c : Bool) (r sub : Nat) : Mach := if c then m.sourceEv r sub else m

/-- The clock that a source rate implies lies beyond 2.25 GHz, or below 250 MHz (R63). -/
def Region.tooFast (g : Region) (freq : BitVec 48) : Bool := decide (2250000000 * 65536 * g.cadd < freq.toNat * g.cadl)
def Region.tooSlow (g : Region) (freq : BitVec 48) : Bool := decide (freq.toNat * g.cadl < 250000000 * 65536 * g.cadd)

/-- A source rate as a region's clock holds it, within the rates that make 250 MHz and 2.25 GHz (R63). -/
def Region.bounded (g : Region) (freq : BitVec 48) : Nat :=
  let at_ (hz : Nat) : Nat := hz * 2 ^ 48 * g.cadd
  min (at_ 2250000000 / max 1 g.cadl) (max ((at_ 250000000 + max 1 g.cadl - 1) / max 1 g.cadl) (freq.toNat * 2 ^ 32))

/-- The rate that the clock follows dt femtoseconds on: it moves to the source's by at most 500 ppm in a second (R63). -/
def Region.follow (g : Region) (freq : BitVec 48) (dt : Nat) : Nat :=
  let step := g.rate * dt / (2 * 10 ^ 18)
  let goal := g.bounded freq
  if g.rate ≤ goal then min goal (g.rate + step) else max goal (g.rate - step)

/-- The rate and the flags of a region in RUN at a source tick, dt femtoseconds after the tick before it (R63, R64): CLAMP while the clock lags
or would exceed 2.25 GHz, FLOOR while 250 MHz holds it, and UNLOCK by the phase error, the loop's and the slips'. -/
def Mach.observe (m : Mach) (r dt : Nat) (obs : LoopObs) : Mach :=
  let g := m.region r
  let rate := g.follow obs.freq dt
  let lags : Bool := rate != g.bounded obs.freq
  let clamp := lags || g.tooFast obs.freq
  let floor := !lags && g.tooSlow obs.freq
  let err := obs.phase * g.cadl + g.perr * 1024 * g.cadd
  let wide := decide (256 * g.cadl < err)
  let calm := if decide (err < 128 * g.cadl) && !wide then g.calm + 1 else 0
  let unlock := wide || g.unlock && decide (calm < 64)
  let m := m.modRegion r fun g => { g with rate := rate, clamp := clamp, floor := floor, unlock := unlock, calm := calm }
  ((m.sourceEvIf (unlock && !g.unlock) r 1).sourceEvIf (clamp && !g.clamp) r 2).sourceEvIf (floor && !g.floor) r 3

/-- A region that waits for good ticks counts one (R62): CADERR while the implied clock is out of range. -/
def Mach.await (m : Mach) (r : Nat) (good : Bool) (freq : BitVec 48) : Mach :=
  let g := m.region r
  if g.inRange freq then m.modRegion r fun g => { g with caderr := false, good := if good then g.good + 1 else 0 }
  else (m.sourceEvIf (!g.caderr) r 7).modRegion r fun g => { g with caderr := true, good := 0 }

/-- A clock that stands starts at the rate that its unit measures (R62). -/
def Mach.measure (m : Mach) (r : Nat) (freq : BitVec 48) : Mach := m.modRegion r fun g => { g with rate := freq.toNat * 2 ^ 32 }

/-- What the source tick numbered n, dt femtoseconds after the one before it, does to a region bound to the source, and the steps that follow at
once. A region that waits to restart does so at a tick whose sample index it has not passed, congruent to 0 modulo D (R299). While a region reads
PARKED for a pre-emption, a resynchronisation or a stop, CADERR stands as it is (R46; log 193). -/
def Mach.tickRegion (m : Mach) (r n dt : Nat) (held free : Bool) (obs : LoopObs) : Mach × List Owed :=
  let g := m.region r
  let rr : RegionId := Fin.ofNat 16 r
  match g.state with
  | 1 =>
    let m := (m.measure r obs.freq).await r free obs.freq
    (m, if 64 ≤ (m.region r).good then [.acquireComplete rr] else [])
  | 2 => (m.observe r dt obs, [])
  | 3 =>
    let n := if held then g.good + 1 else 0
    (m.modRegion r fun g => { g with good := n }, if 64 ≤ n then [.relock rr] else [])
  | 4 =>
    if g.restart then
      let i := (n : Int) - g.base
      (m.measure r obs.freq, if (g.scnt : Int) ≤ i ∧ i.toNat % max 1 g.cadd = 0 then [.patternRestart rr i.toNat] else [])
    else if g.pre || g.stopped then (m, [])
    else
      let m := (m.measure r obs.freq).await r free obs.freq
      (m, if 64 ≤ (m.region r).good then [.relock rr] else [])
  | _ => (m, [])

/-- The payload that waits for the tick numbered n (R38, R42). -/
def Source.payload (u : Source) (n : Nat) : Option (Nat × VWord × Bool) := u.waiting.find? fun w => w.1 % 2 ^ 32 == n % 2 ^ 32

/-- A sample numbered at its tick: with the payload given, with one that waits, with the zero vector of SYSREF, or still to arrive. -/
def Source.number (u : Source) (n : Nat) (given : Option (VWord × Bool)) : Source :=
  let add (v : VWord) (gap arrived : Bool) : List Sample := u.samples ++ [{ n := n, val := v, gap := gap, arrived := arrived }]
  match given with
  | some (v, gap) => { u with samples := add v gap true }
  | none =>
    if u.kind = 0 then { u with samples := add 0 false true }
    else
      match u.payload n with
      | some w => { u with samples := add w.2.1 w.2.2 true, waiting := u.waiting.erase w }
      | none => { u with samples := add 0 true false }

/-- A tick of source u at time t (R49, R61 to R65). R41 does not say what CRFREQ and CRERR do while no region that is not IDLE is bound
to the source: both keep their values (log 141). `refused`: a host record that is not a good tick, which is counted whatever is bound (R416). The tick with which a
region enters RUN is its tick 0 and numbers its sample (R49, R62). -/
def Mach.sourceTick (m : Mach) (u t : Nat) (obs : LoopObs) (refused : Bool) (given : Option (VWord × Bool)) : Mach × List Owed :=
  let src := m.source u
  let rs := m.boundTo u
  let running := rs.any fun r => (m.region r).state == 2
  let holding := rs.any fun r => (m.region r).state == 3
  let parked := rs.any fun r => (m.region r).state == 4
  let free := !refused && src.goodFree t
  let enters := free && rs.any fun r => (m.region r).state == 1 && decide (63 ≤ (m.region r).good) && (m.region r).inRange obs.freq
  let numbers := running || holding || parked || enters
  let mult := if refused || !(running || holding) then none else src.goodHeld t
  let good := if running || holding then mult.isSome else free
  let base := (src.last.map (· + 1)).getD 0
  let n := match mult, src.lastGood with
    | some k, some (_, some g) => max base (g + k)
    | _, _ => base
  let freq := if running || !holding then obs.freq else src.freq
  let num := if numbers then some n else none
  let src' : Source := { src with
    freq := if rs.isEmpty then src.freq else freq
    err := if good || (rs.isEmpty && !refused) then src.err else satInc src.err 1
    ticks := src.ticks + 1
    prevT := t :: src.prevT.take 1
    lastAt := m.pclk
    lastGood := if good then some (t, num) else src.lastGood
    last := if numbers then some n else src.last }
  let m := m.modSource u fun _ => if numbers then src'.number n given else src'
  let dt := (src.prevT.head?.map fun p => t - p).getD 0
  rs.foldl (fun (m, os) r =>
    let (m, o) := m.tickRegion r n dt mult.isSome free obs
    (m, os ++ o)) (m, [])

/-- A step of the machine and the steps that it brings on at once. -/
def State.modTodo (s : State) (f : Mach → Mach × List Owed) : State :=
  let (m, os) := f s.next
  { s with next := m, todo := os ++ s.todo }

/-- SYSREF stops, or comes back (R60). -/
def Mach.setSysref (m : Mach) (u : Nat) (down : Bool) : Mach :=
  if (m.source u).kind = 0 ∧ m.pack.sysrefDown ≠ down then m.modPack fun p => { p with sysrefDown := down } else m

/-- The packet that a source tick at time t presents: a MEDIA source's own (R38). -/
def Source.packet (u : Source) (t : Nat) : Option (Nat × VWord × Bool) := if u.kind = 2 then u.packets.find? fun w => w.1 == t else none

/-- R61: a source tick at a time in femtoseconds, with what the recovery loop finds. The packet presented at it brings its sample, and is gone with
the tick if the tick numbers none (R38, R42). -/
def execSourceTick (u : SourceId) (t : Nat) (obs : LoopObs) (s : State) : Out :=
  let p := (s.next.source u.val).packet t
  .next (s.modTodo fun m =>
    let m := (m.setSysref u.val false).modSource u.val fun g => { g with packets := p.elim g.packets g.packets.erase }
    m.sourceTick u.val t obs false (p.map Prod.snd))

/-! ### sample payloads (R39, R42, R49) -/

/-- The first SBYTES bytes of a payload; the rest is zero (R39). -/
def Source.pad (u : Source) (v : VWord) : VWord := BitVec.ofNat 6144 (v.toNat % 2 ^ (8 * u.sbytes))

/-- The payload of sample n arrives: of its ticked sample, else it waits for the tick. -/
def Source.arrive (u : Source) (n : Nat) (v : VWord) (gap : Bool) : Source :=
  let w : VWord := if gap then 0 else u.pad v
  match u.samples.find? fun s => !s.arrived && n % 2 ^ 32 == s.n % 2 ^ 32 with
  | some s => { u with samples := u.samples.map fun q => if q.n = s.n then { q with val := w, gap := gap, arrived := true } else q }
  | none => { u with waiting := u.waiting ++ [(n, w, gap)] }

/-- A packet of a MEDIA source waits for its presentation time, whose tick takes it (R38, R42). -/
def Source.await (u : Source) (t : Nat) (v : VWord) (gap : Bool) : Source :=
  { u with packets := u.packets ++ [(t, if gap then 0 else u.pad v, gap)] }

/-- R49: the payload of sample n arrives. -/
def execSamplePayloadArrival (u : SourceId) (n : Nat) (data : VWord) (gap : Bool) (s : State) : Out :=
  .next (s.mod fun m => m.modSource u.val fun g => g.arrive n data gap)

/-- The enabled ingress entries of a media port that a PDU's stream matches (R42). -/
def Mach.mediaFor (m : Mach) (port : Bool) (id : Word) : List Nat :=
  (List.range 16).filter fun n =>
    let e := rd m.pack.media n
    e.cfg.getLsbD 63 && !e.dir.getLsbD 0 && (e.dir.getLsbD 1 == port) && e.ssid == id

/-- The tick that a MEDIA source takes from a packet, at its presentation time (R38, R42). -/
def Mach.owePresent (m : Mach) (u : Nat) (p : PduInfo) : Mach :=
  { m with owed := m.owed ++ [(.pair (m.pclk + p.wait), .sourceTick (Fin.ofNat 16 u) p.time p.obs)] }

/-- R38, R42: a PDU is matched to the units that take its stream; a wrong length is counted, anything else delivered, and a MEDIA source
ticks at the presentation time (log 144). -/
def execMediaPduIngress (port : Bool) (id : Word) (vsf : Bool) (seq : PduInfo) (gap : Bool) (len : BitVec 16) (data : VWord)
    (s : State) : Out :=
  if !vsf then .next s
  else
    let es := s.next.mediaFor port id
    .next (s.mod fun m => (List.range 16).foldl (fun m u =>
      let g := m.source u
      if !(g.kind == 2 || g.kind == 3) || !es.contains g.port then m
      else if len.toNat ≠ g.sbytes then m.modSource u fun g => { g with err := satInc g.err 1 }
      else if g.kind = 2 then (m.modSource u fun g => g.await seq.time data gap).owePresent u seq
      else m.modSource u fun g => g.arrive seq.seq.toNat data gap) m)

/-! ### host streams and PTM (R412, R416) -/

/-- Host stream registers (R413): word i of stream n. -/
def Mach.hs (m : Mach) (n i : Nat) : Nat := (rd m.pack.regs (0x2000 + 64 * n + 8 * i)).toNat

/-- The device's PTM time in ns: the last response's, and the pairs' clock since (log 43). -/
def Mach.ptmNow (m : Mach) : Nat := m.pack.ptm.toNat + (m.pclk - m.pack.ptmLast) * 4 / 9

/-- Device address of the next input record of a source's host stream. -/
def Mach.hostRec (m : Mach) (u : Nat) : Nat :=
  let g := m.source u
  m.hs g.port 0 + 1024 * g.hsNext

/-- The records, from the unit's next one on, that are written and whose time has come. -/
def Mach.hostDue (m : Mach) (base size i tail fuel : Nat) : Nat :=
  match fuel with
  | 0 => 0
  | k + 1 =>
    if i = tail ∨ m.ptmNow < m.pack.dev.nat (base + 1024 * i) 8 then 0 else 1 + m.hostDue base size ((i + 1) % size) tail k

/-- The ticks that the unit takes in this cycle, its stream being on: one for each such record (R416). -/
def Mach.hostReady (m : Mach) (u : Nat) : Nat :=
  let g := m.source u
  let size := m.hs g.port 1
  if g.kind = 1 ∧ !g.noPtm then m.hostDue (m.hs g.port 0) size g.hsNext (m.hs g.port 2) size else 0

/-- R416: the next record of the host stream ticks; one not later than its predecessor is not good and delivers nothing. -/
def execHostRecordTick (u : SourceId) (obs : LoopObs) (s : State) : Out :=
  let m := s.next
  let g := m.source u.val
  let size := m.hs g.port 1
  if g.kind ≠ 1 ∨ g.noPtm ∨ size = 0 ∨ g.hsNext = m.hs g.port 2 then .next s
  else
    let at_ := m.hostRec u.val
    let time := m.pack.dev.nat at_ 8
    let gap := (m.pack.dev.byte (at_ + 12)).getLsbD 0
    let stale := g.hsTime.any fun last => decide (time ≤ last)
    let v := if gap then 0 else g.pad (m.pack.dev.vec (at_ + 16))
    .next (s.modTodo fun m =>
      let m := (m.devMeets at_ 1024).modSource u.val fun g => { g with hsNext := (g.hsNext + 1) % size, hsTime := some time }
      m.sourceTick u.val (time * 1000000) obs stale (if stale then none else some (v, gap)))

/-- R412: the PTM requester asks for the time. -/
def execPtmRequest (s : State) : Out := .next (s.mod fun m => m.modPack fun p => { p with out := p.out ++ [.ptmRequest] })

/-- R416: no response for 10 ms: the unit takes no ticks. -/
def execPtmTimeout (u : SourceId) (s : State) : Out := .next (s.mod fun m => m.modSource u.val fun g => { g with noPtm := true })

/-- R416: a response sets the device's time, and the units take ticks again. -/
def execPtmResponse (t : Word) (s : State) : Out :=
  .next (s.mod fun m => m.modPack fun p => { p with
    ptm := t, ptmLast := m.pclk, sources := p.sources.map fun (u, g) => (u, { g with noPtm := false }) })

/-! ### region ticks (R45, R49, R51, R57, R59) -/

/-- The ingress register takes the newest due sample that the region has not taken; older ones are passed over (R49). In HOLDOVER it
takes the zero vector flagged GAP (R62). -/
def Mach.takeSample (m : Mach) (r : Nat) : Mach :=
  let g := m.region r
  let src := m.source g.src
  let due := src.samples.filter fun q => q.arrived && decide (q.n + 3 ≤ src.last.getD 0) && !g.taken.contains q.n
  if g.state ≠ 2 then m.modRegion r fun g => { g with ingress := 0, ingGap := true }
  else
    let top := due.foldl (fun n q => max n q.n) 0
    match due.find? fun q => q.n == top with
    | none => m.modRegion r fun g => { g with ingress := 0, ingGap := true }
    | some q =>
      let older := due.filter fun p => decide (p.n < top)
      let m := m.modRegion r fun g => { g with
        ingress := q.val, ingGap := q.gap, skipc := min (2 ^ 32 - 1) (g.skipc + older.length), taken := g.taken ++ due.map Sample.n }
      let rs := m.boundTo g.src
      let spent (n : Nat) : Bool := rs.all fun r => (m.region r).taken.contains n
      let m := rs.foldl (fun m r => m.modRegion r fun g => { g with taken := g.taken.filter fun n => !spent n }) m
      m.modSource g.src fun s => { s with samples := s.samples.filter fun q => !spent q.n }

/-- A write to host memory: performed, or discarded and counted while the link is fenced (R420). -/
def Mach.hostWrite (m : Mach) (a : Nat) (bs : List Byte) : Mach :=
  if m.pack.fenced then
    m.modPack fun p => { p with regs := up p.regs 0x3000 fun v => BitVec.ofNat 64 (min (2 ^ 32 - 1) (v.toNat + 1)) }
  else m.modPack fun p => { p with host := p.host.store a bs false }

/-- A host stream's record (R416). -/
def hostRecord (time seq : Nat) (gap : Bool) (v : VWord) : List Byte :=
  leBytes 8 time ++ leBytes 4 seq ++ leBytes 4 (bnat gap) ++ leBytes 768 v.toNat ++ List.replicate 240 0

/-- The PDU that an egress entry emits (R42); its presentation time is open (log 144). -/
def Media.pdu (e : Media) (u seq len : Nat) (gap : Bool) (v : VWord) : Pdu :=
  { port := e.dir.getLsbD 1, id := e.ssid, dmac := e.cfg.extractLsb' 0 48, vid := e.cfg.extractLsb' 48 12, pcp := e.cfg.extractLsb' 60 3
    stamp := Config.freeStamp u seq, seq := BitVec.ofNat 32 seq, gap := gap, len := len, val := v }

/-- Emission of a source's egress register at tick number seq (R51, R42, R416). -/
def Mach.emit (m : Mach) (u seq : Nat) : Mach :=
  let g := m.source u
  let gap := g.egGap || !g.landed
  let v := g.pad g.egress
  let m := m.modSource u fun g => { g with landed := false }
  if g.kind = 1 then
    let n := g.port
    let size := m.hs n 1
    if size = 0 then m
    else
      let head := m.hs n 4
      let m := m.hostWrite (m.hs n 3 + 1024 * head) (hostRecord m.ptmNow seq gap v)
      m.modPack fun p => { p with
        regs := wr p.regs (0x2000 + 64 * n + 32) (BitVec.ofNat 64 ((head + 1) % size))
        out := if p.fenced then p.out else p.out ++ [.hostRecord n gap v] }
  else
    let e := rd m.pack.media g.eport
    if e.cfg.getLsbD 63 && e.dir.getLsbD 0 then m.modPack fun p => { p with out := p.out ++ [.media (e.pdu u seq g.sbytes gap v)] } else m

/-- The region on whose ticks a source emits: the lowest bound one in RUN or HOLDOVER (R51). -/
def Mach.emitter (m : Mach) (u : Nat) : Option Nat :=
  (List.range 16).find? fun r => (m.region r).src == u && ((m.region r).state == 2 || (m.region r).state == 3)

/-- A lane of a LINEAR gusset's output (R59). -/
def linearLane (f x0 x1 : Nat) : Nat :=
  if f = 0 then x0
  else
    let a := decF fp32 x0
    let b := decF fp32 x1
    if a.isNan || b.isNan then fp32.nan
    else if x0 = x1 ∧ a.isInf then x0
    else if a.isInf || b.isInf then fp32.nan
    else encF fp32 0 (sumF 0 [a, (sumF 0 [b, a.neg]).mul (.fin false f (-16))])

/-- A LINEAR gusset at a tick of its consumer (R59), at age a of gusset i. With no entry visible R59 has no x0 and gives no output: the
output is a free value (log 44), and A and GUNDC move as the rule says. -/
def Gusset.linearTick (g : Gusset) (i a : Nat) : Gusset :=
  let x0 := g.ents.headD default
  let x1 := if g.visible ≤ 1 then x0 else g.ents.getD 1 default
  let f := fld g.a.toNat 16 16
  let y := if g.visible = 0 then Config.freeLinear i a
    else if f = 0 then x0.val else vecOf 4 192 fun i => linearLane f (lane x0.val i) (lane x1.val i)
  let sum := g.a.toNat + g.gstep.toNat
  let adv := sum / 2 ^ 32
  let short := decide (g.visible < adv + 1)
  let n := if short then g.visible - 1 else adv
  { g with
    lin := y, linBad := g.visible != 0 && (x0.bad || f != 0 && x1.bad), linGap := false, a := BitVec.ofNat 32 sum
    ents := g.ents.drop n, visible := g.visible - n, undc := if short then satInc g.undc 1 else g.undc }

/-- Gusset i at a tick of its consumer region, at that region's age a (R57, R59). -/
def Gusset.consumerTick (g : Gusset) (i a : Nat) : Gusset :=
  if !g.en then g
  else
    let g := { g with visible := (g.ents.takeWhile fun e => decide (e.at_ + 4 ≤ a)).length }
    if g.started && g.linear then g.linearTick i a else g

/-- A bflush of the consumer end removes the entries visible in its cycle, after the tick of that cycle (R200). -/
def Gusset.flushed (g : Gusset) (a : Nat) : Gusset :=
  if g.flushes.any fun t => decide (t ≤ a) then
    { g with ents := g.ents.drop g.visible, visible := 0, flushes := g.flushes.filter fun t => decide (a < t) }
  else g

/-- The bflushes of region r's consumer ends that are due in its cycle. -/
def Mach.flushDue (m : Mach) (r : Nat) : Bool :=
  m.pack.gussets.any fun (_, u) => u.consR == r && u.flushes.any fun t => decide (t ≤ (m.region r).age)

def Mach.flushAll (m : Mach) (r : Nat) : Mach :=
  let a := (m.region r).age
  m.modPack fun p => { p with gussets := p.gussets.map fun (i, u) => (i, if u.consR == r then u.flushed a else u) }

/-- R49, R51, R57: a sample tick of the region. -/
def execRegionTick (r : RegionId) (s : State) : Out :=
  let g := s.next.region r.val
  if g.state ≠ 2 ∧ g.state ≠ 3 then .next s
  else
    .next (s.undoable.mod fun m =>
      let m := m.takeSample r.val
      let m := if m.emitter g.src == some r.val then m.emit g.src g.scnt else m
      let m := m.modPack fun p => { p with gussets := p.gussets.map fun (i, u) =>
        (i, if u.consR == r.val then u.consumerTick i g.age else u) }
      m.modRegion r.val fun g => { g with scnt := g.scnt + 1 })

/-! ### the states of a region (R62, R69, R299, R300) -/

/-- A region enters RUN from ACQUIRE: its counts start at 0 (R62) with the sample numbered last, its engines' registers and tag tables are reset
(R245, R308). Samples that the source numbered before count as taken: they are not due to the region, nor in its SKIPC (R49; log 192). -/
def Mach.enterRun (m : Mach) (r : Nat) : Mach :=
  let m := m.modRegion r fun g => { g with
    state := 2, count := 0, free := 0, scnt := 0, skew := 0, hemc := 0, sd := 0, perr := 0, hold := 0, good := 0, calm := 0, caderr := false
    ingress := 0, ingGap := true, base := (((m.source g.src).last.getD 0 : Nat) : Int)
    taken := ((m.source g.src).samples.map Sample.n).filter fun n => decide (n < (m.source g.src).last.getD 0) }
  let m := (m.clustersOf r).foldl (fun m k => if (m.cl k).tags.isEmpty then m else m.modCl k fun c => { c with tags := [] }) m
  (m.coresOf r).foldl (fun m n => m.modCore n fun c => { c with
    lag := if c.twin = 2 then 2 else 0
    heldTo := 0
    owed := []
    eng := c.eng.map fun (e, g) => (e, { g with csrc := 0, cdst := 0, cdesc := 0, cfill := 0, stlen := 0, sets := [] }) }) m

/-- R62: 64 good ticks in range: ACQUIRE to RUN. -/
def execAcquireComplete (r : RegionId) (s : State) : Out :=
  if (s.next.region r.val).state ≠ 1 then .next s else .next (s.mod fun m => m.enterRun r.val)

/-- R62: RUN to HOLDOVER. A region of SYSREF that loses its ticks has lost SYSREF (R60). -/
def execTickLoss (r : RegionId) (s : State) : Out :=
  if (s.next.region r.val).state ≠ 2 then .next s
  else .next (s.mod fun m => ((m.modRegion r.val fun g => { g with state := 3, good := 0, holdFrom := m.pclk }).sourceEv r.val 4).setSysref
    (m.region r.val).src true)

/-- R62: the holdover limit is reached: the region parks at its next hem; region 0 never does (R60). -/
def execHoldtExpiry (r : RegionId) (s : State) : Out :=
  if (s.next.region r.val).state ≠ 3 ∨ r.val = 0 then .next s
  else .next (s.mod fun m => m.modRegion r.val fun g => { g with wantPark := true })

/-- R62: 64 good ticks: a region in HOLDOVER returns to RUN at its next hem, a parked one at once. -/
def execRelock (r : RegionId) (s : State) : Out :=
  let g := s.next.region r.val
  if g.state = 3 then .next (s.mod fun m => m.modRegion r.val fun g => { g with wantRelock := true })
  else if g.state = 4 ∧ !g.pre ∧ !g.stopped ∧ !g.restart then
    .next (s.mod fun m => (m.modRegion r.val fun g => { g with
      state := 2, good := 0, base := (((m.source g.src).last.getD 0 : Nat) : Int) - g.scnt }).sourceEv r.val 6)
  else .next s

/-- R299, R300: the region restarts at cycle 0 of the period that follows its hem, where its count stands, and SCNT passes the samples
before `tick` over (log 143). -/
def execPatternRestart (r : RegionId) (tick : Nat) (s : State) : Out :=
  let g := s.next.region r.val
  if g.state ≠ 4 ∨ !g.restart then .next s
  else
    .next (s.mod fun m => (m.modRegion r.val fun g => { g with
      state := 2, restart := false, pre := false, sd := 0, perr := 0, scnt := tick, skew := g.skew + (tick - g.scnt), good := 0 }).sourceEv
        r.val 6)

/-! ### hems (R25) -/

/-- The region's state at its hem: it stops, holds, waits to restart, relocks or parks. A resynchronisation stops and restarts region 0 as it does
any other (R60, R299; log 186). -/
def Mach.hemState (m : Mach) (r : Nat) : Mach :=
  let g := m.region r
  let park (g : Region) : Region := { g with state := 4, good := 0, wantPark := false, wantRelock := false, wantPre := false }
  let parks (f : Region → Region) : Mach := (m.modRegion r fun g => f (park g)).sourceEvIf (g.state == 3) r 5
  if g.wantStop then parks fun g => { g with pre := false, stopped := true, wantStop := false, rsync := false }
  else if g.wantPre then parks fun g => { g with pre := true }
  else if g.rsync then parks fun g => { g with restart := true, rsync := false }
  else if g.state = 3 ∧ g.wantRelock then
    (m.modRegion r fun g => { g with state := 2, good := 0, wantPark := false, wantRelock := false }).sourceEv r 6
  else if g.state = 3 ∧ g.wantPark then parks id
  else m

/-- Planes that a cluster's cores flip at the hem (R156, R427). -/
def Mach.hemFlips (m : Mach) (r k : Nat) : Mach :=
  let mask := (m.cl k).flips &&& 0xF#6
  if mask = 0 then m
  else
    let m := (coresIn k).foldl (fun m n => m.modCore n fun c => c.flip mask) m
    (m.modCl k fun c => { c with flips := 0 }).extend 3 (leBytes 1 k ++ leBytes 1 mask.toNat ++ leBytes 8 (m.region r).hemc)

/-- A context two cycles behind: of a follower, as its lead was two cycles earlier. -/
def Ctx.later (c : Ctx) : Ctx :=
  { c with
    inflight := c.inflight.map fun r => { r with due := r.due + 2, ord := r.ord + 16 }
    toks := c.toks.map fun t => { t with due := t.due + 2 }
    gstClr := c.gstClr.map (· + 2)
    closes := c.closes.map fun q => (q.1 + 2, q.2)
    taskdone := []
    run := match c.run with
      | .at t => .at (t + 2)
      | .drain k i t cs => .drain k (i + 2) (t + 2) (cs.map (· + 2))
      | .sstep t => .sstep (t + 2)
      | .rendezvous t => .rendezvous (t + 2)
      | .cyc c => .cyc c
      | .fence w i => .fence w (i + 2)
      | .none => .none
      | .halted => .halted }

/-- A matrix unit two cycles behind. -/
def Matrix.later (u : Matrix) : Matrix :=
  { u with called := u.called + 2, began := u.began + 2, nextAt := u.nextAt + 2, mres := u.mres.map fun r => { r with due := r.due + 2 } }

/-- A bobbin two cycles behind. -/
def Bobbin.later (b : Bobbin) : Bobbin :=
  { b with usable := b.usable + 2, seeks := b.seeks.map fun q => (q.1 + 2, q.2) }

/-- A copy engine two cycles behind: its copies claim no slot. -/
def Engine.later (g : Engine) : Engine :=
  { g with
    sets := g.sets.map fun q => { q with due := q.due + 2 }
    copies := g.copies.map fun c =>
      { c with issued := c.issued + 2, iters := c.iters.map fun i => { i with d := i.d + 2, claimed := false } } }

/-- Cores 2j and 2j + 1 are joined (R157, R438): the follower takes the lead's state, two cycles behind (log 45). -/
def Mach.join (m : Mach) (k j : Nat) : Mach :=
  let n := 8 * k + 2 * j
  let f := m.core (n + 1)
  if f.ctxs.any fun q => q.2.task.isSome then m
  else
    let c := m.core n
    let m := f.bob.foldl (fun m (b, q) => match q.bound with
      | some g => m.releaseB (n + 1) b g
      | none => m) m
    let m := m.modCore n fun c => { c with twin := 1, sig := 0, sigs := [0, 0, 0], commits := [], log := [] }
    let m := m.modCl k fun c => { c with pend := c.pend ++ (c.pend.filter fun p => p.core == n).map fun p =>
      { p with core := n + 1, due := p.due + 2, ord := p.ord + 16 } }
    let tile : List TilePending := (rd m.tile n).map fun q => { q with due := q.due + 2, ord := q.ord + 16 }
    let m : Mach := { m with tile := wr m.tile (n + 1) tile }
    m.modCore (n + 1) fun _ => { c with
      twin := 2, still := m.now n + 2, sig := 0, sigs := [0, 0, 0], commits := [], log := [], losses := [], soft := [], lag := c.lag + 2, heldTo := c.heldTo + 2
      mx := c.mx.later, sets := c.sets.map fun q => { q with due := q.due + 2 }
      ctxs := c.ctxs.map fun (x, q) => (x, q.later)
      eng := c.eng.map fun (e, g) => (e, g.later)
      bob := c.bob.map fun (b, q) => (b, q.later)
      plane0 := f.plane0, plane1 := f.plane1, active := f.active, complete := f.complete, flips := f.flips }

/-- The pair is split (R157): the follower holds no task any more, and its bobbins no gusset end or egress. A difference of its signatures in
the cycle that ends is still to be raised (R447). -/
def Mach.split (m : Mach) (k j : Nat) : Mach :=
  let n := 8 * k + 2 * j
  if !m.follows (n + 1) then m
  else
    let w := m.mismatch k j
    let m := m.modCore n fun c => { c with twin := 0, sig := 0, sigs := [], commits := [], log := [], parted := w }
    m.modCore (n + 1) fun c => { c with
      twin := 0, sig := 0, sigs := [], commits := [], cur := none, lag := (m.core n).lag, heldTo := (m.core n).heldTo, owed := (m.core n).owed, passes := []
      bob := c.bob.map fun (b, q) => if q.bound.any fun g => decide (4 ≤ g.kind) then (b, { q with bound := none, eos := false, gap := false, pos := 0, seeks := [] }) else (b, q)
      ctxs := c.ctxs.map fun (x, q) => (x, q.emptied) }

/-- Joins and splits of a cluster (R157). -/
def Mach.hemTwins (m : Mach) (k : Nat) : Mach :=
  let qs := (m.cl k).twinReq
  if qs.isEmpty then m
  else
    (qs.foldl (fun m (j, on) => if on then m.join k j else m.split k j) m).modCl k fun c => { c with
      twinReq := []
      twins := qs.foldl (fun l (j, on) => if on then addIx l j else l.filter (· ≠ j)) c.twins }

/-- A core whose state cannot be read (R432): its tasks are killed, of which a duplicated one ends its job (R447), and a zero-filled spare takes
its place. -/
def Mach.zeroSpare (m : Mach) (k i : Nat) : Mach :=
  let n := 8 * k + i
  let m := (List.range 8).foldl (fun m x => match (m.ctx n x).task with
    | none => m
    | some t => (m.killTask n x).killed t) m
  (m.modCl k fun c => { c with spareUsed := true, spare := c.spare ||| 0x200 }).modCore n fun c =>
    { (default : Core) with lag := c.lag, heldTo := c.heldTo, twin := c.twin, gapTo := c.gapTo, copySerial := c.copySerial }

/-- Whether core i's state can be read: a free value (log 82). -/
def Mach.reads (m : Mach) (k i : Nat) : Bool := Config.coreReads (8 * k + i) (m.region (m.regionOf k)).age

/-- The spare takes core i's place (R432): its state as it stands where it is kept, else a core that holds only the planes. -/
def Mach.takeSpare (m : Mach) (k i : Nat) (keep : Bool) : Mach :=
  let n := 8 * k + i
  let m := m.modCl k fun c => { c with spareUsed := true, spare := c.spare ||| 0x200 }
  m.modCore n fun c =>
    if keep then { c with soft := [] }
    else { (default : Core) with
      plane0 := c.plane0, plane1 := c.plane1, active := c.active, complete := c.complete, flips := c.flips, last := c.last, lag := c.lag, heldTo := c.heldTo
      twin := c.twin, gapTo := c.gapTo, copySerial := c.copySerial }

/-- The spare swap of a task-mode cluster, at a hem at which the failing core holds no resident task (R432). -/
def Mach.hemSpare (m : Mach) (r k : Nat) : Mach :=
  let c := m.cl k
  match c.spareReq with
  | none => m
  | some i =>
    if c.spareUsed || (m.region r).mode != 0 then m
    else if !m.reads k i then m.zeroSpare k i
    else if (m.core (8 * k + i)).ctxs.any fun q => q.2.task.isSome then m
    else m.takeSpare k i false

/-- The spare swaps of a pattern-mode region while pre-emption holds it (R432). -/
def Mach.swapHeld (m : Mach) (r : Nat) : Mach :=
  let g := m.region r
  if g.mode ≠ 1 ∨ g.state ≠ 4 ∨ !g.pre then m
  else
    (m.clustersOf r).foldl (fun m k => match (m.cl k).spareReq with
      | some i => if (m.cl k).spareUsed then m else if m.reads k i then m.takeSpare k i true else m.zeroSpare k i
      | none => m) m

/-- GSTEP of a gusset under TRACK at a hem of its consumer (R59). R59 does not say whether a disabled gusset follows, or one in ELASTIC
mode: GSTEP moves only while EN is 1, in either mode (log 140). -/
def Mach.track (m : Mach) (r : Nat) : Mach :=
  m.modPack fun p => { p with gussets := p.gussets.map fun (i, u) =>
    let a := (m.source (m.region u.prodR).src).freq.toNat
    let b := (m.source (m.region r).src).freq.toNat
    (i, if u.consR = r ∧ u.en ∧ !u.cfg.getLsbD 21 ∧ b ≠ 0
      then { u with gstep := BitVec.ofNat 40 (min (2 ^ 40 - 1) ((2 * 2 ^ 32 * a + b) / (2 * b))) } else u) }

/-- What the hem of region 0 does for the package: shadow maps become active, slots of the period that ends are forgotten, and row mappings
move (R252, R291, R434). -/
def Mach.hemZero (m : Mach) : Mach :=
  let n := m.pack.pprWait.length
  let c := (m.region 0).count
  m.modPack fun p => { p with
    wheels := p.wheels.map fun (i, w) =>
      (i, { map := w.shadow.getD w.map, shadow := none, used := w.used.filter fun u => decide (c ≤ 8 * u) })
    counters := if n = 0 then p.counters else up p.counters 0x174 fun v => satInc v n
    repairs := p.repairs ++ p.pprWait
    pprWait := [] }

/-- R25: the last cycle of a pattern period has passed. -/
def execHem (r : RegionId) (s : State) : Out :=
  .next (s.mod fun m =>
    let r := r.val
    let ks := m.clustersOf r
    let m := m.modRegion r fun g => { g with hemc := g.hemc + 1 }
    let m := ks.foldl (fun m k => ((m.hemFlips r k).hemTwins k).hemSpare r k) m
    let m := m.track r
    let m := if r = 0 then m.hemZero else m
    (m.hemState r).swapHeld r)

end Sys2Proof.Machine
end

