-- ==== Sys2Proof/Machine/Fabric.lean ====
section
/-! DEFINITION. The erasure-coded fabric: forming fragments, their routes, the fate of a fragment, the close of a message, digests and
counters (R271 to R277, R337 to R357). -/

namespace Sys2Proof.Machine

/-! ### the code (R338) -/

/-- Multiplication in GF(2^8) with the polynomial 0x11D, over the bits of b from bit n - 1 down. -/
def gmulBits (n a b acc : Nat) : Nat :=
  match n with
  | 0 => acc
  | k + 1 =>
    let s := 2 * acc
    let s := if 256 ≤ s then s ^^^ 0x11D else s
    gmulBits k a b (if b.testBit k then s ^^^ a else s)

def gmul (a b : Nat) : Nat := gmulBits 8 a b 0

/-- a to the power n. -/
def gpow (a n : Nat) : Nat :=
  match n with
  | 0 => 1
  | k + 1 => gmul a (gpow a k)

/-- Inversion: the 254th power. -/
def ginv (a : Nat) : Nat := gpow a 254

/-- C[j][i] of R338. -/
def coef (j i : Nat) : Nat := ginv (j ^^^ (16 + i))

/-- Bytes per fragment body (R338). -/
def fragLen (p k : Nat) : Nat := ((p + k - 1) / k + 31) / 32 * 32

/-- Data fragment i of a payload. -/
def dataFrag (payload : List Byte) (f i : Nat) : List Nat :=
  let b := ((payload.drop (i * f)).take f).map BitVec.toNat
  b ++ List.replicate (f - b.length) 0

def xorLists (a b : List Nat) : List Nat := (a.zip b).map fun q => q.1 ^^^ q.2

/-- Parity fragment j over data fragments. -/
def parity (ds : List (List Nat)) (f j : Nat) : List Nat :=
  ds.zipIdx.foldl (fun acc (d, i) => let c := coef j i; xorLists acc (d.map (gmul c))) (List.replicate f 0)

/-- A row scaled. -/
def scaleRow (c : Nat) (r : List Nat) : List Nat := r.map (gmul c)

/-- Rows of equations reduced column by column: coefficients first, then the right-hand bytes. -/
def reduce (n col : Nat) (rows : List (List Nat)) : List (List Nat) :=
  match n with
  | 0 => rows
  | k + 1 =>
    let p := rows.getD col []
    let p := scaleRow (ginv (p.getD col 0)) p
    reduce k (col + 1) (rows.zipIdx.map fun (r, i) => if i = col then p else xorLists r (scaleRow (r.getD col 0) p))

/-- The message rebuilt from its fragments (R348): the data fragments held, each missing one solved from the held parity fragments of
lowest index. -/
def rebuild (k len : Nat) (frags : List (Nat × List Byte)) : List Byte :=
  let f := fragLen len k
  let held (i : Nat) : Option (List Nat) := (frags.find? fun q => q.1 == i).map fun q => q.2.map BitVec.toNat
  let missing := (List.range k).filter fun i => (held i).isNone
  let pars := (((List.range 4).filter fun j => (held (k + j)).isSome).take missing.length)
  let rows := pars.map fun j =>
    let rhs := (List.range k).foldl (fun acc i => match held i with
      | some d => let c := coef j i; xorLists acc (d.map (gmul c))
      | none => acc) ((held (k + j)).getD [])
    missing.map (coef j) ++ rhs
  let solved := reduce missing.length 0 rows
  let part (i : Nat) : List Nat := match held i with
    | some d => d
    | none => ((solved.getD (missing.idxOf i) []).drop missing.length)
  (((List.range k).flatMap fun i => let d := part i; (d.take f) ++ List.replicate (f - d.length) 0).take len).map (BitVec.ofNat 8)

/-! ### routes (R341 to R344) -/

def kOf (kc : Nat) : Nat := match kc with
  | 0 => 2
  | 1 => 4
  | 2 => 8
  | 3 => 12
  | _ => 16

def rateKC (r : BitVec 28) : Nat := fld r.toNat 0 3
def rateM (r : BitVec 28) : Nat := fld r.toNat 4 3
def ratePaths (r : BitVec 28) : List Nat := (List.range 16).filter fun p => r.getLsbD (12 + p)

/-- The boundaries crossed going up from die i to die j, in order. -/
def wayUp (i j fuel : Nat) : List Nat :=
  match fuel with
  | 0 => []
  | k + 1 => if i = j then [] else i :: wayUp ((i + 1) % 4) j k

/-- The boundaries crossed going down. -/
def wayDown (i j fuel : Nat) : List Nat :=
  match fuel with
  | 0 => []
  | k + 1 => if i = j then [] else (i + 3) % 4 :: wayDown ((i + 3) % 4) j k

/-- The shorter way round the ring is up; between opposite dies the way through the lower-numbered die (R342). -/
def upIsShort (i j : Nat) : Bool :=
  let n := (j + 4 - i) % 4
  n == 1 || n == 2 && decide ((i + 1) % 4 < (i + 3) % 4)

/-- The boundaries from die i to die j, the shorter way or the other. -/
def ringWay (i j : Nat) (short : Bool) : List Nat := if upIsShort i j == short then wayUp i j 4 else wayDown i j 4

def bulkLeg (h f : Nat) : Leg := { path := none, xfer := 0, fixed := 8 + 2 * h + (f + 16 + 127) / 128 }
def boundaryLeg (b g f : Nat) : Leg := { path := some (.lane (Fin.ofNat 4 b) (Fin.ofNat 8 g)), xfer := (f + 16 + 511) / 512, fixed := 30 }
def fabricLeg (p f : Nat) : Leg := { path := some (.port (Fin.ofNat 16 p)), xfer := (f + 16 + 95) / 96, fixed := 120 }

/-- The legs of a fragment of f bytes on path p from cluster a to cluster b of its package, or to the link of a port to another. -/
def legs (here : Bool) (a b p f : Nat) : List Leg :=
  let i := a / 12
  if !here then
    let d := p / 4
    bulkLeg (hops a (12 * d + p % 4)) f :: ((ringWay i d true).map fun w => boundaryLeg w (p % 8) f) ++ [fabricLeg p f]
  else if i = b / 12 then [bulkLeg (hops a b) f]
  else bulkLeg (hops a b) f :: (ringWay i (b / 12) (decide (p < 8))).map fun w => boundaryLeg w (p % 8) f

/-- The legs of a fragment of f bytes from arrival port q to cluster k (R343, R344): on a boundary it takes lane group q mod 8 (log 131). -/
def legsIn (q k f : Nat) : List Leg :=
  ((ringWay (q / 4) (k / 12) true).map fun w => boundaryLeg w (q % 8) f) ++ [bulkLeg (hops (12 * (k / 12) + q % 4) k) f]

/-- Header bytes 0 to 11 (R339). -/
def fragHeader (f : Fragment) : List Byte :=
  leBytes 12 (f.seq.toNat * 2 ^ 80 + f.group.toNat * 2 ^ 68 + f.smem.toNat * 2 ^ 61 + f.index.toNat * 2 ^ 56 + f.kc.toNat * 2 ^ 53 + f.m.toNat * 2 ^ 50 +
    f.len.toNat * 2 ^ 37 + f.close.toNat * 2 ^ 12 + bnat f.dig * 2 ^ 11 + f.rsv.toNat)

/-- The CRC of a fragment: CRC-32C of header bytes 0 to 11 followed by the body (R339). -/
def fragCrc (f : Fragment) : BitVec 32 := crc32c (fragHeader f ++ f.body)

/-! ### forming fragments (R338, R339, R344, R272, R276) -/

/-- The packages and clusters that a message goes to. -/
def Outgoing.targets (o : Outgoing) (g : Group) (pkg : Nat) : List (Nat × Nat) :=
  let ms := match o.dest with
    | some d => [d]
    | none => g.members.filter fun q => q != (pkg, o.core)
  ((ms.filter fun q => decide (q.2 < 384)).map fun q => (q.1, q.2 / 8)).eraseDups

/-- The fragments of a message for one target, each with the time it enters its path; one for another package names the port by which it
leaves (R343). -/
def Outgoing.fragments (o : Outgoing) (smem pkg : Nat) (payload : List Byte) (to_ : Nat × Nat) : List Transit :=
  let here := to_.1 == pkg
  let own := here && to_.2 / 12 == clusOf o.core / 12
  let kc := rateKC o.rate
  let k := kOf kc
  let m := if own then 0 else rateM o.rate
  let p := payload.length
  let f := fragLen p k
  let ds := (List.range k).map (dataFrag payload f)
  let paths := ratePaths o.rate
  let from_ := o.at_ + 6 + (if o.dig then o.len / 256 else (o.len + 255) / 256)
  (List.range (k + m)).map fun n =>
    let body := if n < k then ds.getD n [] else parity ds f (n - k)
    let path := paths.getD (n % max 1 paths.length) 0
    let ls := legs here (clusOf o.core) to_.2 path f
    let g : Fragment :=
              { seq := BitVec.ofNat 16 o.seq, group := o.group, smem := BitVec.ofNat 7 smem, index := BitVec.ofNat 5 n, kc := BitVec.ofNat 3 kc
                m := BitVec.ofNat 3 m, len := BitVec.ofNat 13 p, close := BitVec.ofNat 25 o.close, dig := o.dig, crc := 0, rsv := 0
                body := body.map (BitVec.ofNat 8), dest := o.dest.map fun d => Fin.ofNat 384 d.2
                port := if here then none else some (Fin.ofNat 16 path) }
    { frag := { g with crc := fragCrc g }
      core := o.core, pkg := to_.1, clus := to_.2, legs := ls, at_ := from_ + n, left := (ls.headD (bulkLeg 0 0)).xfer, cross := none }

/-- A member table's first entry that names a core; 127 if none does (R339). -/
def Group.smemOf (g : Group) (pkg n : Nat) : Nat := (g.members.findIdx? (· == (pkg, n))).getD 127

/-- Core n is a member whose digest number seq has neither closed nor been sent: one that a rewind sends again is compared once (R281, R356). -/
def Group.owes (g : Group) (n seq : Nat) : Bool :=
  (g.shut.any fun q => q.1 == n && decide ((seq + 65536 - q.2) % 65536 < 32768)) && !g.own.any fun q => q.1 == n && q.2.1 == seq

/-- A message whose payload has been read (R272, R276): a digest's register and own value, and its fragments. -/
def Mach.sendOff (m : Mach) (k : Nat) (o : Outgoing) : Mach :=
  let crc := crc64 0 o.data
  let m := if o.dig ∧ o.reg ≠ 0 then m.modCtx o.core o.ctx fun c =>
      c.fly { due := o.land, ord := 8 * o.at_ + 7, what := .s o.reg crc, poison := false } else m
  let m := m.modCl k fun c => { c with out := c.out.filter fun q => q.serial != o.serial }
  let m := m.commitOut o.core o.ctx 9 o.group.toNat o.data
  match (m.cl k).group o.group with
  | none => m
  | some g =>
    if o.mute then m
    else
      let pkg := m.pack.pkg
      let payload := if o.dig then leBytes 8 crc.toNat else o.data
      let ts := (o.targets g pkg).flatMap fun t => o.fragments (g.smemOf pkg o.core) pkg payload t
      let own (x : Group) : Group :=
        if x.id = o.group ∧ x.owes o.core o.seq then { x with own := x.own ++ [(o.core, o.seq, crc, o.close)] } else x
      let m := if o.dig then m.modCl k fun c => { c with groups := c.groups.map own } else m
      m.modPack fun p => { p with transit := p.transit ++ ts }

/-- The messages of the clusters of region 0 whose payload is complete. -/
def Mach.sendOffs (m : Mach) : Mach :=
  (m.clustersOf 0).foldl (fun m k =>
    ((m.cl k).out.filter fun o => decide (o.len ≤ o.data.length)).foldl (fun m o => m.sendOff k o) m) m

/-! ### the journey (R342, R344, R345) -/

/-- The wheel of the resource that a path belongs to (R291). -/
def wheelOf (p : PathId) : Nat :=
  match p with
  | .port q => 20 + q.val
  | .lane b _ => 16 + b.val

/-- A copy's data phase uses a wheel's resource in the cycle of age a. -/
def Mach.phaseOn (m : Mach) (w a : Nat) : Bool :=
  (m.coresOf 0).any fun n => (m.core n).copies.any fun c => c.iters.any fun i => i.wheels.contains w && decide (i.d ≤ a ∧ a < i.d + i.beats)

/-- A fragment at the end of its leg begins the next one. -/
def Transit.next (t : Transit) (at_ : Nat) : Transit :=
  match t.legs with
  | [] => t
  | _ :: rest => { t with legs := rest, at_ := at_, left := (rest.headD (bulkLeg 0 0)).xfer }

/-- Legs on the bulk network take their cycles at once. -/
def Transit.bulk (t : Transit) (fuel : Nat) : Transit :=
  match fuel with
  | 0 => t
  | k + 1 => match t.legs with
    | { path := none, fixed := c, .. } :: _ => (t.next (t.at_ + c)).bulk k
    | _ => t

def Transit.path (t : Transit) : Option PathId := (t.legs.headD (bulkLeg 0 0)).path

/-- At age a the fragment is on the path: it waits for it, moves onto it, or is in the fixed part of its leg (R435). -/
def Transit.isOn (t : Transit) (p : PathId) (a : Nat) : Bool :=
  t.path == some p && decide (t.at_ ≤ a) || t.cross.any fun q => q.1 == p && decide (a < q.2)

/-- One cycle of the fragments on a path: those that come to it while it is down are lost; the first in order moves unless a copy's data
phase takes the cycle. -/
def Mach.pathCycle (m : Mach) (a : Nat) (ts : List Transit) (p : PathId) : List Transit :=
  let here (t : Transit) : Bool := t.path == some p && decide (t.at_ ≤ a)
  if m.pack.downs.contains p || m.pack.retrain.contains p then ts.filter fun t => !here t
  else if m.phaseOn (wheelOf p) a then ts
  else
    match sortOn (fun t : Transit => (t.at_ * 512 + t.core) * 32 + t.frag.index.toNat) (ts.filter here) with
    | [] => ts
    | t :: _ =>
      let u :=
        if t.left ≤ 1 then
          let by_ := a + 1 + (t.legs.headD (bulkLeg 0 0)).fixed
          { t.next by_ with cross := some (p, by_) }
        else { t with left := t.left - 1 }
      (u :: ts.erase t)

/-- One cycle of region 0 in the network: fragments for other packages leave at the end of their port's leg. -/
def Mach.journey (m : Mach) (a : Nat) : Mach :=
  if m.pack.transit.isEmpty then m
  else
    let ts := m.pack.transit.map fun t => t.bulk 4
    let ps := ((ts.filter fun t => decide (t.at_ ≤ a)).filterMap Transit.path).eraseDups
    let ts := (ps.foldl (fun ts p => m.pathCycle a ts p) ts).map fun t => t.bulk 4
    let gone (t : Transit) : Bool := t.legs.isEmpty && t.pkg != m.pack.pkg && decide (t.at_ ≤ a + 1)
    m.modPack fun p => { p with
      transit := ts.filter fun t => !gone t
      out := p.out ++ (ts.filter gone).map fun t => .fragment t.pkg t.clus t.frag }

/-- Fragments of this package that have come to their cluster by age a, in order. -/
def Mach.arrivals (m : Mach) (a : Nat) : List Transit :=
  sortOn (fun t : Transit => (t.at_ * 512 + t.core) * 32 + t.frag.index.toNat) (m.pack.transit.filter fun t => t.legs.isEmpty && decide (t.at_ ≤ a))

/-- R345: what a path has held for 2^23 cycles is discarded. -/
def execFragmentExpiry (p : PathId) (s : State) : Out :=
  .next (s.mod fun m => m.modPack fun k => { k with
    transit := k.transit.filter fun t => t.path != some p || decide ((m.region 0).age < t.at_ + 2 ^ 23) })

/-- R342: a path is down: what is sent on it is lost, and an event goes to the command processor's pair, whose cause, one of R372's, and
word are open (log 47). -/
def execPathDown (p : PathId) (s : State) : Out :=
  .next { (s.mod fun m => (m.modPack fun k => { k with downs := if k.downs.contains p then k.downs else k.downs ++ [p] }).postEv 0
      (1 + (Config.freeWord s.draws).toNat % 25) (Config.freeWord (s.draws + 1))) with draws := s.draws + 2 }

/-! ### the decode window (R346, R347) -/

/-- The close cycle that a fragment arriving at count a names (R346). -/
def closeOf (close : BitVec 25) (a : Nat) : Int :=
  let lo : Int := (a : Int) - 2 ^ 24
  lo + ((close.toNat : Int) - lo) % 2 ^ 25

/-- The header is well formed and the CRC right (R340). -/
def fragValid (f : Fragment) : Bool :=
  f.crc == fragCrc f && decide (f.kc.toNat ≤ 4 ∧ f.m.toNat ≤ 4 ∧ kOf f.kc.toNat + f.m.toNat ≤ 20 ∧ f.index.toNat < kOf f.kc.toNat + f.m.toNat ∧
    1 ≤ f.len.toNat ∧ f.len.toNat ≤ 4096) && f.rsv == 0 && f.smem != 127

def Incoming.isFor (i : Incoming) (f : Fragment) : Bool :=
  i.group == f.group && i.smem == f.smem.toNat && i.dig == f.dig && i.seq == f.seq.toNat

/-- Decode buffers in use (R350). -/
def Cluster.buffers (c : Cluster) : Nat :=
  (c.inc.filter fun i => !i.closed && i.buf).length +
    ((List.range 8).map fun q => ((rd c.queues q).filter Delivered.buf).length).sum

/-- PEND of a class before the posts that came into force in this cycle (R351). -/
def Cluster.pendOf (c : Cluster) (cls a : Nat) : Nat :=
  rd c.cpend cls - ((c.posts.filter fun p => p.cls == cls && !isControl p.core && decide (p.due = a)).map ExpPost.count).sum

/-- A fabric counter of the cluster grows by one: 0 LATEC, 1 LOSSC, 2 DIGMC, 3 NOVRC, 4 CRCFC (R277). -/
def Cluster.tick (c : Cluster) (i : Nat) : Cluster := { c with cnt := up c.cnt i fun v => satInc v 1 }

/-- Every member of this cluster has closed its own digest n, and compared it (R356). -/
def Group.digestShut (g : Group) (n : Nat) : Bool := !g.shut.isEmpty && g.shut.all fun q => decide ((n + 65536 - q.2) % 65536 ≥ 32768)

/-- The fate of a fragment that arrives at count x0 and age a (R347): the rows in their order. -/
def Cluster.judge (c : Cluster) (f : Fragment) (x0 a : Nat) : Cluster :=
  let late := c.tick 0
  let X := closeOf f.close x0
  let k := kOf f.kc.toNat
  if !fragValid f then c.tick 4
  else if X ≤ (x0 : Int) - 1 then late
  else
    match c.group f.group with
    | none => late
    | some g =>
      if g.members.length < f.smem.toNat + 1 then late
      else
        match c.inc.find? fun i => i.isFor f with
        | some i =>
          if i.closed || decide (i.k ≠ k ∨ i.m ≠ f.m.toNat ∨ i.len ≠ f.len.toNat ∨ (i.close : Int) ≠ X) ||
              i.frags.any fun q => q.1 == f.index.toNat then late
          else { c with inc := c.inc.map fun j => if j.isFor f then { j with frags := j.frags ++ [(f.index.toNat, f.body)] } else j }
        | none =>
          if (if f.dig then g.digestShut f.seq.toNat else c.pendOf g.cls a == 0) then late
          else
            let i : Incoming :=
              { group := f.group, smem := f.smem.toNat, seq := f.seq.toNat, dig := f.dig, k := k, m := f.m.toNat, len := f.len.toNat
                close := X.toNat, cls := g.cls, frags := [(f.index.toNat, f.body)], dest := f.dest.map Fin.val, closed := false, lost := false
                buf := !f.dig && decide (c.buffers < 32), poison := false }
            { c with
              inc := c.inc ++ [i]
              cpend := if f.dig then c.cpend else up c.cpend g.cls (· - 1)
              groups := c.groups.map fun x => if x.id = f.group then { x with last := max x.last X.toNat } else x }

/-- R343, R344, R347: a fragment arrives at a cluster, or, from another package, at a port, from which it has its legs to the cluster. -/
def execFragmentArrival (k : ClusterId) (f : Fragment) (s : State) : Out :=
  match f.port with
  | none => .next (s.mod fun m => m.modCl k.val fun c => c.judge f (m.region 0).count (m.region 0).age)
  | some q =>
    let ls := legsIn q.val k.val f.body.length
    .next (s.mod fun m => m.modPack fun p => { p with transit := p.transit ++
      [{ frag := { f with port := none }, core := 384, pkg := p.pkg, clus := k.val, legs := ls, at_ := (m.region 0).age
         left := (ls.headD (bulkLeg 0 0)).xfer, cross := none }] })

/-! ### the close of a window (R348, R349, R356) -/

/-- Keys in the order of R348. -/
def Incoming.order (i : Incoming) : Nat := ((i.group.toNat * 128 + i.smem) * 2 + bnat i.dig) * 65536 + i.seq

/-- A fabric event (R356), counted in DIGMC. -/
def Mach.digestEvent (m : Mach) (k sub : Nat) (g : BitVec 12) (other : Nat) : Mach :=
  (m.modCl k fun c => c.tick 2).postEv k cLOSS (BitVec.ofNat 64 (other % 128 * 2 ^ 16 + g.toNat * 2 ^ 4 + sub))

/-- The information word of LOSS (R349). -/
def Incoming.lossWord (i : Incoming) : Word :=
  BitVec.ofNat 64 (i.seq % 65536 * 2 ^ 48 + i.group.toNat * 2 ^ 32 + i.smem % 128 * 2 ^ 24 + i.cls % 8 * 2 ^ 20 + i.len % 8192)

/-- The closed records that stay: the last 64 of each group and member (R347). -/
def keepClosed (l : List Incoming) : List Incoming :=
  l.filter fun i => !i.closed ||
    decide (((l.dropWhile fun j => j != i).filter fun j => j.closed && j.group == i.group && j.smem == i.smem).length ≤ 64)

/-- One message closes. -/
def Mach.closeOne (m : Mach) (k : Nat) (i : Incoming) : Mach :=
  let whole := decide (i.k ≤ i.frags.length)
  let data := rebuild i.k i.len i.frags
  let done (ok : Bool) : Incoming := { i with closed := true, lost := !ok, frags := if ok then [(0, data)] else [] }
  let record (m : Mach) (ok : Bool) : Mach := m.modCl k fun c => { c with
    inc := keepClosed ((c.inc.filter fun j => !(j.order == i.order)) ++ [done ok]) }
  if i.dig then
    let heard (g : Group) : Group := if whole && g.id == i.group && !g.digestShut i.seq && !g.shut.isEmpty
      then { g with heard := g.heard ++ [(i.smem, i.seq, data.take 8)] } else g
    (record m whole).modCl k fun c => { c with groups := c.groups.map heard }
  else
    let ok := whole && i.buf
    let m := record m ok
    let d : Delivered :=
      { group := i.group, seq := i.seq, len := i.len, lost := !ok, data := if ok then data else List.replicate i.len 0, buf := i.buf }
    let m := m.modCl k fun c => { c with queues := up c.queues i.cls (· ++ [d]) }
    if ok then m
    else
      let ns := match i.dest with
        | some n => [n]
        | none => ((((m.cl k).group i.group).map Group.members).getD []).filterMap fun (q : Nat × Nat) =>
            if q.1 = m.pack.pkg ∧ q.2 / 8 = k ∧ q.2 < 384 then some q.2 else none
      ns.eraseDups.foldl (fun m n => m.modCore n fun c => { c with losses := c.losses ++ [i.lossWord] }) (m.modCl k fun c => c.tick 1)

/-- A member compares its own digest with those it has received (R356). -/
def Mach.compareOwn (m : Mach) (k : Nat) (g : Group) (n seq : Nat) (v : Word) : Mach :=
  let me := (m.pack.pkg, n)
  let others := g.members.zipIdx.filter fun (q, i) => q != me && g.members.findIdx? (· == q) == some i
  others.foldl (fun m (_, i) =>
    match g.heard.find? fun q => q.1 == i && q.2.1 == seq with
    | none => m.digestEvent k 2 g.id i
    | some q => if q.2.2 = leBytes 8 v.toNat then m else m.digestEvent k 1 g.id i) m

/-- The own digests that close by count x0 have been compared; digests that no member core has still to compare are kept no longer (R356). -/
def Group.shuts (g : Group) (x0 : Nat) : Group :=
  let due (q : Nat × Nat × Word × Nat) : Bool := decide (q.2.2.2 ≤ x0)
  let g := { g with
    own := g.own.filter fun q => !due q
    shut := (g.own.filter due).foldl (fun (l : List (Nat × Nat)) (q : Nat × Nat × Word × Nat) => l.map fun (e : Nat × Nat) => if e.1 = q.1 then (e.1, (q.2.1 + 1) % 65536) else e) g.shut }
  { g with heard := g.heard.filter fun q => !g.digestShut q.2.1 }

/-- R348, R356: at its close cycle every message closes in order, then every own digest is compared. -/
def execMessageClose (k : ClusterId) (s : State) : Out :=
  .next (s.mod fun m =>
    let k := k.val
    let x0 := (m.region 0).count
    let due := sortOn Incoming.order ((m.cl k).inc.filter fun i => !i.closed && decide (i.close ≤ x0))
    let m := due.foldl (fun m i => m.closeOne k i) m
    let gs := (m.cl k).groups
    let m := gs.foldl (fun (m : Mach) (g : Group) => (sortOn (fun q : Nat × Nat × Word × Nat => q.1 * 65536 + q.2.1) (g.own.filter fun q => decide (q.2.2.2 ≤ x0))).foldl
      (fun m q => m.compareOwn k g q.1 q.2.1 q.2.2.1) m) m
    m.modCl k fun c => { c with groups := c.groups.map fun g => g.shuts x0 })

/-- A cluster has something to close at a count. -/
def Cluster.closing (c : Cluster) (x0 : Nat) : Bool :=
  c.inc.any (fun i => !i.closed && decide (i.close ≤ x0)) || c.groups.any fun g => g.own.any fun q => decide (q.2.2.2 ≤ x0)

/-- R271: a drained group is freed, with its records. -/
def execGroupDrainEnd (k : ClusterId) (group : BitVec 12) (s : State) : Out :=
  .next (s.mod fun m => m.modCl k.val fun c =>
    match c.group group with
    | none => c
    | some g =>
      if !g.draining then c
      else { c with
        groups := c.groups.filter fun x => x.id != group
        inc := c.inc.filter fun i => i.group != group })

/-- The groups of a cluster whose draining ends by a count. -/
def Cluster.drained (c : Cluster) (x0 : Nat) : List Group :=
  c.groups.filter fun g => g.draining && decide (g.last + 256 ≤ x0) && !c.inc.any fun i => i.group == g.id && !i.closed

/-! ### counters and the tag table (R308, R357, R443) -/

/-- R308: every way is invalid and every recency order as at first. -/
def execTagTableClear (k : ClusterId) (s : State) : Out := .next (s.mod fun m => m.modCl k.val Cluster.wipeTags)

/-- Posts of a class that come into force only in the cycle that opens, of the pair or of cores whose region's clock runs: a clear at the end
of the cycle before it leaves them (R273, R357). -/
def Mach.fresh (m : Mach) (k cls : Nat) : Nat :=
  (((m.cl k).posts.filter fun p => p.cls == cls && p.due == m.now p.core && (isControl p.core || (m.region (m.regionOf k)).runs)).map
    ExpPost.count).sum

/-- R357: PEND of a class becomes 0 at c+2, after any count of that cycle; the step is taken as the pair's next cycle opens, whose own posts
count. What a rewind still owes to the class is owed no longer. -/
def execClrpend (k : ClusterId) (cls : Fin 8) (s : State) : Out :=
  .next (s.mod fun m => m.modCl k.val fun c => { c with cpend := wr c.cpend cls.val (m.fresh k.val cls.val), cdebt := wr c.cdebt cls.val 0 })

/-- A fabric counter becomes 0. -/
def clearCount (k : ClusterId) (i : Nat) (s : State) : Out :=
  .next (s.mod fun m => m.modCl k.val fun c => { c with cnt := wr c.cnt i 0 })

/-- R357: LATEC. -/
def execClrlate (k : ClusterId) (s : State) : Out := clearCount k 0 s
/-- R357: LOSSC. -/
def execClrloss (k : ClusterId) (s : State) : Out := clearCount k 1 s
/-- R357: DIGMC. -/
def execClrdig (k : ClusterId) (s : State) : Out := clearCount k 2 s
/-- R357: NOVRC. -/
def execClrnov (k : ClusterId) (s : State) : Out := clearCount k 3 s
/-- R357: CRCFC. -/
def execClrcrc (k : ClusterId) (s : State) : Out := clearCount k 4 s

/-- R46, R41, R54, R443: a write to a counter sets it to zero. -/
def execCounterClear (k : ClusterId) (num : BitVec 14) (s : State) : Out :=
  let n := num.toNat
  let r := s.next.regionOf k.val
  .next (s.mod fun m =>
    if n = 0x25 then m.modRegion r fun g => { g with slipc := 0 }
    else if n = 0x26 then m.modRegion r fun g => { g with skipc := 0 }
    else if n = 0x170 ∨ n = 0x171 then m.modCl k.val fun c => { c with fleet := wr c.fleet (n - 0x170) 0 }
    else if n = 0x175 ∨ n = 0x176 then m.modCl k.val fun c => { c with fleet := wr c.fleet (n - 0x173) 0 }
    else if 0x172 ≤ n ∧ n < 0x1C0 then m.modPack fun p => { p with counters := wr p.counters n 0 }
    else if 0x1600 ≤ n ∧ n < 0x1640 ∧ n % 4 = 2 then m.modSource ((n - 0x1600) / 4) fun u => { u with err := 0 }
    else if 0x1700 ≤ n ∧ n < 0x1900 ∧ n % 8 = 3 then m.modGusset ((n - 0x1700) / 8) fun g => { g with ovrc := 0 }
    else if 0x1700 ≤ n ∧ n < 0x1900 ∧ n % 8 = 4 then m.modGusset ((n - 0x1700) / 8) fun g => { g with undc := 0 }
    else m)

end Sys2Proof.Machine
end

