-- ==== Sys2Proof/Machine/Ends.lean ====
section
/-! DEFINITION. The ends of copies, completion bits, timed sends and bank wakes, and the stages that run in the background (R158, R251,
R256, R261, R263, R269, R320). -/

namespace Sys2Proof.Machine

/-! ### engines and channels -/

/-- R251, R256: the oldest copy of an engine that has reached its completion leaves it, and disarms its ranges. -/
def execCopyComplete (n : CoreId) (e : EngineId) (s : State) : Out :=
  let a := s.next.now n.val
  match (rd (s.next.core n.val).eng e.val).copies.find? fun c => c.done a with
  | none => .next s
  | some c =>
    .next (s.mod fun m => m.leaves n.val c a)

/-- R263: the bit is set, and the bmset is no longer outstanding; a follower and a duplicate set none (R439, R440). In a cycle the machine
sets it so among the writes of its engine (R325, R329). -/
def execBmsetBitSet (n : CoreId) (e : EngineId) (s : State) : Out :=
  match (s.next.core n.val).setting e.val (s.next.now n.val) with
  | [] => .next s
  | q :: _ => .next (s.mod fun m => m.setsBit n.val (s.next.now n.val) q)

/-- R269: a timed send arrives: it replaces the channel's content, and one that has not been received is counted in NOVRC. -/
def execSendArrival (n : CoreId) (ch : Fin 8) (src : CoreId) (data : VWord) (s : State) : Out :=
  .next (s.mod fun m =>
    let lost := (rd (m.core n.val).chan ch.val).new
    let m := if lost then m.modCl (clusOf n.val) fun c => c.tick 3 else m
    let m := m.modCore n.val fun c => { c with chan := wr c.chan ch.val { val := data, new := true } }
    match m.pack.flights.find? fun f => f.dst == n.val && f.ch == ch.val && f.src == src.val && f.val == data with
    | none => m
    | some f => m.modPack fun p => { p with flights := p.flights.erase f })

/-- R158: the wake of a bank ends: it is up, filled with zero bytes. -/
def execBankWakeComplete (k : ClusterId) (bank : Fin 8) (s : State) : Out :=
  if rd (s.next.cl k.val).banks bank.val ≠ 2 then .next s
  else
    .next (s.mod fun m => m.modCl k.val fun c => { c with
      banks := wr c.banks bank.val 0
      wake := wr c.wake bank.val 0
      spad := { cells := c.spad.cells.filter fun q => bankOf q.1 != bank.val
                bad := c.spad.bad.filter fun w => bankOf (8 * w) != bank.val
                soft := c.spad.soft.filter fun w => bankOf (8 * w) != bank.val } })

/-! ### slots of activity 56 (R292, R414, R428) -/

/-- The controllers of n bytes of device memory. -/
def ctrlsOf (a n : Nat) : List Nat :=
  ((List.range ((a + n - 1) / 65536 - a / 65536 + 1)).map fun i => ctrlOf (a + 65536 * i)).eraseDups

/-- Those of the controllers whose maps give activity 56 a slot. -/
def Mach.gives56 (m : Mach) (ws : List Nat) : List Nat :=
  ws.filter fun w => (List.range 256).any fun i => rd (rd m.pack.wheels w).map i == BitVec.ofNat 8 (128 + 56)

/-- The cycle of count t is the first of a slot of activity 56 on every one of the controllers. -/
def Mach.slots56 (m : Mach) (ws : List Nat) (t : Nat) : Bool := decide (t % 8 = 0) && ws.all fun w => m.slotFree w 56 t []

/-- The slots are used. -/
def Mach.use56 (m : Mach) (ws : List Nat) (t : Nat) : Mach := m.claim ((m.gives56 ws).map fun w => (w, t / 8))

/-- In the cycle of count t a host access to the controllers takes place: in a slot that all of them give whose maps give the activity one; where
no map does, as after reset, it does not wait, since the command that would give it one comes by such an access (log 158). -/
def Mach.turn56 (m : Mach) (ws : List Nat) (t : Nat) : Bool := (m.gives56 ws).isEmpty || m.slots56 (m.gives56 ws) t

/-! ### stages (R261, R320) -/

/-- The activity and the wheel of a side that is not device memory: the PCIe DMA engine, or a CXL port. -/
def sideWheel (a : Word) : Nat × Nat := if spaceOf a = 5 then (56, 36) else (57, 37 + fld a.toNat 38 2)

/-- The device physical address of the unit to move next. -/
def Stage.pa (g : Stage) : Nat := g.pas.getD (g.done / 4096) 0

/-- The wheels on which a stage takes a slot for its next unit, each with the activity that owns it: those of its sides outside device
memory, and with the same activity the memory controller's. -/
def Stage.wheels (g : Stage) : List (Nat × Nat) :=
  ([g.src, g.dst].filter fun a => spaceOf a != 0).flatMap fun a =>
    let w := sideWheel a
    if spaceOf g.src = 0 ∨ spaceOf g.dst = 0 then [w, (w.1, ctrlOf g.pa)] else [w]

/-- A memory's bytes and marks written at another place. -/
def Memory.paste (m from_ : Memory) (src dst n : Nat) : Memory :=
  let m := m.store dst (from_.bytes src n) false
  (wordsOf src n).foldl (fun m w => if from_.bad.contains w then m.mark (dst + 8 * w - src) 8 else m) m

/-- A unit moves. -/
def Mach.moveUnit (m : Mach) (g : Stage) : Mach :=
  let at_ (a : Word) : Nat := if spaceOf a = 0 then g.pa else fld a.toNat 0 (if spaceOf a = 4 then 40 else 60) + g.done
  let from_ : Memory := match spaceOf g.src with
    | 0 => m.pack.dev
    | 4 => m.pack.cxl
    | _ => { cells := [], bad := [], soft := [] }
  let s := at_ g.src
  let d := at_ g.dst
  let m := if spaceOf g.src = 0 then m.devMeets s 4096 else m
  let read (to_ : Memory) : Memory :=
    if spaceOf g.src = 5 then to_.store d ((List.range 4096).map fun i => Config.hostByte g.serial (s + i)) false
    else to_.paste from_ s d 4096
  match spaceOf g.dst with
  | 0 => m.modPack fun p => p.devWrite d 4096 read
  | 4 => m.modPack fun p => { p with cxl := read p.cxl }
  | _ => m.hostWrite d (from_.bytes s 4096)

/-- The first destination byte of a unit that is written with check bits marked uncorrectable. -/
def Mach.firstMark (m : Mach) (g : Stage) : Option Word :=
  let (mem, s) : Memory × Nat := match spaceOf g.src with
    | 0 => (m.pack.dev, g.pa)
    | 4 => (m.pack.cxl, fld g.src.toNat 0 40 + g.done)
    | _ => ({ cells := [], bad := [], soft := [] }, 0)
  ((wordsOf s 4096).find? mem.bad.contains).map fun w => addAddr g.dst ((g.done + (8 * w - s) : Nat) : Int)

/-- The oldest stage of a cluster in the cycle of region 0's count t: in the first cycle of a slot that its wheels give, a unit moves; while
region 0 is frozen, in the slot at which the wheels stand (R280). One with a host side is abandoned while the link is fenced (R420). -/
def Mach.stageCycle (m : Mach) (t : Nat) (frozen : Bool) (k : Nat) : Mach :=
  match (m.cl k).stages with
  | [] => m
  | g :: rest =>
    if m.pack.fenced ∧ (spaceOf g.src = 5 ∨ spaceOf g.dst = 5) then m.modCl k fun c => { c with stages := rest }
    else if t % 8 ≠ 0 ∧ !frozen ∨ g.len ≤ g.done ∨ !(g.wheels.all fun w => m.slotFree w.2 w.1 t []) then m
    else
      let bad := g.bad.or (m.firstMark g)
      let m := g.wheels.foldl (fun m w => m.modPack fun p =>
        { p with wheels := up p.wheels w.2 fun u => { u with used := u.used ++ [t / 8] } }) m
      (m.moveUnit g).modCl k fun c => { c with stages := { g with done := g.done + 4096, bad := bad } :: rest }

/-- The stages of a cycle of region 0, in ascending cluster. -/
def Mach.stagesCycle (m : Mach) (t : Nat) (frozen : Bool) : Mach :=
  (List.range 48).foldl (fun m k => if (m.cl k).stages.isEmpty then m else m.stageCycle t frozen k) m

/-- The oldest copy of a cluster's overflow ring in the cycle of region 0's count t: it moves in the first cycle of a slot of activity 56 that
its wheels give (R399). -/
def Mach.ringCycle (m : Mach) (t k : Nat) : Mach :=
  match (m.cl k).ringOps with
  | [] => m
  | o :: rest =>
    let pa := match o with
      | .put a _ | .get a _ => a
    let ws := (pathOf (8 * k) (.dev [ctrlOf pa]) (.spad k)).2.2
    if t % 8 ≠ 0 ∨ !(ws.all fun w => m.slotFree w 56 t []) then m
    else
      let m := (m.claim (ws.map fun w => (w, t / 8))).modCl k fun c => { c with ringOps := rest }
      match o with
      | .put a ws => m.modPack fun p => p.devStore a (ws.flatMap fun w => leBytes 8 w.toNat) false
      | .get a uid =>
        let ws := (List.range 8).map fun i => BitVec.ofNat 64 (m.pack.dev.nat (a + 8 * i) 8)
        (m.devMeets a 64).modCl k fun c => c.modQ uid fun q => { q with words := ws, level := recPrio (headOf ws), reads := false }

/-- The overflow rings in a cycle of region 0, in ascending cluster. -/
def Mach.ringsCycle (m : Mach) (t : Nat) : Mach :=
  (List.range 48).foldl (fun m k => if (m.cl k).ringOps.isEmpty then m else m.ringCycle t k) m

/-- A stage has moved its last unit. -/
def Cluster.staged (c : Cluster) : Bool :=
  match c.stages with
  | [] => false
  | g :: _ => decide (g.len ≤ g.done)

/-- R261: the oldest stage is visible: its bit is set; if it read an uncorrectable error, POISON is posted: of a stage to host memory, which
marks no byte, with a free word. -/
def execStageComplete (k : ClusterId) (s : State) : Out :=
  match (s.next.cl k.val).stages with
  | [] => .next s
  | g :: rest =>
    if g.done < g.len then .next s
    else
      let t := s.mod fun m => (m.modCl k.val fun c => { c with stages := rest }).setBit g.bitPa g.bit
      match g.bad with
      | none => .next t
      | some a =>
        if spaceOf g.dst = 5 then
          .next { (t.mod fun m => m.postEv k.val cPOISON (Config.freeWord s.draws)) with draws := s.draws + 1 }
        else .next (t.mod fun m => m.postEv k.val cPOISON a)

end Sys2Proof.Machine
end

