-- ==== Sys2Proof/Machine/Registers.lean ====
section
/-! DEFINITION. Writes to registers of the control pairs and of the host's control window (R41, R46, R54 to R56, R59, R153, R299, R381, R393,
R394, R413, R416, R428, R432 to R434). -/

namespace Sys2Proof.Machine

/-- Bits lo up of a value, in place; the others zero. -/
def keepBits (v : Word) (lo len : Nat) : Word := BitVec.ofNat 64 (fld v.toNat lo len * 2 ^ lo)

/-! ### registers of a control pair -/

/-- R381: the save area moves; a value above 23 is not written. -/
def execSavebWrite (k : ClusterId) (v : Word) (s : State) : Out :=
  let b := fld v.toNat 17 5
  if 23 < b then .next s else .next (s.mod fun m => m.modPair k.val fun p => { p with save := b })

/-- GCFG as written while EN is 0 (R54, R55): the fields, and EN if it is set and the checks pass. The entry that an empty pop returns again (R58)
does not outlast this: it is the zero vector afresh (log 191). -/
def Gusset.configure (g : Gusset) (v : Word) : Gusset :=
  let h : Gusset := { g with cfg := BitVec.ofNat 23 (v.toNat % 2 ^ 22) }
  if !v.getLsbD 22 then h
  else if h.depth < 16 ∨ 64 < h.depth ∨ h.start = 0 ∨ h.depth ≤ h.start ∨ h.prodR = h.consR then { h with err := true }
  else { h with err := false, cfg := h.cfg ||| 0x400000#23, ents := [], visible := 0, late := [], started := false, a := 0, lin := 0, linBad := false,
                linGap := true, lastOut := 0, lastBad := false, flushes := [] }

/-- R54, R55: a write takes effect while EN is 0; while EN is 1 it can only clear it, which discards every entry. -/
def execGcfgWrite (g : Fin 64) (v : Word) (s : State) : Out :=
  .next (s.mod fun m => m.modGusset g.val fun u =>
    if !u.en then u.configure v
    else if v.getLsbD 22 then u
    else { u with cfg := u.cfg &&& 0x3FFFFF#23, ents := [], visible := 0, late := [], started := false })

/-- R56: the fixed step; not performed under TRACK. -/
def execGstepWrite (g : Fin 64) (v : Word) (s : State) : Out :=
  if !(s.next.gusset g.val).cfg.getLsbD 21 then .next s
  else .next (s.mod fun m => m.modGusset g.val fun u => { u with gstep := v.setWidth 40 })

/-- The tick of a packet of source u is to come. -/
def ticksOf (u : Nat) (o : Owed) : Bool :=
  match o with
  | .sourceTick v _ _ => v.val == u
  | _ => false

/-- R41, R56: the configuration of a recovery unit; KIND of source 0 stays 0. A unit that changes its stream starts at its first record, and
packets of the stream it leaves tick no more (log 144). -/
def execCrcfgWrite (u : SourceId) (v : Word) (s : State) : Out :=
  let old := s.next.source u.val
  let kind := if u.val = 0 then old.kind else fld v.toNat 0 2
  let port := fld v.toNat 4 4
  let same : Bool := decide (kind = old.kind ∧ port = old.port)
  let set (g : Source) : Source := { g with
    eport := fld v.toNat 18 4, sbytes := fld v.toNat 8 10, port := port, lbw := fld v.toNat 2 2, kind := kind }
  .next (s.mod fun m =>
    if same then m.modSource u.val set
    else { (m.modSource u.val fun g => { set g with hsNext := 0, hsTime := none, packets := [] }) with
      owed := m.owed.filter fun q => !ticksOf u.val q.2 })

/-- R46: a value outside 1 to 10,000,000 is replaced by the nearer bound: the value is the whole word written (log 166). -/
def execHoldtWrite (r : RegionId) (v : Word) (s : State) : Out :=
  .next (s.mod fun m => m.modRegion r.val fun g => { g with holdt := max 1 (min 10000000 v.toNat) })

/-- R299: resynchronisation is requested for the region's next hem. -/
def execRsync (r : RegionId) (s : State) : Out := .next (s.mod fun m => m.modRegion r.val fun g => { g with rsync := true })

/-- R432: the spare of the cluster is requested, and takes the place at once in a region that is held; a second request fails. -/
def execSpare (k : ClusterId) (v : Word) (s : State) : Out :=
  let i := fld v.toNat 0 3
  .next (s.mod fun m => (m.modCl k.val fun c =>
    if !v.getLsbD 8 then { c with spare := (c.spare &&& 0x600#64) ||| BitVec.ofNat 64 i }
    else if c.spareUsed || c.spareReq.isSome then { c with spare := c.spare ||| 0x400#64 }
    else { c with spare := (c.spare &&& 0x600#64) ||| BitVec.ofNat 64 (0x100 + i), spareReq := some i }).swapHeld (m.regionOf k.val))

/-- The writable bits of a task-type entry's word (R393). -/
def typeBits (w : Nat) : Word :=
  match w with
  | 0 => 0xFFFFFFFFFFFFEF00#64
  | 1 => 0x00FFF1FF03FF000F#64
  | _ => 0

/-- The writable bits of a card's word (R394). -/
def cardBits (w : Nat) : Word :=
  if w = 0 then 0x80000000000000FF#64
  else if w = 1 then 0x00FFFFFFFFFFFFFF#64
  else if w % 2 = 0 then 0xC1FFFFFFFFFFFFFF#64
  else 0x0000FFFFFFFFFFFF#64

/-- A word of the type table or of the card table as it is written. -/
def Cluster.putTable (c : Cluster) (num : Nat) (v : Word) : Cluster :=
  let bits := if num < 0x400 then typeBits (num % 4) else cardBits ((num - 0x400) % 18)
  { c with regs := wr c.regs num (v &&& bits) }

/-- A media stream entry (R42). -/
def Media.put (e : Media) (w : Nat) (v : Word) : Media :=
  match w with
  | 0 => { e with ssid := v }
  | 1 => { e with cfg := v }
  | _ => { e with dir := v &&& 3 }

/-! ### registers of the control window (R413) -/

/-- A register of the control window, by offset. -/
def Mach.window (m : Mach) (off : Nat) : Nat := (rd m.pack.regs off).toNat

def Mach.crBase (m : Mach) : Nat := m.window 0x1000
def Mach.crSize (m : Mach) : Nat := m.window 0x1008
def Mach.crHead (m : Mach) : Nat := m.window 0x1010
def Mach.crTail (m : Mach) : Nat := m.window 0x1018

def Mach.setWindow (m : Mach) (off : Nat) (v : Word) : Mach := m.modPack fun p => { p with regs := wr p.regs off v }

/-- STATUS (R413). -/
def Pack.status (p : Pack) : Word :=
  BitVec.ofNat 64 (bnat p.dberr * 16 + bnat p.lloss * 8 + bnat p.sanit * 4 + bnat p.recov * 2 + bnat p.ready)

/-- A host read of the control window (R413): its other offsets read as 0; all ones once a link loss has fenced the link (R420). -/
def Mach.windowRead (m : Mach) (off : Nat) : Word :=
  if m.pack.fenced then BitVec.allOnes 64
  else if off = 0 then m.pack.status
  else if off ∈ [0x100, 0x1000, 0x1008, 0x1010, 0x1018, 0x3000] ∨ (0x2000 ≤ off ∧ off < 0x2400 ∧ off % 8 = 0 ∧ off % 64 < 40) then rd m.pack.regs off
  else 0

/-- A host write to a stream's register other than its tail. -/
def Mach.hsWrite (m : Mach) (off : Nat) (v : Word) : Mach :=
  match off % 64 / 8 with
  | 0 => m.setWindow off (keepBits v 10 29)
  | 1 => m.setWindow off (keepBits v 0 16)
  | 2 => m.setWindow off (keepBits v 0 16)
  | 3 => m.setWindow off (keepBits v 10 54)
  | _ => m

/-- A host write to the control window, which takes none while the link is fenced (R420): STATUS at 0, HLDROP, the host streams. -/
def Mach.windowWrite (m : Mach) (off : Nat) (v : Word) : Mach :=
  if m.pack.fenced then m
  else if off = 0 then m.modPack fun p => { p with dberr := p.dberr && !v.getLsbD 4, lloss := p.lloss && !v.getLsbD 3 }
  else if off = 0x3000 then (if v.setWidth 32 = 0#32 then m else m.setWindow 0x3000 0)
  else if 0x2000 ≤ off ∧ off < 0x2400 ∧ off % 8 = 0 then m.hsWrite off v
  else m

/-- R153, R413: a register with no behaviour of its own, of the pair of cluster k or, from 0x2000 up and at 0, of the control window by its
offset. -/
def execRegisterWrite (k : ClusterId) (num : BitVec 14) (v : Word) (s : State) : Out :=
  let n := num.toNat
  let r := s.next.regionOf k.val
  .next (s.mod fun m =>
    if n = 0 ∨ 0x2000 ≤ n then m.windowWrite n v
    else if n = 0x22 then m.modRegion r fun g => { g with phase := fld v.toNat 0 24 }
    else if n = 0x24 then m.modRegion r fun g => { g with slack := fld v.toNat 0 24 }
    else if n = 0x102 then m.modPair k.val fun p => { p with hvec := (v.setWidth 16) &&& 0xFFFC#16 }
    else if n = 0x103 then m.modPair k.val fun p => { p with epc := v.setWidth 16 }
    else if n = 0x105 then m.modPair k.val fun p => { p with ovf := p.ovf && !v.getLsbD 8 }
    else if n = 0x112 then m.modCl k.val fun c => { c with drovf := c.drovf && !v.getLsbD 63 }
    else if n = 0x150 then m.modPack fun p => { p with ldlist := keepBits v 5 34 }
    else if (0x200 ≤ n ∧ n < 0x300) ∨ (0x400 ≤ n ∧ n < 0x1600) then m.modCl k.val fun c => c.putTable n v
    else if 0x1640 ≤ n ∧ n < 0x1680 ∧ n % 4 ≠ 3 then m.modPack fun p => { p with media := up p.media ((n - 0x1640) / 4) fun e => e.put (n % 4) v }
    else m)

/-- R413: CRBASE or CRSIZE, while no command is pending. -/
def execCringConfigWrite (size : Bool) (v : Word) (s : State) : Out :=
  let m := s.next
  if m.pack.fenced || m.crHead != m.crTail then .next s
  else .next (s.mod fun m => if size then m.setWindow 0x1008 (keepBits v 0 16) else m.setWindow 0x1000 (keepBits v 6 33))

/-- R413: the window of BAR2 moves; a value that is not a multiple of its size is not written. -/
def execBar2winWrite (v : Word) (s : State) : Out :=
  if s.next.pack.fenced || fld v.toNat 30 9 % 2 ^ (Config.bar2Log % 10) != 0 then .next s
  else .next (s.mod fun m => m.setWindow 0x100 (keepBits v 30 9))

/-! ### lane groups and rows (R433, R434) -/

/-- The path that a value of LGRT names (log 50). -/
def lgrtPath (v : Word) : PathId :=
  if v.getLsbD 8 then .port (Fin.ofNat 16 (fld v.toNat 4 4)) else .lane (Fin.ofNat 4 (fld v.toNat 4 2)) (Fin.ofNat 8 (fld v.toNat 0 3))

/-- The machine's next serial number, taken. -/
def Mach.serial (m : Mach) : Mach := m.modPack fun p => { p with serial := p.serial + 1 }

/-- A step that the machine owes a number of pair cycles from now. -/
def Mach.owe (m : Mach) (wait : Nat) (o : Owed) : Mach := { m with owed := m.owed ++ [(.pair (m.pclk + wait), o)] }

/-- R433: the lane group retrains for at most 400 µs, 900,000 cycles of the pairs' clock; the fragments that are on it are lost (R435). -/
def execLgrt (v : Word) (s : State) : Out :=
  let p := lgrtPath v
  .next (s.mod fun m =>
    let m := m.setWindow 0x160 v
    if m.pack.retrain.contains p then m
    else
      let wait := Config.retrainCycles m.pack.serial % 900001
      (m.serial.modPack fun q => { q with
        retrain := q.retrain ++ [p], transit := q.transit.filter fun t => !t.isOn p (m.region 0).age }).owe wait (.laneRetrainComplete p))

/-- R433: the lane group carries fragments again. -/
def execLaneRetrainComplete (p : PathId) (s : State) : Out :=
  .next (s.mod fun m => m.modPack fun q => { q with retrain := q.retrain.filter (· != p), downs := q.downs.filter (· != p) })

/-- Spare rows of a controller's stack in use or spoken for. -/
def Pack.rowsUsed (p : Pack) (c : Nat) : Nat := ((p.repairs ++ p.pprReq ++ p.pprWait).filter fun q => q.1 == c).length

/-- R434: the copy of a row to a spare row begins (log 51); without a spare row the request fails, and the sideband reports it. -/
def execPpr (v : Word) (s : State) : Out :=
  let c := fld v.toNat 0 4
  let row := fld v.toNat 4 32
  .next (s.mod fun m =>
    let m := m.setWindow 0x161 v
    if Config.spareRows c ≤ m.pack.rowsUsed c then m.modPack fun p => { p with out := p.out ++ [.report 0x400 v] }
    else
      let wait := Config.pprCycles m.pack.serial
      (m.serial.modPack fun p => { p with pprReq := p.pprReq ++ [(c, row)] }).owe wait (.pprCopyComplete (Fin.ofNat 16 c)))

/-- R434: a row copy of a controller is complete; the mapping moves at region 0's next hem. -/
def execPprCopyComplete (ctrl : Fin 16) (s : State) : Out :=
  match s.next.pack.pprReq.find? fun q => q.1 == ctrl.val with
  | none => .next s
  | some q => .next (s.mod fun m => m.modPack fun p => { p with pprReq := p.pprReq.erase q, pprWait := p.pprWait ++ [q] })

end Sys2Proof.Machine
end

