-- ==== Sys2Proof/Machine/Commands.lean ====
section
/-! DEFINITION. The command processor: the ring, its commands, and their completion (R19, R43 to R48, R291, R300, R311, R341, R390, R393,
R394, R396, R409, R410, R415, R419, R432, R437). -/

namespace Sys2Proof.Machine

/-- Device memory ends here (R318). -/
def devEnd : Nat := 0x7800000000

/-! ### taking and completing a command (R409, R415) -/

/-- A command of the ring is at its head. -/
def Mach.pending (m : Mach) : Bool := m.crSize != 0 && m.crHead != m.crTail

/-- A host-bound write is counted in HLDROP while the link is fenced (R420). -/
def Mach.drops (m : Mach) : Mach :=
  if m.pack.fenced then m.modPack fun p => { p with regs := up p.regs 0x3000 fun w => BitVec.ofNat 64 (min (2 ^ 32 - 1) (w.toNat + 1)) } else m

/-- A message on an MSI-X vector, discarded and counted while the link is fenced (R415, R420). -/
def Mach.msix (m : Mach) (v : Nat) : Mach :=
  if m.pack.fenced then m.drops
  else m.modPack fun p => { p with out := p.out ++ [.msix v] }

/-- The command at the ring's head completes: its word 0 receives STATUS and DONE, and the ring moves on. Without one, nothing. -/
def Mach.complete (m : Mach) (status : Nat) : Mach :=
  if !m.pending then m
  else
    let a := m.crBase + 64 * m.crHead
    let w := m.pack.dev.nat a 8
    let v := w % 2 ^ 32 + status % 2 ^ 16 * 2 ^ 32 + fld w 48 15 * 2 ^ 48 + 2 ^ 63
    let m := if m.pack.fenced then m else m.modPack fun p => p.devStore a (leBytes 8 v) false
    (m.drops.msix 0).setWindow 0x1010 (BitVec.ofNat 64 ((m.crHead + 1) % m.crSize))

/-- Effects of a command on device memory are still to come: the end of a job, records on their way to an overflow ring (R415;
log 180). -/
def Mach.unsettled (m : Mach) (job : Option Nat) : Bool :=
  job.any (fun j => (m.job j).isSome) || m.clus.any fun q => q.2.ringOps.any fun o => match o with
    | .put _ _ => true
    | .get _ _ => false

/-- A command completes once its effects on device memory have taken place (R415). -/
def Mach.completeAfter (m : Mach) (status : Nat) (job : Option Nat) : Mach :=
  if m.pending && m.unsettled job then m.modPack fun p => { p with ending := some (status, job) } else m.complete status

/-- They have, of a command that waits for them, while the pair that is the command processor is not halted. -/
def Mach.settles (m : Mach) : Bool := !(m.pair 0).dead && m.pack.ending.any fun q => !m.unsettled q.2

/-- R415: the command completes. -/
def State.settled (s : State) : Out :=
  match s.next.pack.ending with
  | none => .next s
  | some (status, _) => .next (s.mod fun m => (m.modPack fun p => { p with ending := none }).complete status)

/-- A command ends with a status. -/
def Mach.endsWith (m : Mach) (r : Except Nat (Mach × Nat)) : Mach :=
  match r with
  | .ok (t, status) => t.complete status
  | .error e => m.complete e

/-- A command ends done, or with a status and no effect. -/
def Mach.ends (m : Mach) (r : Except Nat Mach) : Mach := m.endsWith (r.map fun t => (t, 0))

/-- Operand bytes from device memory: STATUS 1 if they reach beyond it, 5 if they are poisoned. -/
def Mach.operand (m : Mach) (a n : Nat) : Except Nat (List Byte) :=
  if devEnd < a + n then .error 1
  else if m.pack.dev.isBad a n then .error 5
  else .ok (m.pack.dev.bytes a n)

/-- The controllers read the operand of a command that comes to it, if it lies in device memory (R442, R443;
log 178). -/
def Mach.readsOperand (m : Mach) (comes : Bool) (a n : Nat) : Mach := if comes && decide (a + n ≤ devEnd) then m.devMeets a n else m

/-- The refusal of a command that holds a condition. -/
def refuse (c : Bool) (status : Nat) : Except Nat Unit := if c then .error status else .ok ()

/-- 64-bit words of bytes. -/
def wordsOfBytes (bs : List Byte) : List Word := (chunks 8 bs).map fun c => BitVec.ofNat 64 (ofBytes c)

/-! ### tables (R291, R311, R341, R393, R394, R409) -/

/-- Entries of `n` words copied to the tables of the clusters named, the first at control register number `num`. -/
def Mach.fill (m : Mach) (ks : Word) (num : Nat) (ws : List Word) : Mach :=
  (List.range 48).foldl (fun m k =>
    if ks.getLsbD k then m.modCl k fun c => ws.zipIdx.foldl (fun c (w, i) => c.putTable (num + i) w) c else m) m

/-- R409, R394: cards are loaded into dispatchers. -/
def execCards (w1 w2 w3 : Word) (s : State) : Out :=
  let first := fld w2.toNat 0 8
  let count := fld w2.toNat 8 8
  .next (s.mod fun m => let m := m.readsOperand (decide (first + count ≤ 256)) w1.toNat (144 * count); m.ends do
    refuse (decide (256 < first + count)) 1
    let bs ← m.operand w1.toNat (144 * count)
    pure (m.fill w3 (0x400 + 18 * first) (wordsOfBytes bs)))

/-- R409, R393: task-type entries are loaded into dispatchers. -/
def execTtypes (w1 w2 w3 : Word) (s : State) : Out :=
  let first := fld w2.toNat 0 6
  let count := fld w2.toNat 8 8
  .next (s.mod fun m => let m := m.readsOperand (decide (first + count ≤ 64)) w1.toNat (32 * count); m.ends do
    refuse (decide (64 < first + count)) 1
    let bs ← m.operand w1.toNat (32 * count)
    pure (m.fill w3 (0x200 + 4 * first) (wordsOfBytes bs)))

/-- R291: the shadow map of a wheel. -/
def execWheel (w1 w2 : Word) (s : State) : Out :=
  .next (s.mod fun m => let m := m.readsOperand (decide (w1.toNat ≤ 40)) w2.toNat 256; m.ends do
    refuse (decide (40 < w1.toNat)) 1
    let bs ← m.operand w2.toNat 256
    refuse (bs.any (fun b => b.getLsbD 6) ||
      decide (w1.toNat < 16 ∧ (bs.filter fun b => b == BitVec.ofNat 8 (0x80 + 59)).length < 8)) 1
    pure (m.modPack fun p => { p with wheels := up p.wheels w1.toNat fun w =>
      { w with shadow := some (bs.zipIdx.map fun (b, i) => (i, b)) } }))

/-- A range entry that the command processor refuses (R311). -/
def rangeBad (e : Nat) : Bool :=
  let base := fld e 0 57
  let limit := fld e 64 57
  let off := fld e 128 64
  let a := (base + off) % 2 ^ 64
  fldB e 255 && decide (base % 4096 ≠ 0 ∨ limit % 4096 ≠ 4095 ∨ limit < base ∨ off % 4096 ≠ 0 ∨ devEnd ≤ a + (limit - base))

/-- The writable bits of a range entry (R311). -/
def rangeBits (e : Nat) : BitVec 256 :=
  BitVec.ofNat 256 (fld e 0 57 + fld e 64 57 * 2 ^ 64 + fld e 128 72 * 2 ^ 128 + fld e 253 3 * 2 ^ 253)

/-- R311: a range entry of a die. -/
def execRange (w1 w2 w3 : Word) (s : State) : Out :=
  .next (s.mod fun m => let m := m.readsOperand (decide (w1.toNat ≤ 3 ∧ w2.toNat ≤ 127)) w3.toNat 32; m.ends do
    refuse (decide (3 < w1.toNat ∨ 127 < w2.toNat)) 1
    let bs ← m.operand w3.toNat 32
    refuse (rangeBad (ofBytes bs)) 1
    pure (m.modPack fun p => { p with ranges := wr p.ranges (w1.toNat * 128 + w2.toNat) (rangeBits (ofBytes bs)) }))

/-- R341: the code rate and paths of a route class. -/
def execCrate (w1 w2 : Word) (s : State) : Out :=
  let v := w2.toNat
  .next (s.mod fun m => m.ends do
    refuse (decide (7 < w1.toNat ∨ 4 < fld v 0 3 ∨ 4 < fld v 4 3 ∨ 20 < kOf (fld v 0 3) + fld v 4 3 ∨ fld v 12 16 = 0)) 1
    let value : BitVec 28 := BitVec.ofNat 28 (fld v 0 3 + fld v 4 3 * 2 ^ 4 + fld v 12 16 * 2 ^ 12)
    pure (m.modPack fun p => { p with crate := wr p.crate w1.toNat value }))

/-! ### regions (R43 to R48) -/

/-- Ages of one region's clock told by another's. -/
def shift (d : Int) (a : Nat) : Nat := ((a : Int) + d).toNat

/-- What a core holds in ages, told by the clock of the region that its cluster joins. -/
def Core.rebase (c : Core) (d : Int) : Core :=
  { c with
    gapTo := shift d c.gapTo
    still := shift d c.still
    lag := if c.twin = 2 then 2 else 0
    heldTo := 0
    owed := []
    sets := c.sets.map fun q => { q with due := shift d q.due }
    mx := { c.mx with
      called := shift d c.mx.called, began := shift d c.mx.began, nextAt := shift d c.mx.nextAt
      mres := c.mx.mres.map fun q => { q with due := shift d q.due } }
    bob := c.bob.map fun (i, b) => (i, { b with
      usable := shift d b.usable, seeks := b.seeks.map fun q => (shift d q.1, q.2) })
    eng := c.eng.map fun (i, e) => (i, { e with
      sets := e.sets.map fun q => { q with due := shift d q.due }
      copies := e.copies.map fun k => { k with issued := shift d k.issued, iters := k.iters.map fun it => { it with d := shift d it.d } } }) }

/-- A cluster passes from one region to another. -/
def Mach.rebase (m : Mach) (k : Nat) (d : Int) : Mach :=
  let m := (coresIn k).foldl (fun m n => m.modCore n fun c => c.rebase d) m
  let m := (coresIn k).foldl (fun m n => if (rd m.tile n).isEmpty then m
    else { m with tile := up m.tile n fun l => l.map fun q => { q with due := shift d q.due } }) m
  m.modCl k fun c => { c with
    wake := c.wake.map fun (i, t) => (i, shift d t)
    pend := c.pend.map fun p => if isControl p.core then p else { p with due := shift d p.due }
    allots := c.allots.map fun a => { a with until_ := a.until_.map (shift d) } }

/-- RMASK of a region written (R43, R47): its clusters leave the regions that held them, and region 0 holds those of no other. -/
def Mach.setMask (m : Mach) (r : Nat) (mask : BitVec 48) : Mach :=
  let old := m
  let m := m.modPack fun p => { p with regions := p.regions.map fun (i, g) =>
    (i, { g with mask := if i = r then mask else g.mask &&& ~~~ mask }) }
  let rest := (List.range 16).foldl (fun w i => if i = 0 then w else w ||| (m.region i).mask) (0#48)
  let m := m.modRegion 0 fun g => { g with mask := ~~~ rest }
  (List.range 48).foldl (fun m k =>
    let a := old.regionOf k
    let b := m.regionOf k
    if a = b then m else m.rebase k (((m.region b).age : Int) - (m.region a).age)) m

/-- Clusters that a written RMASK would take from an occupied region (R47). -/
def Mach.taken (m : Mach) (r : Nat) (mask : BitVec 48) : Bool :=
  (List.range 48).any fun k => mask.getLsbD k && m.regionOf k != r && (m.region (m.regionOf k)).job.isSome

/-- The setting with which a start passes (R48). -/
def Mach.canStart (m : Mach) (r : Nat) : Bool :=
  let g := m.region r
  let b := (m.source g.src).sbytes
  decide (1 ≤ g.cadd ∧ g.cadd ≤ 4096 ∧ g.cadd ≤ g.cadl ∧ g.cadl ≤ 2 ^ 24 ∧ 1 ≤ b ∧ b ≤ 768) && g.mask != 0

/-- A start of an idle region (R48), and its STATUS: ACQUIRE, or CADERR with a SOURCE event. After a trip or a link loss no region starts until
a reset (R420, R446): STATUS 2 (log 176). -/
def Mach.start (m : Mach) (r : Nat) : Mach × Nat :=
  if m.pack.halted then (m, 2)
  else if m.canStart r then (m.modRegion r fun g => { g with state := 1, caderr := false, good := 0 }, 0)
  else ((m.modRegion r fun g => { g with caderr := true }).sourceEv r 7, 1)

/-- An unoccupied region returns to IDLE (R48): its registers other than RSTAT keep their values. -/
def Mach.stop (m : Mach) (r : Nat) : Mach :=
  m.modRegion r fun g => { g with
    state := 0, caderr := false, floor := false, clamp := false, unlock := false, frozen := false, recs := [], recsAt := none, hold := 0
    wantPre := false, wantPark := false, wantRelock := false, wantStop := false, restart := false, rsync := false, pre := false, good := 0 }

/-- R48, R62: the start of an idle region other than region 0 is judged. -/
def execRegionStart (r : RegionId) (s : State) : Out :=
  if r = 0 ∨ (s.next.region r.val).state ≠ 0 then .next s else .next (s.mod fun m => (m.start r.val).1)

/-- R48: a region that no job occupies, other than region 0, returns to IDLE. -/
def execRegionStop (r : RegionId) (s : State) : Out :=
  if r = 0 ∨ (s.next.region r.val).job.isSome then .next s else .next (s.mod fun m => m.stop r.val)

/-- R19, R46 to R48: a region's cadence, configuration and membership, and its start or stop. -/
def execRegion (w1 w2 w3 w4 w5 w6 : Word) (s : State) : Out :=
  let r := w1.toNat
  let start := w6.getLsbD 0
  let stop := w6.getLsbD 1
  .next (s.mod fun m =>
    let g := m.region r
    m.endsWith do
      refuse (decide (15 < r ∨ 3 < w6.toNat ∨ 2 ^ 25 ≤ w2.toNat ∨ 2 ^ 13 ≤ w3.toNat ∨ 31 < w4.toNat ∨ 2 ^ 48 ≤ w5.toNat) ||
        decide (r = 0 ∧ (w4.toNat % 16 ≠ 0 ∨ w2.toNat ≠ 90 * w3.toNat ∨ w3.toNat = 0 ∨ 4096 < w3.toNat))) 1
      refuse (decide ((start || stop) ∧ r = 0) || (start && m.pack.halted) || (start && stop) || g.job.isSome || (start && g.state != 0) ||
        m.taken r (w5.setWidth 48)) 2
      let t := (m.modRegion r fun g => { g with
        cadl := w2.toNat, cadd := w3.toNat, mode := fld w4.toNat 4 1, src := fld w4.toNat 0 4 }).setMask r (w5.setWidth 48)
      pure (if stop then (t.stop r, 0) else if start then t.start r else (t, 0)))

/-! ### jobs (R410, R437) -/

/-- The clusters of a job. -/
def Job.clusters (b : Job) (m : Mach) : List Nat := b.regionsOf.flatMap m.clustersOf

/-- Every pair of a TWIN job's clusters is to be joined at its region's next hem (R437). -/
def Mach.joinAll (m : Mach) (ks : List Nat) : Mach :=
  ks.foldl (fun m k => m.modCl k fun c => { c with twinReq := c.twinReq ++ (List.range 4).map fun j => (j, true) }) m

/-- Records posted in order, as far as they name clusters whose cycle it is; a refused one ends the job (R410). The machine, and the records
left. -/
def Mach.postAll (m : Mach) (u : Submission) (here : Nat → Bool) (rs : List (List Word)) : Mach × List (List Word) :=
  match rs with
  | [] => (m, [])
  | ws :: rest =>
    if !here (recClus (headOf ws)) then (m, rs)
    else
      let (m, why) := m.judge ws u.pattern
      if why = 0 then m.postAll u here rest
      else ((m.modJob u.job fun b => { b with reason := why, rtag := recTag (headOf ws) }).killJob u.job, [])

/-- The last post of a SUBMIT has been judged (R410). -/
def Mach.submitted (m : Mach) (j : Nat) : Mach :=
  let m := (m.modPack fun p => { p with submit := none }).completeAfter 0 (if m.live j then none else some j)
  if m.live j then m else { m with owed := m.owed ++ [(.now, .jobEnd (BitVec.ofNat 8 j))] }

/-- R396, R410: the command processor's posts of a cycle, after those of cores and pairs: to the clusters of the region whose cycle it is, or,
in a cycle of the pairs, to those whose clock stands still. -/
def State.posting (s : State) : Out :=
  match s.next.pack.submit with
  | none => .next s
  | some u =>
    .next (s.mod fun m =>
      let (m, rest) := m.postAll u (m.postsTo s.turn.dom) u.rest
      if rest.isEmpty then m.submitted u.job else m.modPack fun p => { p with submit := some { u with rest := rest } })

/-- A record of a job names a card whose superstep set has cores in more than one region (R148; log 145). -/
def Mach.spans (m : Mach) (ws : List Word) : Bool :=
  let h := headOf ws
  let w := ((m.cl (recClus h)).card (recCard h) 1)
  let rs := (((List.range 48).filter fun k => w.testBit k).map m.regionOf).eraseDups
  decide (fld w 48 8 ≠ 0 ∧ 1 < rs.length)

/-- R410, R437: a job occupies its regions, and its records are posted in the cycles that follow. -/
def execSubmit (job : Byte) (w1 w2 w3 w4 w5 w6 w7 : Word) (s : State) : Out :=
  let b : Job :=
    { num := job.toNat, root := w1.toNat, regions := w2.setWidth 16, pattern := w2.getLsbD 16, twin := w6.getLsbD 0, dupMask := w5, status := w7.toNat
      killed := 0, first := none, whole := false, reason := 0, rtag := 0, pree := false }
  .next (s.mod fun m =>
    let ks := b.clusters m
    let malformed := decide (1 < w6.toNat) || (b.twin && w5 != 0) || decide (devEnd < w7.toNat + 64) ||
      ks.any fun k => (List.range 64).any fun t => w5.getLsbD t && fldB ((m.cl k).type t) 13
    let occupied := (m.job b.num).isSome || b.regionsOf.any fun r =>
      (m.region r).job.isSome || (m.region r).state == 0 || (m.region r).mode != bnat b.pattern
    let m := m.readsOperand (!malformed && !occupied) w3.toNat (64 * w4.toNat)
    let r : Except Nat Mach := do
      refuse malformed 1
      refuse occupied 2
      let bs ← m.operand w3.toNat (64 * w4.toNat)
      refuse ((chunks 8 (wordsOfBytes bs)).any m.spans) 1
      let m := m.modPack fun p => { p with jobs := p.jobs ++ [b] }
      let m := b.regionsOf.foldl (fun m r => m.modRegion r fun g => { g with job := some b.num }) m
      let m := if b.twin then m.joinAll ks else m
      pure (m.modPack fun p => { p with submit := some { job := b.num, pattern := b.pattern, rest := chunks 8 (wordsOfBytes bs) } })
    match r with
    | .error e => m.complete e
    | .ok t => if w4 = 0 then t.submitted b.num else t)

/-- Contexts of a job whose tasks may be pre-empted take the request, or drop it (R390). -/
def Mach.askTasks (m : Mach) (ks : List Nat) (j : Nat) (on : Bool) : Mach :=
  (ks.flatMap coresIn).foldl (fun m n =>
    if (m.core n).ctxs.isEmpty then m
    else m.modCore n fun c => { c with ctxs := c.ctxs.map fun (x, q) =>
      (x, if q.task.any fun t => t.job == j then { q with preempt := on } else q) }) m

/-- R300, R390: pre-emption of a job: of a pattern-mode region at its hem, of a task at its notch. -/
def execPreempt (job : Byte) (s : State) : Out :=
  let j := job.toNat
  .next (s.mod fun m => m.ends (match m.job j with
    | none => .error 4
    | some b =>
      if b.pattern then
        if b.regions.getLsbD 0 then .error 1
        else .ok (b.regionsOf.foldl (fun m r => m.modRegion r fun g =>
          if g.state = 4 then { g with pre := !g.stopped, restart := false } else { g with wantPre := true }) m)
      else .ok ((m.modJob j fun b => { b with pree := true }).askTasks (b.clusters m) j true)))

/-- R300, R390: a pre-empted job goes on: a held region restarts at the tick that keeps its sample index. -/
def execResume (job : Byte) (s : State) : Out :=
  let j := job.toNat
  .next (s.mod fun m => m.ends (match m.job j with
    | none => .error 4
    | some b =>
      if b.pattern then
        .ok (b.regionsOf.foldl (fun m r =>
          if (m.region r).state = 4 ∧ (m.region r).pre then m.modRegion r fun g => { g with restart := true }
          else m.modRegion r fun g => { g with wantPre := false }) m)
      else .ok ((m.modJob j fun b => { b with pree := false }).askTasks (b.clusters m) j false)))

/-- R410: every task of a job ends. -/
def execKill (job : Byte) (s : State) : Out :=
  .next (s.mod fun m => match m.job job.toNat with
    | none => m.complete 4
    | some _ => (m.killJob job.toNat).completeAfter 0 (some job.toNat))

/-! ### erasure (R419) -/

/-- R419: erasure begins, unless a job runs; it ends within 2.5 s. -/
def execSanitise (s : State) : Out :=
  .next (s.mod fun m =>
    if !m.pack.jobs.isEmpty then m.complete 2
    else
      let wait := Config.sanitiseCycles m.pack.serial % 5625000001
      let dev := Config.sanitiseDeviceCycles m.pack.serial % 56250001
      ((m.serial.modPack fun p => { p with sanit := true, cmdBusy := m.pending }).owe (min dev wait) .sanitiseDevice).owe wait .sanitiseComplete)

/-- Device memory has been erased, within 25 ms (R419). -/
def State.sanitiseDevice (s : State) : Out :=
  .next (if s.next.pack.sanit then s.mod fun m => m.modPack fun p => { p with dev := default, weak := [], scrub := [] } else s)

/-- The on-chip memories of a core, zero (R417, R419); the sideband controller keeps its firmware planes and their mark (R418). -/
def Core.erase (c : Core) : Core :=
  { c with
    v := [], tile := default, m := [], shapes := [], chan := [], complete := c.complete &&& 0x20#6
    plane0 := { (default : Plane) with sfw := c.plane0.sfw }, plane1 := { (default : Plane) with sfw := c.plane1.sfw }
    mx := { c.mx with w := [], wsnap := [], shapes := [], g := none }
    ctxs := c.ctxs.map fun (x, q) => (x, { q with s := [], k := [], p := [] }) }

/-- R419: every byte is zero; range entries, translations and tags are gone; SANIT clears, and the command is done. -/
def execSanitiseComplete (s : State) : Out :=
  .next (s.mod fun m =>
    let busy := m.pack.cmdBusy
    let m := { m with
      cores := m.cores.map fun ((n, c) : Nat × Core) => (n, c.erase)
      clus := m.clus.map fun ((k, c) : Nat × Cluster) => (k, { c with spad := default, xlats := [], tags := [] }) }
    let m := m.modPack fun p => { p with dev := default, weak := [], scrub := [], cxl := default, ranges := [], sanit := false, cmdBusy := false }
    let live := !(m.pair 0).dead
    let m := m.modPack fun p => { p with ready := live && !p.recov && (rd p.running 0).isSome }
    if busy && live then m.complete 0 else m)

/-! ### the ring's next command (R409) -/

/-- The command processor takes a command now: firmware runs, one is pending, and no other is in execution. -/
def Mach.takes (m : Mach) : Bool := m.pack.ready && !m.pack.sanit && !m.pack.cmdBusy && m.pack.ending.isNone && m.pack.submit.isNone && m.pending

/-- The command at the ring's head, as the row of its OP; 3 for an OP that there is none of, 5 for a command that is poisoned. -/
def State.command (s : State) : Out :=
  let m := s.next
  let a := m.crBase + 64 * m.crHead
  if !m.takes then .next s
  else
    let s := s.mod fun m => m.devMeets a 64
    if m.pack.dev.isBad a 64 then .next (s.mod fun m => m.complete 5)
    else
      let w (i : Nat) : Word := BitVec.ofNat 64 (m.pack.dev.nat (a + 8 * i) 8)
      let job : Byte := BitVec.ofNat 8 (fld (w 0).toNat 8 8)
      match fld (w 0).toNat 0 8 with
      | 1 => execSubmit job (w 1) (w 2) (w 3) (w 4) (w 5) (w 6) (w 7) s
      | 2 => execCards (w 1) (w 2) (w 3) s
      | 3 => execTtypes (w 1) (w 2) (w 3) s
      | 4 => execRegion (w 1) (w 2) (w 3) (w 4) (w 5) (w 6) s
      | 5 => execWheel (w 1) (w 2) s
      | 6 => execRange (w 1) (w 2) (w 3) s
      | 7 => execCrate (w 1) (w 2) s
      | 8 => execPreempt job s
      | 9 => execResume job s
      | 10 => execKill job s
      | 11 => execSanitise s
      | _ => .next (s.mod fun m => m.complete 3)

end Sys2Proof.Machine
end

