-- ==== Sys2Proof/Machine/Boot.lean ====
section
/-! DEFINITION. The loader, secure boot, resets, BAR2, the sideband, repair and trips (R383, R412 to R435, R442, R446). -/

namespace Sys2Proof.Machine

/-! ### secure boot (R423 to R427) -/

/-- The checks of R424 on the key, the signature and the digest of an image. -/
def Image.authentic (i : Image) : Bool :=
  sha384 i.key == Config.rooth && verifies i.key i.sig (sha384 (Config.headerBytes i ++ i.body)) &&
    sha384 i.body == i.digest

/-- The images in a class's flash slots. -/
def Pack.images (p : Pack) (c : Nat) : List Image := [2 * c, 2 * c + 1].filterMap fun i => rd p.slots i

/-- The image that the boot ROM accepts for a class: of those that pass, the one of the highest version, the first slot's on a tie. -/
def Pack.accepted (p : Pack) (c : Nat) : Option Image :=
  let ok := (p.images c).filter fun i => i.cls.val == c && Image.authentic i && decide ((rd p.thermo c).toNat ≤ i.version.toNat)
  ok.foldl (fun best i => match best with
    | none => some i
    | some b => if b.version.toNat < i.version.toNat then some i else some b) none

/-- Verifications that fail at a boot, each reported on the sideband (R422). -/
def Pack.refusals (p : Pack) (c : Nat) : List Outward :=
  ((p.images c).filter fun i => i.cls.val != c || !Image.authentic i || decide (i.version.toNat < (rd p.thermo c).toNat)).map fun i =>
    .report 0x500 (BitVec.ofNat 64 (c * 2 ^ 32 + i.version.toNat))

/-- The dispatcher firmware starts in every pair, at the first byte of its body (R424; log 14). -/
def Mach.startFirmware (m : Mach) (i : Image) : Mach :=
  (List.range 48).foldl (fun m k =>
    (m.modCore (384 + k) fun c => { c with plane0 := { c.plane0 with fw := (default : Memory).store 256 i.body false } }).modCtx (384 + k) 0
      fun x => { x with pc := 0, run := .at m.pclk }) m

/-- The boot ROM (R424, R425, R427): the measurement registers start from zero; firmware runs if each class has an image, else recovery. The
sideband controller takes its image at a cold power-up; a reset of the compute dies leaves it as it runs (R418). -/
def Mach.boot (m : Mach) (cold : Bool) : Mach :=
  let a := m.pack.accepted 0
  let b := m.pack.accepted 1
  let m := m.modPack fun p => { p with mrs := [], out := p.out ++ p.refusals 0 ++ p.refusals 1 }
  let m := m.extend 0 (Config.bootRom ++ leBytes 48 Config.rooth.toNat ++ leBytes 4 (rd m.pack.thermo 0).toNat ++ leBytes 4 (rd m.pack.thermo 1).toNat)
  match a, b with
  | some x, some y =>
    let m := if cold then m.modCore 384 fun c => { c with plane0 := { c.plane0 with sfw := (default : Memory).store 256 y.body false } } else m
    (((m.extendBy 1 x.digest).extendBy 1 y.digest).startFirmware x).modPack fun p => { p with
      running := wr (SMap.tab 48 fun _ => some x.version) 48 (if cold then some y.version else rd p.running 48), recov := false, ready := !p.sanit }
  | _, _ => m.modPack fun p => { p with running := if cold then [] else wr [] 48 (rd p.running 48), recov := true, ready := false }

/-! ### resets (R417, R418, R422, R431) -/

/-- Core 384 with the sideband controller as it was: its firmware planes, their marks and a swap that is pending (R418). -/
def Core.keepSideband (c old : Core) : Core :=
  { c with
    plane0 := { c.plane0 with sfw := old.plane0.sfw }, plane1 := { c.plane1 with sfw := old.plane1.sfw }
    active := (c.active &&& 0x1F#6) ||| (old.active &&& 0x20#6), complete := (c.complete &&& 0x1F#6) ||| (old.complete &&& 0x20#6)
    flips := (c.flips &&& 0x1F#6) ||| (old.flips &&& 0x20#6) }

/-- The part after a reset, before its boot: device memory, the CXL tier, the repair table, fuses, flash and the sideband controller as kept; a
sanitise in progress goes on. Region 0 enters RUN at a SYSREF tick (R354; log 157). -/
def Mach.cleared (m : Mach) : Mach :=
  let k := m.pack
  let i := Mach.init.modCore 384 fun c => c.keepSideband (m.core 384)
  let at_ := (m.pclk + 89) / 90 * 90
  { i with
    pclk := at_
    owed := m.owed.filter fun q => q.2 == .sanitiseComplete || q.2 == .sanitiseDevice
    pack := { i.pack with
      dev := k.dev, weak := k.weak, cxl := k.cxl, host := k.host, repairs := k.repairs, retired := k.retired, thermo := k.thermo, slots := k.slots
      running := wr [] 48 (rd k.running 48)
      lloss := k.lloss, sanit := k.sanit, pkg := k.pkg, out := k.out, serial := k.serial, ptmLast := at_
      regs := if rd k.regs 0x3000 = 0 then [] else [(0x3000, rd k.regs 0x3000)] } }

/-- A state whose every machine is the one given, at the beginning of a cycle. -/
def State.restart (s : State) (m : Mach) : State :=
  { s with arch := m, view := m, next := m, turn := default, todo := [], plan := [] }

/-- R417, R418: function level reset: everything on the chip takes its reset value, and the boot ROM repeats secure boot. -/
def execFlr (s : State) : Out := .next (s.restart (s.next.cleared.boot false))

/-- R422: the sideband runs the FLR sequence. -/
def execWarmReset (s : State) : Out := .next (s.restart (s.next.cleared.boot false))

/-- A row that fails its march test is repaired, or its pages retire and are reported (R431; log 156). -/
def Mach.failRow (m : Mach) (q : Nat × Nat) : Mach :=
  m.modPack fun p =>
    if p.rowsUsed q.1 < Config.spareRows q.1 then { p with repairs := p.repairs ++ [q] }
    else
      let pages := Config.rowPages q.1 q.2
      { p with retired := p.retired ++ pages, out := p.out ++ pages.map fun a => .report 0x600 (BitVec.ofNat 64 a) }

/-- Power comes up (R431): the march test leaves every stack zero and repairs its failing rows while spare rows remain; then the boot. -/
def Mach.powerUp (m : Mach) (failing : List (Nat × Nat)) (cold : Bool) : Mach :=
  let m := { m with owed := [] }
  let c := m.cleared
  let c := if cold then c.modCore 384 fun c => c.keepSideband default else c
  let c := c.modPack fun p => { p with dev := default, weak := [], cxl := default, lloss := false, sanit := false, regs := [] }
  (failing.foldl Mach.failRow c).boot cold

/-- R431, R424: power-up, the march test with the rows that fail in it, repairs, secure boot. -/
def execColdPowerUp (failing : List (Fin 16 × Nat)) (s : State) : Out :=
  .next (s.restart (s.next.powerUp (failing.map fun q => (q.1.val, q.2)) true))

/-- R422, R435: the sideband takes main power from the compute dies and restores it; the link drops, which the host sees as a surprise
removal, and the march test runs. -/
def execColdReset (s : State) : Out :=
  let m := s.next.modPack fun p => { p with out := p.out ++ [.linkDown], serial := p.serial + 1 }
  .next (s.restart (m.powerUp (Config.marchRows s.next.pack.serial) false))

/-! ### BAR2 (R414, R419, R420, R425) -/

/-- BAR2 answers with all ones and takes no writes: the link is fenced, a sanitise runs, or the part is in recovery. -/
def Pack.inert (p : Pack) : Bool := p.fenced || p.sanit || p.recov

/-- The n bytes at device physical address a as a host read finds them: all ones beyond device memory (R414). -/
def Pack.hostRead (p : Pack) (a n : Nat) : List Byte :=
  (List.range n).map fun i => if p.inert || decide (devEnd ≤ a + i) then 0xFF#8 else p.dev.byte (a + i)

/-- What the host has sent takes place: a read, whose bytes complete poisoned if one of them is marked uncorrectable, and is then reported; a
write, whose bytes a poisoned one marks; a doorbell; a tail (R414 to R416). -/
def Mach.hostDo (m : Mach) (o : HostOp) : Mach :=
  match o with
  | .read a n =>
    let p := m.pack
    let poisoned := !p.inert && p.dev.isBad a n
    (if p.inert then m else m.devMeets a n).modPack fun q => { q with
      out := q.out ++ [.readData (p.hostRead a n) poisoned] ++ (if poisoned then [.report 0x700 (BitVec.ofNat 64 a)] else []) }
  | .write a data poisoned => if m.pack.inert then m else m.modPack fun p => p.devStore a (data.take (devEnd - a)) poisoned
  | .doorbell t =>
    if m.pack.fenced then m
    else if m.crSize ≤ t then m.modPack fun p => { p with dberr := true }
    else m.setWindow 0x1018 (BitVec.ofNat 64 t)
  | .hstail n v => if m.pack.fenced then m else m.setWindow (0x2000 + 64 * n + 16) (keepBits v 0 16)

/-- The controllers on which an access takes a slot of activity 56: none for what is no access to device memory. -/
def HostOp.ctrls (o : HostOp) : List Nat :=
  match o with
  | .read a n => if n = 0 ∨ devEnd ≤ a then [] else ctrlsOf a n
  | .write a bs _ => if bs.isEmpty ∨ devEnd ≤ a then [] else ctrlsOf a bs.length
  | .doorbell _ | .hstail _ _ => []

/-- It takes place without a slot: it is no access to device memory, or the maps give activity 56 none (log 158). -/
def Mach.noSlot (m : Mach) (o : HostOp) : Bool := (m.gives56 o.ctrls).isEmpty

/-- What stands at the head of the queue and takes no slot takes place. -/
def Mach.hostFlows (m : Mach) (q : List HostOp) : Mach :=
  match q with
  | [] => m.modPack fun p => { p with hostq := [] }
  | o :: rest => if m.noSlot o then (m.hostDo o).hostFlows rest else m.modPack fun p => { p with hostq := o :: rest }

/-- The host sends: what takes no slot takes place at once where nothing stands before it. -/
def Mach.hostSends (m : Mach) (o : HostOp) : Mach := m.hostFlows (m.pack.hostq ++ [o])

/-- The host's oldest access in the cycle of region 0's count t: it takes place in the first cycle of a slot of activity 56 that its controllers
give, and then what waited behind it without a need of one. -/
def Mach.hostCycle (m : Mach) (t : Nat) : Mach :=
  match m.pack.hostq with
  | [] => m
  | o :: rest => if m.turn56 o.ctrls t then ((m.use56 o.ctrls t).hostDo o).hostFlows rest else m

/-- R414: a host read through BAR2; where BAR2 is inert it completes with all ones at once. -/
def execBar2Read (off len : Nat) (s : State) : Out :=
  let o := HostOp.read (s.next.window 0x100 + off) len
  .next (s.mod fun m => if m.pack.inert then m.hostDo o else m.hostSends o)

/-- R414: a host write through BAR2; where BAR2 is inert it is discarded. -/
def execBar2Write (off : Nat) (data : List Byte) (poisoned : Bool) (s : State) : Out :=
  if s.next.pack.inert then .next s else .next (s.mod fun m => m.hostSends (.write (m.window 0x100 + off) data poisoned))

/-- R416: the tail of a host stream's input ring, behind what the host has written before it; records whose time has passed tick once it covers
them. -/
def execHstailWrite (s_ : Fin 16) (v : Word) (s : State) : Out :=
  if s.next.pack.fenced then .next s else .next (s.mod fun m => m.hostSends (.hstail s_.val v))

/-- R415: the doorbell hands the commands before the tail over, behind every write that came before it; a value of CRSIZE or more is refused. -/
def execDoorbell (tail : Word) (s : State) : Out :=
  if s.next.pack.fenced then .next s else .next (s.mod fun m => m.hostSends (.doorbell (fld tail.toNat 0 16)))

/-! ### link loss and trips (R420, R446, R447) -/

/-- Every region stops after its next hem; a parked one is held as it stands; and none starts until a reset. -/
def Mach.stopAll (m : Mach) : Mach :=
  m.modPack fun p => { p with halted := true, regions := p.regions.map fun (i, g) =>
    (i, if g.state = 0 then g else if g.state = 4 then { g with stopped := true, pre := false, restart := false } else { g with wantStop := true }) }

/-- Stages with a side in one of the spaces named are abandoned. -/
def Mach.dropStages (m : Mach) (f : Stage → Bool) : Mach :=
  { m with clus := m.clus.map fun ((k, c) : Nat × Cluster) => (k, { c with stages := c.stages.filter fun g => !f g }) }

/-- R420: the link is fenced, stages with a host side are abandoned, every region stops after its next hem. -/
def execSurpriseLinkLoss (s : State) : Out :=
  .next (s.mod fun m => ((m.stopAll).dropStages fun g => spaceOf g.src == 5 || spaceOf g.dst == 5).modPack fun p => { p with
    lloss := true, fenced := true, out := p.out ++ [.report 0x800 0] })

/-- A trip (R446, R447): every region stops after its next hem, and stages to a host or CXL side stop. -/
def Mach.trip (m : Mach) (code : Nat) : Mach :=
  (m.stopAll.dropStages fun g => spaceOf g.dst != 0).modPack fun p => { p with out := p.out ++ [.report code 0] }

/-- R446: the junction warning, on the sideband and by MSI-X vector 1. -/
def execThermalWarning (s : State) : Out :=
  .next (s.mod fun m => (m.modPack fun p => { p with out := p.out ++ [.report 0x900 0] }).msix 1)

/-- R446: the junction trip. -/
def execThermalTrip (s : State) : Out := .next (s.mod fun m => m.trip 0x901)

/-- R446: a trip of the input power or of the busbar. -/
def execPowerTrip (s : State) : Out := .next (s.mod fun m => m.trip 0x902)

/-! ### the sideband (R421, R422, R426, R427, R430) -/

/-- Between sideband requests, each of which is one step, the sideband firmware plane flips, if its swap is pending (R430). -/
def Mach.sideband (m : Mach) : Mach :=
  if !(m.core 384).flips.getLsbD 5 then m
  else ((m.modCore 384 fun c => c.flip 0x20#6).nowRuns 48 384 5).extend 3 (leBytes 1 0 ++ leBytes 1 0x20 ++ leBytes 8 (m.region (m.regionOf 0)).hemc)

/-- The counters of a telemetry request: of R443 and R277 by cluster and chip, of R41, R46 and R54, STATUS and HLDROP. -/
def Mach.counters (m : Mach) : List Word :=
  ((List.range 48).flatMap fun k => ((List.range 4).map fun i => (rd (m.cl k).fleet i).setWidth 64) ++
      (List.range 13).map fun i => BitVec.ofNat 64 ((m.cl k).counter i)) ++
    (([0x172, 0x173, 0x174] ++ (List.range 64).map (0x180 + ·)).map fun i => (rd m.pack.counters i).setWidth 64) ++
    ((List.range 16).flatMap fun r => [BitVec.ofNat 64 (m.region r).slipc, BitVec.ofNat 64 (m.region r).skipc]) ++
    ((List.range 16).map fun u => (m.source u).err.setWidth 64) ++
    ((List.range 64).flatMap fun g => [(m.gusset g).ovrc.setWidth 64, (m.gusset g).undc.setWidth 64]) ++
    [m.pack.status, rd m.pack.regs 0x3000]

/-- R422, R443: the counters and STATUS. -/
def execTelemetry (s : State) : Out :=
  .next (s.mod fun m => let m := m.sideband; m.modPack fun p => { p with out := p.out ++ [.telemetry m.counters] })

/-- R422: a cluster's save area and its control pair's event queue. -/
def execFreezeDump (k : ClusterId) (s : State) : Out :=
  .next (s.mod fun m =>
    let m := m.sideband
    let q := m.pair k.val
    let area := (m.cl k.val).spad.bytes (q.save * 131072) 131072
    m.modPack fun p => { p with out := p.out ++ [.dump k.val area (q.frzs ++ q.evs)] })

/-- The version is no greater than that of the image running: for the dispatcher firmware, than that of every pair (R426; log 67). -/
def Pack.runsAtLeast (p : Pack) (cls version : Nat) : Bool :=
  (if cls = 0 then List.range 48 else [48]).all fun i => (rd p.running i).any fun v => decide (version ≤ v.toNat)

/-- R426: an anti-rollback counter advances, by a signed record that names a version no greater than that of the image running; its thermometer
has 64 fuses. -/
def execCounterAdvance (cls : Fin 2) (version : BitVec 32) (key sig : List Byte) (s : State) : Out :=
  let m := s.next.sideband
  let good := sha384 key == Config.rooth && verifies key sig (sha384 (Config.recordBytes cls.val version))
  let runs := m.pack.runsAtLeast cls.val version.toNat && decide (version.toNat ≤ 64)
  .next { s with next :=
    if good && runs then m.modPack fun p => { p with thermo := up p.thermo cls.val fun v => BitVec.ofNat 32 (max v.toNat version.toNat) }
    else if good then m
    else m.modPack fun p => { p with out := p.out ++ [.report 0x500 (BitVec.ofNat 64 (cls.val * 2 ^ 32 + version.toNat))] } }

/-- R427: the four measurement registers, signed by the device key. -/
def execGetMeasurements (nonce : List Byte) (s : State) : Out :=
  .next (s.mod fun m => m.modPack fun p => { p with out := p.out ++
    [.measurements nonce ((List.range 4).map fun i => rd p.mrs i) (deviceSig nonce ((List.range 4).map fun i => rd p.mrs i))] })

/-- R421, R425: an image is staged in a flash slot of its class. -/
def execPldmFirmwareUpdate (slot : Fin 2) (img : Image) (s : State) : Out :=
  .next (s.mod fun m => m.sideband.modPack fun p => { p with slots := wr p.slots (2 * img.cls.val + slot.val) (some img) })

/-- R383: the signatures of the twinned control cores differ: the pair halts and is reported; what they differ in (R374) is open. -/
def execControlTwinMismatch (k : ClusterId) (s : State) : Out :=
  .next { (s.mod fun m => m.haltPair k.val (exc cTWIN (Config.freeWord s.draws))) with draws := s.draws + 1 }

/-! ### memory controllers and links (R293, R433, R442) -/

/-- Device physical address of a block of 64 bytes of a controller (R318). -/
def blockPa (ctrl block : Nat) : Nat := (block / 1024 * 16 + ctrl) * 65536 + block % 1024 * 64

/-- R442: a controller reads a block in a scrub slot and finds that `badSymbols` of its symbols have gone bad since: with those bad before, one or
two are corrected, counted, and written back in its next scrub slot; more leave the block's bytes marked uncorrectable. -/
def execHbmScrub (ctrl : Fin 16) (block : Nat) (badSymbols : Nat) (s : State) : Out :=
  let a := blockPa ctrl.val block
  .next (s.mod fun m => if devEnd ≤ a then m else (m.modPack fun p => p.upset (a / 64) badSymbols).devMeets a 64)

/-- R293: refresh, on the controller's own SYSREF count: it changes no byte. -/
def execHbmRefresh (_ctrl : Fin 16) (s : State) : Out := .next s

/-- R433: periodic recalibration, in slots of activity 60: it changes nothing a program sees. -/
def execPhyRecalibration (_p : PathId) (s : State) : Out := .next s

/-! ### the loader (R428, R429) -/

/-- Bytes written into words of w bytes, from byte offset off. -/
def splice {n : Nat} (m : SMap (BitVec n)) (w off : Nat) (bs : List Byte) : SMap (BitVec n) :=
  match bs with
  | [] => m
  | b :: rest =>
    let i := off % w
    let v := (rd m (off / w)).toNat
    splice (wr m (off / w) (BitVec.ofNat n (v % 2 ^ (8 * i) + b.toNat * 2 ^ (8 * i) + v / 2 ^ (8 * i + 8) * 2 ^ (8 * i + 8)))) w (off + 1) rest

/-- Bytes written into a plane of a kind (R428). -/
def Plane.load (p : Plane) (kind off : Nat) (bs : List Byte) : Plane :=
  match kind with
  | 0 => { p with imem := splice p.imem 4 off bs }
  | 1 =>
    let n := 65536 - off
    { p with micro := splice p.micro 8 off (bs.take n), rout := splice p.rout 4 (max off 65536 - 65536) (bs.drop n) }
  | 2 => { p with btab := splice p.btab 32 off bs }
  | 3 => { p with ctab := splice p.ctab 128 off bs }
  | 4 => { p with fw := p.fw.store off bs false }
  | _ => { p with sfw := p.sfw.store off bs false }

def loadEnt (ws : List Nat) : LoadEnt :=
  let w := ws.getD 0 0
  { kind := fld w 0 4, clus := fld w 8 6, mask := fld w 16 8, last := fldB w 63, off := ws.getD 1 0, src := ws.getD 2 0, len := ws.getD 3 0 }

/-- The cores that an entry writes. -/
def LoadEnt.cores (e : LoadEnt) : List Nat :=
  if e.kind = 4 then [384 + e.clus] else if e.kind = 5 then [384] else (coresIn e.clus).filter fun n => e.mask.testBit (n % 8)

/-- ERRC of an entry (R429): 1 or 2. -/
def LoadEnt.bad (e : LoadEnt) (dev : Memory) : Option Nat :=
  if 5 < e.kind ∨ 47 < e.clus ∨ planeSize e.kind < e.off + e.len ∨ devEnd < e.src + e.len then some 1
  else if dev.isBad e.src e.len then some 2
  else none

/-- The shadow plane of a kind, changed. -/
def Core.modShadow (c : Core) (kind : Nat) (f : Plane → Plane) : Core :=
  if c.active.getLsbD kind then { c with plane0 := f c.plane0 } else { c with plane1 := f c.plane1 }

/-- Entry i of the list at an address, or ERRC of one that leaves device memory, is poisoned, or would be one more than a list may have
(log 159). -/
def loadAt (dev : Memory) (list i : Nat) : Except Nat LoadEnt :=
  let a := list + 32 * i
  if 65536 ≤ i ∨ devEnd < a + 32 then .error 1
  else if dev.isBad a 32 then .error 2
  else .ok (loadEnt ((List.range 4).map fun j => dev.nat (a + 8 * j) 8))

/-- The entries of the list from the i-th on, up to LAST or the first that is none. -/
def loadList (dev : Memory) (list i fuel : Nat) : List LoadEnt :=
  match fuel with
  | 0 => []
  | n + 1 =>
    match loadAt dev list i with
    | .error _ => []
    | .ok e => e :: if e.last then [] else loadList dev list (i + 1) n

/-- The complete marks of the planes that an entry writes are cleared (R429). -/
def Mach.unmark (m : Mach) (e : LoadEnt) : Mach :=
  e.cores.foldl (fun m n => m.modCore n fun c => { c with complete := c.complete &&& ~~~ BitVec.ofNat 6 (2 ^ e.kind) }) m

/-- R428: the loader starts on the list at LDLIST, unless it is busy; the planes named are no longer complete. -/
def execLdgo (s : State) : Out :=
  if s.next.pack.ldbusy then .next s
  else
    .next (s.mod fun m =>
      let a := m.pack.ldlist.toNat
      let m := m.devMeets a (32 * (loadList m.pack.dev a 0 65536).length)
      let m := ((loadList m.pack.dev a 0 65536).takeWhile fun e => (e.bad m.pack.dev).isNone).foldl Mach.unmark m
      m.modPack fun p => { p with
        ldbusy := true, ldcur := a, ldstat := BitVec.ofNat 64 (2 ^ 63), ldents := [], ldoff := 0, lderr := none, ldover := false })

/-- The loader has taken its last entry, or stops on an error: the list is complete some cycles later, how many is free (log 65). -/
def Mach.loaderEnds (m : Mach) (err : Option (Nat × Nat)) : Mach :=
  (m.serial.modPack fun p => { p with lderr := err, ldover := true }).owe (Config.loadCycles m.pack.serial) .loadListComplete

/-- An entry has been taken. -/
def Mach.loaded (m : Mach) (e : LoadEnt) : Mach :=
  let m := m.modPack fun p => { p with ldents := p.ldents ++ [e], ldoff := 0 }
  if e.last then m.loaderEnds none else m

/-- Bytes of an entry, from byte off on, written to the shadow planes that it names. -/
def Mach.loads (m : Mach) (e : LoadEnt) (off n : Nat) : Mach :=
  let bs := m.pack.dev.bytes (e.src + off) n
  e.cores.foldl (fun m n => m.modCore n fun c => c.modShadow e.kind fun p => p.load e.kind (e.off + off) bs) ((m.unmark e).devMeets (e.src + off) n)

/-- The loader in the cycle of region 0's count t: the next bytes of its entry that lie in one unit of 64 KiB move in the first cycle of a slot of
activity 56 of their controller (R428; log 158). -/
def Mach.loaderCycle (m : Mach) (t : Nat) : Mach :=
  if !m.pack.ldbusy || m.pack.ldover then m
  else
    let i := m.pack.ldents.length
    let off := m.pack.ldoff
    match loadAt m.pack.dev m.pack.ldcur i with
    | .error c => m.loaderEnds (some (i, c))
    | .ok e =>
      match e.bad m.pack.dev with
      | some c => m.loaderEnds (some (i, c))
      | none =>
        if e.len ≤ off then m.loaded e
        else
          let n := min (e.len - off) (65536 - (e.src + off) % 65536)
          let ws := [ctrlOf (e.src + off)]
          if !m.slots56 ws t then m
          else
            let m := (m.use56 ws t).loads e off n
            if e.len ≤ off + n then m.loaded e else m.modPack fun p => { p with ldoff := off + n }

/-- ERRC of a firmware plane that a list has written (R429): 3 signature or digest, 4 version below its counter. -/
def Mach.fwBad (m : Mach) (kind n : Nat) : Option Nat :=
  let c := m.core n
  match Config.parseImage ((if c.active.getLsbD kind then c.plane0 else c.plane1).firmware kind) with
  | none => some 3
  | some i =>
    if i.cls.val ≠ kind - 4 ∨ !Image.authentic i then some 3
    else if i.version.toNat < (rd m.pack.thermo (kind - 4)).toNat then some 4
    else none

/-- R429: the list ends: its planes are complete and MR2 is extended, or it stops on an error; firmware planes must pass the checks of
R424, and the sideband reports one that does not (R422). -/
def execLoadListComplete (s : State) : Out :=
  if !s.next.pack.ldbusy || !s.next.pack.ldover then .next s
  else
    .next (s.mod fun t =>
      let done := t.pack.ldents
      let err := t.pack.lderr
      let fw := done.zipIdx.findSome? fun (e, i) => if e.kind < 4 then none else (e.cores.findSome? fun n => t.fwBad e.kind n).map fun c => (i, c)
      match err.or fw with
      | some (i, c) => t.modPack fun p => { p with
          ldbusy := false, ldstat := BitVec.ofNat 64 (2 ^ 62 + i % 65536 * 2 ^ 32 + c)
          out := if err.isNone then p.out ++ [.report 0x500 (BitVec.ofNat 64 (((done.map LoadEnt.kind).getD i 4 - 4) * 2 ^ 32))] else p.out }
      | none =>
        let bs := t.pack.dev.bytes t.pack.ldcur (32 * done.length)
        let t := done.foldl (fun t e => e.cores.foldl (fun t n =>
          t.modCore n fun c => { c with complete := c.complete ||| BitVec.ofNat 6 (2 ^ e.kind) }) t) t
        (t.extend 2 bs).modPack fun p => { p with ldbusy := false, ldstat := 0 })

end Sys2Proof.Machine
end

