-- ==== Sys2Proof/Machine/Dispatch.lean ====
section
/-! DEFINITION. One arm per step: each a direct call of its meaning. -/

namespace Sys2Proof.Machine

def exec (i : Instr) (s : State) : Host.Outcome State Fault Refusal :=
  match i with
  | .add x d a b => Sys2Proof.Machine.execAdd x d a b s
  | .sub x d a b => Sys2Proof.Machine.execSub x d a b s
  | .and x d a b => Sys2Proof.Machine.execAnd x d a b s
  | .or x d a b => Sys2Proof.Machine.execOr x d a b s
  | .xor x d a b => Sys2Proof.Machine.execXor x d a b s
  | .andn x d a b => Sys2Proof.Machine.execAndn x d a b s
  | .shl x d a b => Sys2Proof.Machine.execShl x d a b s
  | .shr x d a b => Sys2Proof.Machine.execShr x d a b s
  | .sar x d a b => Sys2Proof.Machine.execSar x d a b s
  | .rotl x d a b => Sys2Proof.Machine.execRotl x d a b s
  | .min x d a b => Sys2Proof.Machine.execMin x d a b s
  | .max x d a b => Sys2Proof.Machine.execMax x d a b s
  | .minn x d a b => Sys2Proof.Machine.execMinn x d a b s
  | .maxn x d a b => Sys2Proof.Machine.execMaxn x d a b s
  | .mul x d a b => Sys2Proof.Machine.execMul x d a b s
  | .mulh x d a b => Sys2Proof.Machine.execMulh x d a b s
  | .mulhn x d a b => Sys2Proof.Machine.execMulhn x d a b s
  | .div x d a b => Sys2Proof.Machine.execDiv x d a b s
  | .divn x d a b => Sys2Proof.Machine.execDivn x d a b s
  | .rem x d a b => Sys2Proof.Machine.execRem x d a b s
  | .remn x d a b => Sys2Proof.Machine.execRemn x d a b s
  | .clz x d a => Sys2Proof.Machine.execClz x d a s
  | .ctz x d a => Sys2Proof.Machine.execCtz x d a s
  | .popc x d a => Sys2Proof.Machine.execPopc x d a s
  | .sext x d a b => Sys2Proof.Machine.execSext x d a b s
  | .zext x d a b => Sys2Proof.Machine.execZext x d a b s
  | .mov x d a => Sys2Proof.Machine.execMov x d a s
  | .csel x d a b => Sys2Proof.Machine.execCsel x d a b s
  | .kcmp c k a b => Sys2Proof.Machine.execKcmp c k a b s
  | .kcmpImm c k a imm => Sys2Proof.Machine.execKcmpImm c k a imm s
  | .klog o k a b => Sys2Proof.Machine.execKlog o k a b s
  | .addi x d imm => Sys2Proof.Machine.execAddi x d imm s
  | .andi x d imm => Sys2Proof.Machine.execAndi x d imm s
  | .ori x d imm => Sys2Proof.Machine.execOri x d imm s
  | .xori x d imm => Sys2Proof.Machine.execXori x d imm s
  | .shli x d imm => Sys2Proof.Machine.execShli x d imm s
  | .shri x d imm => Sys2Proof.Machine.execShri x d imm s
  | .sari x d imm => Sys2Proof.Machine.execSari x d imm s
  | .movi x d imm => Sys2Proof.Machine.execMovi x d imm s
  | .movhi d imm => Sys2Proof.Machine.execMovhi d imm s
  | .muli x d imm => Sys2Proof.Machine.execMuli x d imm s
  | .addpc d imm => Sys2Proof.Machine.execAddpc d imm s
  | .ext p => Sys2Proof.Machine.execExt p s
  | .br o => Sys2Proof.Machine.execBr o s
  | .bk p k o => Sys2Proof.Machine.execBk p k o s
  | .call o => Sys2Proof.Machine.execCall o s
  | .jr a => Sys2Proof.Machine.execJr a s
  | .callr a => Sys2Proof.Machine.execCallr a s
  | .ret => Sys2Proof.Machine.execRet s
  | .loopb o => Sys2Proof.Machine.execLoopb o s
  | .loopc o => Sys2Proof.Machine.execLoopc o s
  | .loopset d imm => Sys2Proof.Machine.execLoopset d imm s
  | .notch => Sys2Proof.Machine.execNotch s
  | .hemsync => Sys2Proof.Machine.execHemsync s
  | .smpl => Sys2Proof.Machine.execSmpl s
  | .yield => Sys2Proof.Machine.execYield s
  | .retire => Sys2Proof.Machine.execRetire s
  | .setfmt a => Sys2Proof.Machine.execSetfmt a s
  | .nop => Sys2Proof.Machine.execNop s
  | .trapi imm => Sys2Proof.Machine.execTrapi imm s
  | .brkpt => Sys2Proof.Machine.execBrkpt s
  | .sstep => Sys2Proof.Machine.execSstep s
  | .fence imm => Sys2Proof.Machine.execFence imm s
  | .ldb x d b o => Sys2Proof.Machine.execLdb x d b o s
  | .ldbn x d b o => Sys2Proof.Machine.execLdbn x d b o s
  | .ldh x d b o => Sys2Proof.Machine.execLdh x d b o s
  | .ldhn x d b o => Sys2Proof.Machine.execLdhn x d b o s
  | .ldw x d b o => Sys2Proof.Machine.execLdw x d b o s
  | .ldwn x d b o => Sys2Proof.Machine.execLdwn x d b o s
  | .ldd x d b o => Sys2Proof.Machine.execLdd x d b o s
  | .stb x d b o => Sys2Proof.Machine.execStb x d b o s
  | .sth x d b o => Sys2Proof.Machine.execSth x d b o s
  | .stw x d b o => Sys2Proof.Machine.execStw x d b o s
  | .std x d b o => Sys2Proof.Machine.execStd x d b o s
  | .amoadd d b o => Sys2Proof.Machine.execAmoadd d b o s
  | .amoswap d b o => Sys2Proof.Machine.execAmoswap d b o s
  | .amocas d b o => Sys2Proof.Machine.execAmocas d b o s
  | .amomin d b o => Sys2Proof.Machine.execAmomin d b o s
  | .amomax d b o => Sys2Proof.Machine.execAmomax d b o s
  | .amominn d b o => Sys2Proof.Machine.execAmominn d b o s
  | .amomaxn d b o => Sys2Proof.Machine.execAmomaxn d b o s
  | .amoand d b o => Sys2Proof.Machine.execAmoand d b o s
  | .amoor d b o => Sys2Proof.Machine.execAmoor d b o s
  | .amoxor d b o => Sys2Proof.Machine.execAmoxor d b o s
  | .lookup d b o => Sys2Proof.Machine.execLookup d b o s
  | .tagset d b o => Sys2Proof.Machine.execTagset d b o s
  | .tagclr b o => Sys2Proof.Machine.execTagclr b o s
  | .lea d b o => Sys2Proof.Machine.execLea d b o s
  | .vadd m d a b => Sys2Proof.Machine.execVadd m d a b s
  | .vsub m d a b => Sys2Proof.Machine.execVsub m d a b s
  | .vmul m d a b => Sys2Proof.Machine.execVmul m d a b s
  | .vfma m d a b => Sys2Proof.Machine.execVfma m d a b s
  | .vfms m d a b => Sys2Proof.Machine.execVfms m d a b s
  | .vmin m d a b => Sys2Proof.Machine.execVmin m d a b s
  | .vmax m d a b => Sys2Proof.Machine.execVmax m d a b s
  | .vabs m d a => Sys2Proof.Machine.execVabs m d a s
  | .vneg m d a => Sys2Proof.Machine.execVneg m d a s
  | .vand m d a b => Sys2Proof.Machine.execVand m d a b s
  | .vor m d a b => Sys2Proof.Machine.execVor m d a b s
  | .vxor m d a b => Sys2Proof.Machine.execVxor m d a b s
  | .vshl m d a b => Sys2Proof.Machine.execVshl m d a b s
  | .vshr m d a b => Sys2Proof.Machine.execVshr m d a b s
  | .vsar m d a b => Sys2Proof.Machine.execVsar m d a b s
  | .vsel m d a b => Sys2Proof.Machine.execVsel m d a b s
  | .vmov m d a => Sys2Proof.Machine.execVmov m d a s
  | .vbc m d a => Sys2Proof.Machine.execVbc m d a s
  | .vaddi m d a imm => Sys2Proof.Machine.execVaddi m d a imm s
  | .vmuli m d a imm => Sys2Proof.Machine.execVmuli m d a imm s
  | .vrecip m d a => Sys2Proof.Machine.execVrecip m d a s
  | .vrsqrt m d a => Sys2Proof.Machine.execVrsqrt m d a s
  | .vexp2 m d a => Sys2Proof.Machine.execVexp2 m d a s
  | .vlog2 m d a => Sys2Proof.Machine.execVlog2 m d a s
  | .vclamp m d a b => Sys2Proof.Machine.execVclamp m d a b s
  | .vround m d a => Sys2Proof.Machine.execVround m d a s
  | .vcmp c p a b => Sys2Proof.Machine.execVcmp c p a b s
  | .vmulh m d a b => Sys2Proof.Machine.execVmulh m d a b s
  | .vsatadd m d a b => Sys2Proof.Machine.execVsatadd m d a b s
  | .vsatsub m d a b => Sys2Proof.Machine.execVsatsub m d a b s
  | .vaddw m d a b => Sys2Proof.Machine.execVaddw m d a b s
  | .vmacw m d a b => Sys2Proof.Machine.execVmacw m d a b s
  | .vcvt m d a p => Sys2Proof.Machine.execVcvt m d a p s
  | .vq8 m d a p => Sys2Proof.Machine.execVq8 m d a p s
  | .vdq8 m d a p => Sys2Proof.Machine.execVdq8 m d a p s
  | .vredsum m d a b => Sys2Proof.Machine.execVredsum m d a b s
  | .vredmax m d a b => Sys2Proof.Machine.execVredmax m d a b s
  | .vredmin m d a b => Sys2Proof.Machine.execVredmin m d a b s
  | .vscan m d a b => Sys2Proof.Machine.execVscan m d a b s
  | .vperm m d a b => Sys2Proof.Machine.execVperm m d a b s
  | .vrot m d a b => Sys2Proof.Machine.execVrot m d a b s
  | .vshuf m d a b => Sys2Proof.Machine.execVshuf m d a b s
  | .vpackh m d a b => Sys2Proof.Machine.execVpackh m d a b s
  | .vunpk m d a p => Sys2Proof.Machine.execVunpk m d a p s
  | .vrand m d a b => Sys2Proof.Machine.execVrand m d a b s
  | .vext m d a b => Sys2Proof.Machine.execVext m d a b s
  | .vins m d a b => Sys2Proof.Machine.execVins m d a b s
  | .vbsum m d a => Sys2Proof.Machine.execVbsum m d a s
  | .vbmax m d a => Sys2Proof.Machine.execVbmax m d a s
  | .vld x d b o => Sys2Proof.Machine.execVld x d b o s
  | .vst x d b o => Sys2Proof.Machine.execVst x d b o s
  | .vstm x d b o => Sys2Proof.Machine.execVstm x d b o s
  | .vldx m d a b => Sys2Proof.Machine.execVldx m d a b s
  | .vstx m d a b => Sys2Proof.Machine.execVstx m d a b s
  | .vstxa m d a b => Sys2Proof.Machine.execVstxa m d a b s
  | .bset n imm => Sys2Proof.Machine.execBset n imm s
  | .bseek m n b => Sys2Proof.Machine.execBseek m n b s
  | .bpos m d n => Sys2Proof.Machine.execBpos m d n s
  | .bstat m d n => Sys2Proof.Machine.execBstat m d n s
  | .bstatGather m d => Sys2Proof.Machine.execBstatGather m d s
  | .bflush m n => Sys2Proof.Machine.execBflush m n s
  | .bdone m n => Sys2Proof.Machine.execBdone m n s
  | .pand d a b => Sys2Proof.Machine.execPand d a b s
  | .por d a b => Sys2Proof.Machine.execPor d a b s
  | .pxor d a b => Sys2Proof.Machine.execPxor d a b s
  | .pandn d a b => Sys2Proof.Machine.execPandn d a b s
  | .pnot d a => Sys2Proof.Machine.execPnot d a s
  | .pmov d a => Sys2Proof.Machine.execPmov d a s
  | .pset d a => Sys2Proof.Machine.execPset d a s
  | .pcnt d a => Sys2Proof.Machine.execPcnt d a s
  | .pfirst d a => Sys2Proof.Machine.execPfirst d a s
  | .ppack d a => Sys2Proof.Machine.execPpack d a s
  | .punpk d a => Sys2Proof.Machine.execPunpk d a s
  | .ptest d a m => Sys2Proof.Machine.execPtest d a m s
  | .pmask d a => Sys2Proof.Machine.execPmask d a s
  | .mcall imm => Sys2Proof.Machine.execMcall imm s
  | .mtsh t a => Sys2Proof.Machine.execMtsh t a s
  | .mfsh d t => Sys2Proof.Machine.execMfsh d t s
  | .mpar m a => Sys2Proof.Machine.execMpar m a s
  | .mfpar d m => Sys2Proof.Machine.execMfpar d m s
  | .mldv x t a b => Sys2Proof.Machine.execMldv x t a b s
  | .mstv x d t b => Sys2Proof.Machine.execMstv x d t b s
  | .mzero t => Sys2Proof.Machine.execMzero t s
  | .mstat d s_ => Sys2Proof.Machine.execMstat d s_ s
  | .mresume => Sys2Proof.Machine.execMresume s
  | .mnop n => Sys2Proof.Machine.execMnop n s
  | .mmac ta tb tc mode wn imm => Sys2Proof.Machine.execMmac ta tb tc mode wn imm s
  | .mmacs ta tb tc mode wn imm => Sys2Proof.Machine.execMmacs ta tb tc mode wn imm s
  | .mmacq ta tb tc mode wn imm => Sys2Proof.Machine.execMmacq ta tb tc mode wn imm s
  | .microMzero tc => Sys2Proof.Machine.execMicroMzero tc s
  | .microMldv tc mode wn imm => Sys2Proof.Machine.execMicroMldv tc mode wn imm s
  | .microMstv ta mode wn imm => Sys2Proof.Machine.execMicroMstv ta mode wn imm s
  | .mtrn ta tc => Sys2Proof.Machine.execMtrn ta tc s
  | .maddt ta tb tc => Sys2Proof.Machine.execMaddt ta tb tc s
  | .mloop wn target => Sys2Proof.Machine.execMloop wn target s
  | .mbr wn cond target => Sys2Proof.Machine.execMbr wn cond target s
  | .mpset wn op value => Sys2Proof.Machine.execMpset wn op value s
  | .mstep => Sys2Proof.Machine.execMstep s
  | .mend => Sys2Proof.Machine.execMend s
  | .cpy imm => Sys2Proof.Machine.execCpy imm s
  | .cpyset d imm => Sys2Proof.Machine.execCpyset d imm s
  | .cpyd d a b => Sys2Proof.Machine.execCpyd d a b s
  | .gath d a b => Sys2Proof.Machine.execGath d a b s
  | .scat d a b => Sys2Proof.Machine.execScat d a b s
  | .drain imm => Sys2Proof.Machine.execDrain imm s
  | .ckarm a b => Sys2Proof.Machine.execCkarm a b s
  | .stage d a b => Sys2Proof.Machine.execStage d a b s
  | .bmchk c k a => Sys2Proof.Machine.execBmchk c k a s
  | .bmset a => Sys2Proof.Machine.execBmset a s
  | .send c a b => Sys2Proof.Machine.execSend c a b s
  | .recv d c => Sys2Proof.Machine.execRecv d c s
  | .fsend a b => Sys2Proof.Machine.execFsend a b s
  | .expect d imm => Sys2Proof.Machine.execExpect d imm s
  | .frecv d a b => Sys2Proof.Machine.execFrecv d a b s
  | .gbind a b => Sys2Proof.Machine.execGbind a b s
  | .gfree a => Sys2Proof.Machine.execGfree a s
  | .red m d a b => Sys2Proof.Machine.execRed m d a b s
  | .mcast a b => Sys2Proof.Machine.execMcast a b s
  | .digest d a b => Sys2Proof.Machine.execDigest d a b s
  | .nstat d s_ => Sys2Proof.Machine.execNstat d s_ s
  | .mfc d imm => Sys2Proof.Machine.execMfc d imm s
  | .mtc d imm => Sys2Proof.Machine.execMtc d imm s
  | .rfe => Sys2Proof.Machine.execRfe s
  | .thaw a => Sys2Proof.Machine.execThaw a s
  | .rewind a => Sys2Proof.Machine.execRewind a s
  | .swap d imm => Sys2Proof.Machine.execSwap d imm s
  | .taskpost k a => Sys2Proof.Machine.execTaskpost k a s
  | .taskdone a => Sys2Proof.Machine.execTaskdone a s
  | .twin d imm => Sys2Proof.Machine.execTwin d imm s
  | .bank d imm => Sys2Proof.Machine.execBank d imm s
  | .halt => Sys2Proof.Machine.execHalt s
  | .spillv d b o => Sys2Proof.Machine.execSpillv d b o s
  | .fillv d b o => Sys2Proof.Machine.execFillv d b o s
  | .spills d b o => Sys2Proof.Machine.execSpills d b o s
  | .fills d b o => Sys2Proof.Machine.execFills d b o s
  | .spillp d b o => Sys2Proof.Machine.execSpillp d b o s
  | .fillp d b o => Sys2Proof.Machine.execFillp d b o s
  | .tokchk c k a => Sys2Proof.Machine.execTokchk c k a s
  | .salloc d imm => Sys2Proof.Machine.execSalloc d imm s
  | .sfree d imm => Sys2Proof.Machine.execSfree d imm s
  | .freezeRecordsComplete r => Sys2Proof.Machine.execFreezeRecordsComplete r s
  | .eventTake k => Sys2Proof.Machine.execEventTake k s
  | .freezeActionEffect n x act => Sys2Proof.Machine.execFreezeActionEffect n x act s
  | .slipDebtSkip r => Sys2Proof.Machine.execSlipDebtSkip r s
  | .runBudgetExpiry n x => Sys2Proof.Machine.execRunBudgetExpiry n x s
  | .sourceTick u t obs => Sys2Proof.Machine.execSourceTick u t obs s
  | .samplePayloadArrival u n data gap => Sys2Proof.Machine.execSamplePayloadArrival u n data gap s
  | .mediaPduIngress port streamId vsf seq gap len data => Sys2Proof.Machine.execMediaPduIngress port streamId vsf seq gap len data s
  | .hostRecordTick u obs => Sys2Proof.Machine.execHostRecordTick u obs s
  | .ptmRequest => Sys2Proof.Machine.execPtmRequest s
  | .ptmTimeout u => Sys2Proof.Machine.execPtmTimeout u s
  | .regionTick r => Sys2Proof.Machine.execRegionTick r s
  | .acquireComplete r => Sys2Proof.Machine.execAcquireComplete r s
  | .tickLoss r => Sys2Proof.Machine.execTickLoss r s
  | .holdtExpiry r => Sys2Proof.Machine.execHoldtExpiry r s
  | .relock r => Sys2Proof.Machine.execRelock r s
  | .hem r => Sys2Proof.Machine.execHem r s
  | .patternRestart r tick => Sys2Proof.Machine.execPatternRestart r tick s
  | .admission n => Sys2Proof.Machine.execAdmission n s
  | .preloadComplete n x => Sys2Proof.Machine.execPreloadComplete n x s
  | .taskAging k => Sys2Proof.Machine.execTaskAging k s
  | .completionBitTest k entry => Sys2Proof.Machine.execCompletionBitTest k entry s
  | .ringReturn k => Sys2Proof.Machine.execRingReturn k s
  | .dupCompare k pair => Sys2Proof.Machine.execDupCompare k pair s
  | .twinCompare k j => Sys2Proof.Machine.execTwinCompare k j s
  | .copyComplete n e => Sys2Proof.Machine.execCopyComplete n e s
  | .stageComplete k => Sys2Proof.Machine.execStageComplete k s
  | .bmsetBitSet n e => Sys2Proof.Machine.execBmsetBitSet n e s
  | .sendArrival n ch src data => Sys2Proof.Machine.execSendArrival n ch src data s
  | .bankWakeComplete k bank => Sys2Proof.Machine.execBankWakeComplete k bank s
  | .fragmentArrival k f => Sys2Proof.Machine.execFragmentArrival k f s
  | .messageClose k => Sys2Proof.Machine.execMessageClose k s
  | .groupDrainEnd k group => Sys2Proof.Machine.execGroupDrainEnd k group s
  | .fragmentExpiry p => Sys2Proof.Machine.execFragmentExpiry p s
  | .pathDown p => Sys2Proof.Machine.execPathDown p s
  | .laneRetrainComplete p => Sys2Proof.Machine.execLaneRetrainComplete p s
  | .doorbell tail => Sys2Proof.Machine.execDoorbell tail s
  | .submit job w1 w2 w3 w4 w5 w6 w7 => Sys2Proof.Machine.execSubmit job w1 w2 w3 w4 w5 w6 w7 s
  | .cards w1 w2 w3 => Sys2Proof.Machine.execCards w1 w2 w3 s
  | .ttypes w1 w2 w3 => Sys2Proof.Machine.execTtypes w1 w2 w3 s
  | .region w1 w2 w3 w4 w5 w6 => Sys2Proof.Machine.execRegion w1 w2 w3 w4 w5 w6 s
  | .regionStart r => Sys2Proof.Machine.execRegionStart r s
  | .regionStop r => Sys2Proof.Machine.execRegionStop r s
  | .wheel w1 w2 => Sys2Proof.Machine.execWheel w1 w2 s
  | .range w1 w2 w3 => Sys2Proof.Machine.execRange w1 w2 w3 s
  | .crate w1 w2 => Sys2Proof.Machine.execCrate w1 w2 s
  | .preempt job => Sys2Proof.Machine.execPreempt job s
  | .resume job => Sys2Proof.Machine.execResume job s
  | .kill job => Sys2Proof.Machine.execKill job s
  | .sanitise => Sys2Proof.Machine.execSanitise s
  | .sanitiseComplete => Sys2Proof.Machine.execSanitiseComplete s
  | .jobEnd job => Sys2Proof.Machine.execJobEnd job s
  | .killWrite k v => Sys2Proof.Machine.execKillWrite k v s
  | .dhold k entry => Sys2Proof.Machine.execDhold k entry s
  | .dholdKill k entry => Sys2Proof.Machine.execDholdKill k entry s
  | .dholdKillJob k entry => Sys2Proof.Machine.execDholdKillJob k entry s
  | .dretry k => Sys2Proof.Machine.execDretry k s
  | .dringConfigWrite k cfg v => Sys2Proof.Machine.execDringConfigWrite k cfg v s
  | .savebWrite k v => Sys2Proof.Machine.execSavebWrite k v s
  | .gcfgWrite g v => Sys2Proof.Machine.execGcfgWrite g v s
  | .gstepWrite g v => Sys2Proof.Machine.execGstepWrite g v s
  | .crcfgWrite u v => Sys2Proof.Machine.execCrcfgWrite u v s
  | .holdtWrite r v => Sys2Proof.Machine.execHoldtWrite r v s
  | .rsync r => Sys2Proof.Machine.execRsync r s
  | .tagTableClear k => Sys2Proof.Machine.execTagTableClear k s
  | .clrpend k cls => Sys2Proof.Machine.execClrpend k cls s
  | .clrlate k => Sys2Proof.Machine.execClrlate k s
  | .clrloss k => Sys2Proof.Machine.execClrloss k s
  | .clrdig k => Sys2Proof.Machine.execClrdig k s
  | .clrnov k => Sys2Proof.Machine.execClrnov k s
  | .clrcrc k => Sys2Proof.Machine.execClrcrc k s
  | .counterClear k num => Sys2Proof.Machine.execCounterClear k num s
  | .spare k v => Sys2Proof.Machine.execSpare k v s
  | .lgrt v => Sys2Proof.Machine.execLgrt v s
  | .ppr v => Sys2Proof.Machine.execPpr v s
  | .pprCopyComplete ctrl => Sys2Proof.Machine.execPprCopyComplete ctrl s
  | .ldgo => Sys2Proof.Machine.execLdgo s
  | .loadListComplete => Sys2Proof.Machine.execLoadListComplete s
  | .cringConfigWrite size v => Sys2Proof.Machine.execCringConfigWrite size v s
  | .bar2winWrite v => Sys2Proof.Machine.execBar2winWrite v s
  | .hstailWrite s_ v => Sys2Proof.Machine.execHstailWrite s_ v s
  | .registerWrite k num v => Sys2Proof.Machine.execRegisterWrite k num v s
  | .bar2Read off len => Sys2Proof.Machine.execBar2Read off len s
  | .bar2Write off data poisoned => Sys2Proof.Machine.execBar2Write off data poisoned s
  | .flr => Sys2Proof.Machine.execFlr s
  | .coldPowerUp failing => Sys2Proof.Machine.execColdPowerUp failing s
  | .surpriseLinkLoss => Sys2Proof.Machine.execSurpriseLinkLoss s
  | .telemetry => Sys2Proof.Machine.execTelemetry s
  | .freezeDump k => Sys2Proof.Machine.execFreezeDump k s
  | .warmReset => Sys2Proof.Machine.execWarmReset s
  | .coldReset => Sys2Proof.Machine.execColdReset s
  | .counterAdvance cls version key sig => Sys2Proof.Machine.execCounterAdvance cls version key sig s
  | .getMeasurements nonce => Sys2Proof.Machine.execGetMeasurements nonce s
  | .thermalWarning => Sys2Proof.Machine.execThermalWarning s
  | .thermalTrip => Sys2Proof.Machine.execThermalTrip s
  | .powerTrip => Sys2Proof.Machine.execPowerTrip s
  | .hbmScrub ctrl block badSymbols => Sys2Proof.Machine.execHbmScrub ctrl block badSymbols s
  | .controlTwinMismatch k => Sys2Proof.Machine.execControlTwinMismatch k s
  | .ptmResponse t => Sys2Proof.Machine.execPtmResponse t s
  | .pldmFirmwareUpdate slot img => Sys2Proof.Machine.execPldmFirmwareUpdate slot img s
  | .segmentExpansionComplete n x => Sys2Proof.Machine.execSegmentExpansionComplete n x s
  | .hbmRefresh ctrl => Sys2Proof.Machine.execHbmRefresh ctrl s
  | .phyRecalibration p => Sys2Proof.Machine.execPhyRecalibration p s

end Sys2Proof.Machine
end

