-- ==== Sys2Proof/Machine/Plan.lean ====
section
/-! DEFINITION. The order of the part's steps: the steps that open a cycle, the clock edges, and the steps owed (R11, R25, R27, R45, R49, R61,
R62, R382, R416, R438; log 1 to 4). -/

namespace Sys2Proof.Machine

/-- A step that the machine owes: its meaning. -/
def runOwed (o : Owed) (s : State) : Out :=
  match o with
  | .freezeRecordsComplete r => execFreezeRecordsComplete r s
  | .eventTake k => execEventTake k s
  | .freezeActionEffect n x act => execFreezeActionEffect n x act s
  | .slipDebtSkip r => execSlipDebtSkip r s
  | .runBudgetExpiry n x => execRunBudgetExpiry n x s
  | .sourceTick u t obs => execSourceTick u t obs s
  | .ptmRequest => execPtmRequest s
  | .hostRecordTick u obs => execHostRecordTick u obs s
  | .ptmTimeout u => execPtmTimeout u s
  | .regionTick r => execRegionTick r s
  | .acquireComplete r => execAcquireComplete r s
  | .tickLoss r => execTickLoss r s
  | .holdtExpiry r => execHoldtExpiry r s
  | .relock r => execRelock r s
  | .hem r => execHem r s
  | .patternRestart r tick => execPatternRestart r tick s
  | .admission n => execAdmission n s
  | .preloadComplete n x => execPreloadComplete n x s
  | .taskAging k => execTaskAging k s
  | .completionBitTest k entry => execCompletionBitTest k entry s
  | .ringReturn k => execRingReturn k s
  | .dupCompare k pair => execDupCompare k pair s
  | .twinCompare k j => execTwinCompare k j s
  | .copyComplete n e => execCopyComplete n e s
  | .stageComplete k => execStageComplete k s
  | .sendArrival n ch src data => execSendArrival n ch src data s
  | .bankWakeComplete k bank => execBankWakeComplete k bank s
  | .fragmentArrival k f => execFragmentArrival k f s
  | .messageClose k => execMessageClose k s
  | .groupDrainEnd k group => execGroupDrainEnd k group s
  | .fragmentExpiry p => execFragmentExpiry p s
  | .jobEnd job => execJobEnd job s
  | .killWrite k v => execKillWrite k v s
  | .dhold k entry => execDhold k entry s
  | .dholdKill k entry => execDholdKill k entry s
  | .dholdKillJob k entry => execDholdKillJob k entry s
  | .dretry k => execDretry k s
  | .dringConfigWrite k cfg v => execDringConfigWrite k cfg v s
  | .savebWrite k v => execSavebWrite k v s
  | .gcfgWrite g v => execGcfgWrite g v s
  | .gstepWrite g v => execGstepWrite g v s
  | .crcfgWrite u v => execCrcfgWrite u v s
  | .holdtWrite r v => execHoldtWrite r v s
  | .rsync r => execRsync r s
  | .clrpend k cls => execClrpend k cls s
  | .clrlate k => execClrlate k s
  | .clrloss k => execClrloss k s
  | .clrdig k => execClrdig k s
  | .clrnov k => execClrnov k s
  | .clrcrc k => execClrcrc k s
  | .counterClear k num => execCounterClear k num s
  | .spare k v => execSpare k v s
  | .lgrt v => execLgrt v s
  | .laneRetrainComplete p => execLaneRetrainComplete p s
  | .ppr v => execPpr v s
  | .pprCopyComplete ctrl => execPprCopyComplete ctrl s
  | .ldgo => execLdgo s
  | .loadListComplete => execLoadListComplete s
  | .registerWrite k num v => execRegisterWrite k num v s
  | .sanitiseComplete => execSanitiseComplete s
  | .sanitiseDevice => s.sanitiseDevice
  | .segmentExpansionComplete n x => execSegmentExpansionComplete n x s
  | .command => s.command
  | .posting => s.posting
  | .settled => s.settled

/-! ### what is due -/

/-- A moment has come, for what waits outside any cycle. -/
def Mach.reached (m : Mach) (d : Due) : Bool :=
  match d with
  | .age r n => decide (n ≤ (m.region r).age)
  | .count r n => decide (n ≤ (m.region r).count)
  | .pair n => decide (n ≤ m.pclk)
  | .now => true

/-- A step owed is taken at the opening of a cycle of its own clock. -/
def Due.opens (d : Due) (dom : Domain) : Bool :=
  match d, dom with
  | .age r _, .region q | .count r _, .region q => r == q.val
  | .pair _, .pairs => true
  | .now, _ => true
  | _, _ => false

def Mach.dueNow (m : Mach) (dom : Domain) (q : Due × Owed) : Bool := q.1.opens dom && m.reached q.1

/-- The machine's steps that a cycle opens with. -/
def Mach.dueSteps (m : Mach) (dom : Domain) : List Owed := (m.owed.filter fun q => m.dueNow dom q).map Prod.snd

/-! ### the opening of a region's cycle -/

/-- Sample ticks that have fallen by the region's count and are still to be taken (R45). -/
def Region.ticksDue (g : Region) : Nat :=
  if g.cadl = 0 ∨ !(g.state == 2 || g.state == 3) then 0 else ((g.count + 1) * g.cadd - 1) / g.cadl + 1 + g.skew - g.scnt

/-- The run of context x has reached its budget (R27). -/
def Mach.spent (m : Mach) (n x : Nat) : Bool :=
  match (m.ctx n x).runFrom, (m.ctx n x).task with
  | some f, some t => (m.core n).cur == some x && !m.follows n && decide (f + t.budget ≤ m.cyc n)
  | _, _ => false

/-- The steps of the cores of a region: wakes, copies and timed sends that end. -/
def Mach.coreSteps (m : Mach) (r a : Nat) : List Owed :=
  ((m.clustersOf r).flatMap fun k =>
    let c := m.cl k
    if c.banks.isEmpty then []
    else ((List.range 8).filter fun b => rd c.banks b == 2 && decide (rd c.wake b ≤ a)).map fun b =>
      Owed.bankWakeComplete (Fin.ofNat 48 k) (Fin.ofNat 8 b)) ++
  ((m.coresOf r).flatMap fun n => (List.range 2).flatMap fun e =>
    ((rd (m.core n).eng e).copies.filter fun c => c.done a).map fun _ => Owed.copyComplete (Fin.ofNat 384 n) (Fin.ofNat 2 e)) ++
  ((sortOn Flight.src (m.pack.flights.filter fun f => decide (f.due ≤ a) && (m.region r).mask.getLsbD (clusOf f.src))).map fun f =>
    Owed.sendArrival (Fin.ofNat 384 f.dst) (Fin.ofNat 8 f.ch) (Fin.ofNat 384 f.src) f.val)

/-- The stages that end. -/
def Mach.stageSteps (m : Mach) : List Owed :=
  ((List.range 48).filter fun k => (m.cl k).staged).map fun k => Owed.stageComplete (Fin.ofNat 48 k)

/-- The steps of the fabric and of the stages, which keep region 0's time: groups drained are free before anything arrives, and a message
whose first fragment arrives in its close cycle closes in it (R271, R351). -/
def Mach.netSteps (m : Mach) (a x0 : Nat) : List Owed :=
  let ts := m.arrivals a
  ((List.range 48).flatMap fun k => ((m.cl k).drained x0).map fun g => Owed.groupDrainEnd (Fin.ofNat 48 k) g.id) ++
  (ts.map fun t => Owed.fragmentArrival (Fin.ofNat 48 t.clus) t.frag) ++
  (((List.range 48).filter fun k => (m.cl k).closing x0 || ts.any fun t => t.clus == k).map fun k => Owed.messageClose (Fin.ofNat 48 k)) ++
  (((m.pack.transit.filter fun t => decide (t.at_ + 2 ^ 23 ≤ a)).filterMap Transit.path).eraseDups.map Owed.fragmentExpiry) ++
  m.stageSteps

/-- Faults that a cycle opens with: budgets spent, signatures that differ. -/
def Mach.chargeSteps (m : Mach) (r : Nat) : List Owed :=
  ((m.coresOf r).flatMap fun n => (m.core n).ctxs.filterMap fun ((x, _) : Nat × Ctx) =>
    if m.spent n x then some (Owed.runBudgetExpiry (Fin.ofNat 384 n) (Fin.ofNat 8 x)) else none) ++
  ((m.clustersOf r).flatMap fun k => ((List.range 4).filter fun j => m.mismatch k j != 0).map fun j =>
    Owed.twinCompare (Fin.ofNat 48 k) (Fin.ofNat 4 j))

/-- The steps with which a cycle of region r opens. -/
def Mach.regionSteps (m : Mach) (r : Fin 16) : List Owed :=
  let g := m.region r.val
  m.dueSteps (.region r) ++ m.coreSteps r.val g.age ++ (if r = 0 then m.netSteps g.age g.count else []) ++
    List.replicate g.ticksDue (.regionTick r) ++ m.chargeSteps r.val

/-! ### the opening of a cycle of the pairs -/

/-- SYSREF ticks every 40 ns: 90 cycles of the pairs' clock (R38; log 41), unless it has stopped (R60). -/
def Mach.sysrefSteps (m : Mach) : List Owed :=
  if m.pack.sysrefDown ∨ m.pclk % 90 ≠ 0 then []
  else ((List.range 16).filter fun u => (m.source u).kind == 0 && !(m.boundTo u).isEmpty).map fun u =>
    .sourceTick (Fin.ofNat 16 u) (m.pclk / 90 * 40000000)
      { freq := BitVec.ofNat 48 (25000000 * 65536), phase := 0 }

/-- Host streams and PTM (R412, R416). -/
def Mach.hostSteps (m : Mach) : List Owed :=
  (if m.pclk % 2250000 = 0 then [Owed.ptmRequest] else []) ++
  (((List.range 16).filter fun u => (m.source u).kind == 1 && !(m.source u).noPtm &&
    decide (m.pack.ptmLast + 22500000 ≤ m.pclk)).map fun u => Owed.ptmTimeout (Fin.ofNat 16 u)) ++
  ((List.range 16).flatMap fun u => (List.range (m.hostReady u)).map fun i =>
    Owed.hostRecordTick (Fin.ofNat 16 u) (Config.hostLoop u ((m.source u).ticks + i)))

/-- Four expected periods of a region's source have passed without a tick (R62). -/
def Mach.tickless (m : Mach) (r : Nat) : Bool :=
  let u := m.source (m.region r).src
  (m.region r).state == 2 && decide (0 < u.freq.toNat ∧ 4 * 65536 * 2250000000 ≤ (m.pclk - u.lastAt) * u.freq.toNat)

/-- The holdover limit of a region has passed (R62). -/
def Mach.overHeld (m : Mach) (r : Nat) : Bool :=
  let g := m.region r
  g.state == 3 && !g.wantPark && decide (r ≠ 0 ∧ g.holdt * 2250 ≤ m.pclk - g.holdFrom)

def Mach.sourceSteps (m : Mach) : List Owed :=
  (((List.range 16).filter fun r => m.tickless r).map fun r => Owed.tickLoss (Fin.ofNat 16 r)) ++
  (((List.range 16).filter fun r => m.overHeld r).map fun r => Owed.holdtExpiry (Fin.ofNat 16 r))

def Mach.recordsDue (m : Mach) : Bool := (List.range 16).any m.recordsDone

/-- The pair of cluster k takes an event now (R382). -/
def Mach.takesEvent (m : Mach) (k : Nat) : Bool :=
  let p := m.pair k
  !p.dead && !p.handler && (!(p.frzs.isEmpty && p.evs.isEmpty) || m.recordsDue) &&
    ((m.ctx (384 + k) 0).run == .halted || m.ready (384 + k) 0 m.pclk)

/-- The steps with which a cycle of the pairs opens; stages go on while region 0 is frozen (R280). -/
def Mach.pairSteps (m : Mach) : List Owed :=
  (if (m.region 0).frozen then m.stageSteps else []) ++ m.dueSteps .pairs ++ m.sysrefSteps ++ m.hostSteps ++ m.sourceSteps ++ (if m.settles then [.settled] else []) ++ (if m.takes then [.command] else []) ++
  (((List.range 16).filter m.recordsDone).map fun r =>
    Owed.freezeRecordsComplete (Fin.ofNat 16 r)) ++
  (((List.range 48).filter fun k => m.takesEvent k).map fun k => Owed.eventTake (Fin.ofNat 48 k))

/-! ### clock edges -/

/-- The clock of a domain runs. -/
def Mach.ticks (m : Mach) (d : Domain) : Bool :=
  match d with
  | .pairs => true
  | .region r => (m.region r.val).runs

/-- One edge of every region's clock, in order (log 4). -/
def regionEdges : List Domain := (List.range 16).map fun r => .region (Fin.ofNat 16 r)

/-- The edge to come, and those after it: those of clocks that stand still are passed over. Where nothing is planned the pairs' comes, and then
one of every region whose clock runs by then (R392; log 4). -/
def State.edge (s : State) : Domain × List Domain :=
  match s.plan.dropWhile fun d => !s.next.ticks d with
  | d :: rest => (d, rest)
  | [] => (.pairs, regionEdges)

/-- The steps with which a cycle opens. -/
def Mach.opening (m : Mach) (d : Domain) : List Owed :=
  match d with
  | .region r => m.regionSteps r
  | .pairs => m.pairSteps

/-- What the opening takes from what waits; the sideband firmware plane flips where its swap is pending (R430). -/
def Mach.opened (m : Mach) (d : Domain) : Mach :=
  let m := { m with owed := m.owed.filter fun q => !m.dueNow d q }
  match d with
  | .region r => if r = 0 then
      let a := (m.region 0).age
      m.modPack fun p => { p with transit := p.transit.filter fun t => !(t.legs.isEmpty && decide (t.at_ ≤ a)) }
    else m
  | .pairs => m.sideband

/-- The same machine everywhere, between slots. -/
def State.sync (s : State) : State := { s with arch := s.next, view := s.next }

/-- A cycle of a domain begins, with these to come after it. -/
def State.startAt (s : State) (d : Domain) (rest : List Domain) : State :=
  State.sync { s with
    plan := rest, todo := s.next.opening d, next := s.next.opened d, turn := { (default : Turn) with dom := d, begun := true } }

/-- A cycle of the next domain begins. -/
def State.startCycle (s : State) : State := s.startAt s.edge.1 s.edge.2

/-- Its slots open: the cores that issue, and the matrix units that begin a microword. -/
def State.openCycle (s : State) : State :=
  let d := s.turn.dom
  let s := (match d with
    | .region r => if s.next.flushDue r.val then s.undoable.mod fun m => m.flushAll r.val else s
    | .pairs => s).sync
  let s := s.modTurn fun t => { t with open_ := true, cores := s.next.issuers d, micro := s.next.sequencing d }
  match s.turn.cores with
  | n :: _ => s.begin n
  | [] => s

/-- A slot of a memory controller's wheel that serves its write-backs: activity 58 owns it, or no work uses it (R293, R442). -/
def Mach.scrubSlot (m : Mach) (t w : Nat) : Bool := m.slotOwner w t == BitVec.ofNat 8 (128 + 58) || !(rd m.pack.wheels w).used.contains (t / 8)

/-- The controllers write back in the slots that activity 58 would own by the SYSREF count (R293; log 177). -/
def Mach.scrubOwn (m : Mach) : Mach := m.scrubCycle m.pclk fun w => m.slotOwner w m.pclk == BitVec.ofNat 8 (128 + 58)

/-- A cycle of region 0 in the fabric, for the stages and for the write-backs of device memory, after its end at age a and count t; in one in
which the region skips, the write-backs keep to the SYSREF count (R293). -/
def Mach.netCycle (m : Mach) (a t : Nat) (skips : Bool) : Mach :=
  let m := ((((m.sendOffs.journey a).stagesCycle t false).ringsCycle t).hostCycle t).loaderCycle t
  if 0 < (m.region 0).hold then m else if skips then m.scrubOwn else m.scrubCycle t (m.scrubSlot t)

/-- While region 0 is frozen or holds for a slip, the write-backs keep to the SYSREF count (R293). -/
def Mach.scrubStill (m : Mach) : Mach := if (m.region 0).runs && (m.region 0).hold == 0 then m else m.scrubOwn

/-! ### what comes from outside -/

/-- The row is an event: no slot word and no microword encodes it. -/
def isEvent (i : Instr) : Bool := decide (228 ≤ i.ctorIdx)

/-- Fragments from another package are held while region 0 stands still (R351). A HOSTPTM source ticks with its records and a MEDIA source
with its packets alone (R38). -/
def Mach.holdsBack (m : Mach) (i : Instr) : Bool :=
  match i with
  | .fragmentArrival _ _ => !(m.region 0).runs
  | .sourceTick u _ _ => (m.source u.val).kind == 1 || (m.source u.val).kind == 2
  | _ => false

/-- The first event of the agenda that is due. -/
def State.outside (s : State) : Option (Due × Instr) := s.agenda.find? fun q => s.next.reached q.1 && !s.next.holdsBack q.2

end Sys2Proof.Machine
end

