-- ==== Sys2Proof/Machine/Ahead.lean ====
section
/-! DEFINITION. A cycle run step by step up to its end, its end, and the cycle of a region run ahead of its time for what its control pair
reads in it (R30, R278, R330, R448; log 103). -/

namespace Sys2Proof.Machine

/-! ### the steps of a cycle -/

/-- A step's state changed, where it goes on. -/
def thenNext (o : Out) (f : State → State) : Out :=
  match o with
  | .next t => .next (f t)
  | .fault e => .fault e
  | .refused e => .refused e

/-- The next slot of the bundle under assembly: fetched, decoded, executed (R82 to R90). -/
def stepSlot (s : State) : Out :=
  let s := s.fetchSlot
  match s.decodeHere with
  | .error e => .next (s.modTurn fun t => t.note (10 + t.pos) e).advance
  | .ok i => if s.turn.fault.isSome then .next s.advance else thenNext (exec i s) State.advance

/-- The next microword of the cycle (R216, R218). -/
def stepMicro (s : State) (n : Nat) : Out :=
  match s.beginMicro n with
  | (t, none) => .next t
  | (t, some i) => exec i t

/-- A step of the cycle in progress: a step owed at once, else its opening, else its next slot or microword. None: no cycle is in progress, or
it has only to end. -/
def State.cycleStep (s : State) : Option Out :=
  match s.todo with
  | o :: rest => some (thenNext (runOwed o { s with todo := rest }) State.sync)
  | [] =>
    if s.turn.open_ then
      match s.turn.cores, s.turn.micro with
      | _ :: _, _ => some (stepSlot s)
      | [], n :: _ => some (stepMicro s n)
      | [], [] => none
    else if s.turn.begun then some (.next s.openCycle)
    else none

/-! ### a region's cycle ahead of its time -/

/-- The cycle in progress run up to its end, within `fuel` steps. -/
def State.toEnd (s : State) (fuel : Nat) : State :=
  match fuel with
  | 0 => s
  | k + 1 =>
    match s.cycleStep with
    | some (.next t) => t.toEnd k
    | _ => s

/-- The machine that region r's cycle in progress will make, so far as accesses and posts go: with them performed and judged, or, where the
region freezes in the cycle, with those of its control pairs performed while its clock stands still (R448); and whether it freezes. -/
def State.foreseen (s : State) (r : Nat) : Mach × Bool :=
  let u := (s.startAt (.region (Fin.ofNat 16 r)) []).toEnd 1048576
  let ks := u.next.clustersOf r
  let (m, fs, ss) := u.next.performed u.arch r (u.next.region r).age
  let fs := u.turn.faults ++ fs
  if fs.isEmpty then (m.judgePosts ks, false)
  else ((ks.foldl (fun m k => m.pairBatch k fun q => decide (q.due ≤ m.pclk)) (u.freezeCycle r fs (u.turn.stops ++ ss) m).next).judgePosts ks, true)

/-- What the pair of cluster k reads in its cycle while the clock of the cluster's region runs: memory as the region's cycle in progress found
it. Where the region freezes in that cycle its clock has stood still from the cycle's start (R375), and the pair's reads come after its own
writes of its earlier cycles (R448). -/
def State.pairReads (s : State) (k : Nat) : Mach :=
  let m := s.next
  let reads (q : Pending) : Bool := decide (q.due ≤ m.pclk) && !q.acc.isWrite
  let wrote (q : Pending) : Bool := decide (q.due < m.pclk)
  let u := m.pairBatch k reads
  let mine := (m.cl k).pend.filter fun q => isControl q.core
  if mine.any reads && mine.any (fun q => wrote q && q.acc.isWrite) && (s.foreseen (m.regionOf k)).2 then
    let as_ (from_ c : Cluster) : Cluster := { c with spad := from_.spad, tags := from_.tags, banks := from_.banks, wake := from_.wake }
    ((m.modCl k (as_ ((m.pairBatch k wrote).cl k))).pairBatch k reads).modCl k (as_ (u.cl k))
  else u

/-- An access or a post of the pair takes its place in its region's cycle, and its result does not wait for the end of that (R30, R278,
R448): the result is the one that the cycle gives, run ahead of its time (log 103). -/
def State.pairAnswers (s : State) (k : Nat) : State :=
  let m := s.next
  let early (q : Pending) : Bool := isControl q.core && match q.acc.answers with
    | some land => decide (q.due + land ≤ m.pclk + 1)
    | none => false
  let soon (p : Post) : Bool := isControl p.core && p.k.isSome && decide (p.land ≤ m.pclk + 1)
  let os := ((m.cl k).pend.filter early).map Pending.ord ++ ((m.cl k).postq.filter soon).map Post.ord
  if os.isEmpty then s
  else
    let got := ((s.foreseen (m.regionOf k)).1.ctx (384 + k) 0).inflight.filter fun w => os.contains w.ord
    s.mod fun m => got.foldl (fun m w => m.modCtx (384 + k) 0 fun c => c.fly w) (m.modCl k fun c => { c with
      pend := c.pend.map fun q => if early q then { q with acc := q.acc.told (got.find? fun w => w.ord == q.ord) } else q
      postq := c.postq.map fun p => if soon p then { p with k := none } else p })

/-- What a control pair's cycle performs (R448): while the clock of its cluster's region runs, its reads, and its writes wait for the end of
the region's cycle; while that clock stands still, what is left of earlier cycles, then this one's reads, then its writes. -/
def State.pairPerformed (s : State) : State :=
  (List.range 48).foldl (fun s k =>
    let m := s.next
    if ((m.cl k).pend.all fun q => !isControl q.core) && (m.cl k).postq.isEmpty then s
    else if (m.region (m.regionOf k)).runs then
      ({ s with next := s.pairReads k } : State).pairAnswers k
    else s.mod fun m => (m.pairBatch k fun q => decide (q.due < m.pclk)).pairBatch k fun q => decide (q.due ≤ m.pclk)) s

/-! ### the end of a cycle -/

/-- The end of a cycle of the control pairs. -/
def State.endPairs (s : State) : State :=
  let m := s.pairPerformed.next
  let m := (List.range 48).foldl (fun m k => (m.landCore (384 + k) m.pclk).landPosts k m.pclk true) m
  let m := m.judgePosts ((List.range 48).filter fun k => !(m.region (m.regionOf k)).runs)
  let m := (List.range 48).foldl (fun m k => m.releaseControl (384 + k) m.pclk) m
  { s with next := { m with pclk := m.pclk + 1 }, todo := m.postSteps .pairs }

/-- The end of the cycle in progress. -/
def State.endCycle (s : State) : State :=
  let t := match s.turn.dom with
    | .region r => s.endRegion r.val
    | .pairs => s.endPairs
  { t with arch := t.next, view := t.next, turn := { (default : Turn) with dom := s.turn.dom } }

/-- The cycle in progress ends. -/
def State.finish (s : State) : State :=
  let g := s.next.region 0
  let t := s.endCycle
  match s.turn.dom with
  | .region r => if r = 0 ∧ g.age < (t.next.region 0).age then (t.mod fun m => m.netCycle g.age g.count (t.todo.contains (.slipDebtSkip 0))).sync else t
  | .pairs => (t.mod fun m => (if g.frozen then m.stagesCycle g.count true else m).scrubStill).sync

end Sys2Proof.Machine
end

