-- ==== Sys2Proof/Machine/Step.lean ====
section
/-! DEFINITION. One step of the part, and a word placed where it is fetched next. -/

namespace Sys2Proof.Machine

/-- The next event from outside, or the next clock edge. -/
def stepIdle (s : State) : Out :=
  match s.outside with
  | none => .next s.startCycle
  | some (d, i) =>
    let t := { s with agenda := s.agenda.erase (d, i) }
    if isEvent i then thenNext (exec i t) State.sync else .fault (.notDue "no event")

/-- One step: of the cycle in progress, its end, or what comes from outside or the next clock edge. -/
def step (s : State) : Host.Outcome State Fault Refusal :=
  match s.cycleStep with
  | some o => o
  | none => if s.turn.open_ then .next s.finish else stepIdle s

/-- The machine with a run on context 0 of core 0, the widest window, and slot words from address 0 of its active plane. -/
def Mach.placed (m : Mach) (ws : List (BitVec 32)) : Mach :=
  m.modCore 0 fun c =>
    let p := c.planeOf 0
    let p' := { p with imem := ws.zipIdx.foldl (fun im (w, i) => wr im i w) p.imem }
    let c := if c.active.getLsbD 0 then { c with plane1 := p' } else { c with plane0 := p' }
    { c with cur := some 0, ctxs := up c.ctxs 0 fun x => { x with pc := 0, vws := 120, run := .at 0, task := some default, segbuf := none } }

/-- The machine with a routine on core 0 whose next microword stands at address 0. -/
def Mach.placedMicro (m : Mach) (w : BitVec 64) : Mach :=
  m.modCore 0 fun c =>
    { c with
      plane0 := { c.plane0 with micro := wr c.plane0.micro 0 w }
      mx := { c.mx with state := 1, plane := 0, npc := 0, nextAt := 0 } }

/-- The state with an instruction where the next step fetches: a slot word as the first slot of the bundle that core 0 issues, a microword
as the one that core 0's matrix unit begins. -/
def State.withFetchWord (s : State) (nbits w : Nat) : State :=
  if nbits ≤ 32 then
    let v := BitVec.ofNat 32 w
    let ws := if fld w 27 4 = 13 then [v &&& 0x7FFFFFFF#32, 0x8B800000#32] else [v ||| 0x80000000#32]
    let m := s.next.placed ws
    { s with
      arch := m, view := m, next := m, todo := []
      turn := { (default : Turn) with begun := true, open_ := true, dom := .region 0, cores := [0], snap := some m } }
  else
    let m := s.next.placedMicro (BitVec.ofNat 64 w)
    { s with arch := m, view := m, next := m, todo := [], turn := { (default : Turn) with begun := true, open_ := true, dom := .region 0, micro := [0] } }

end Sys2Proof.Machine
end

