-- ==== Sys2Proof/Safety.lean ====
section
/-! DEFINITION. What a safe run is: every step answers a next state, and the state keeps the invariant of its memories. -/

namespace Sys2Proof.Machine

/-- A state from which n steps all answer a next state. -/
def State.safeFor (n : Nat) (s : State) : Prop :=
  match n with
  | 0 => True
  | k + 1 =>
    match step s with
    | .next t => t.safeFor k
    | .fault _ => False
    | .refused _ => False

end Sys2Proof.Machine
end

