-- ==== Sys2Proof/Certificates/Slice0/Obligations.lean ====
section
/-! DEFINITION. The statements about the model, from the numbered rules of spec/, and the words in which they are written. -/

namespace Sys2Proof.Claims

open Sys2Proof.Machine

/-! ### words of the statements -/

/-- A micro-operation of the matrix unit (R220). -/
def isMicro (i : Instr) : Bool :=
  match i with
  | .mnop _ | .mmac _ _ _ _ _ _ | .mmacs _ _ _ _ _ _ | .mmacq _ _ _ _ _ _ | .microMzero _ | .microMldv _ _ _ _
  | .microMstv _ _ _ _ | .mtrn _ _ | .maddt _ _ _ | .mloop _ _ | .mbr _ _ _ | .mpset _ _ _ | .mstep | .mend => true
  | _ => false

/-- A scalar operand that raises neither EARLY nor POISON (R119): s0, or a register with no fill outstanding and no mark. -/
def readable (s : State) (r : SReg) : Bool := r == 0 || (!s.me.filling 1 r.toNat && !(rd s.me.s r.toNat).poison)

/-- A window register that raises neither EARLY nor POISON (R161). -/
def vReadable (s : State) (c : VCode) : Bool :=
  decide (c.toNat < 120) && !s.me.filling 0 (s.me.phys c.toNat) && !(rd s.myCore.v (s.me.phys c.toNat)).poison

/-- A predicate with no fill outstanding (R161). -/
def pReadable (s : State) (p : PReg) : Bool := p == 0 || !s.me.filling 2 (s.me.physP p.toNat)

/-- A target of a taken transfer that raises BOUNDS: outside 0x0 to 0xFFFC of the plane (R137), at or beyond 4 × ULEN of the expanded
segment (R303). -/
def beyond (s : State) (t : Word) : Bool :=
  match s.me.segbuf with
  | none => decide (0xFFFC < t.toNat)
  | some b => decide (4 * b.words.length ≤ t.toNat)

/-- The slot leaves at most 96 register results of its context in flight (R380). -/
abbrev fits (t : State) : Prop := t.flying ≤ 96

/-- The slot raises a fault: its bundle holds it, with the place of the slot, unless it already holds an earlier one (R88, R90). -/
def raises (i : Instr) (s : State) (e : Exc) : Prop := exec i s = .next (s.raise e)

/-- A range that the bundle arms has a copy to wait for: the bundle holds one, or the context has one outstanding (R256). -/
def copiesToArm (s : State) : Prop := s.copyInBundle = true ∨ ∃ c ∈ s.myCore.copies, c.ctx = s.x ∧ c.kind.isCopy = true

/-- Between cycles there is one machine (log 1). -/
def settled (s : State) : Prop := s.turn.open_ = false → s.arch = s.next ∧ s.view = s.next

/-- An access of a context, not yet performed, that it issued before age i. -/
def issuedBefore (m : Mach) (n x i : Nat) (p : Pending) : Prop :=
  p ∈ (m.cl (clusOf n)).pend ∧ p.core = n ∧ p.ctx = x ∧ p.ord < 8 * i

/-- The general registers, the predicates and the formats of every context, and every vector register. -/
def sameRegisters (m m' : Mach) : Prop :=
  ∀ n x r : Nat, (m'.ctx n x).sval r = (m.ctx n x).sval r ∧ (m'.ctx n x).kval r = (m.ctx n x).kval r ∧
    (m'.ctx n x).pphys r = (m.ctx n x).pphys r ∧ rd (m'.core n).v r = rd (m.core n).v r ∧ (m'.ctx n x).fmt = (m.ctx n x).fmt ∧
    (m'.ctx n x).masksel = (m.ctx n x).masksel ∧ (m'.ctx n x).slim = (m.ctx n x).slim

/-- Every byte of every memory: scratchpads, tile stores, device memory, the CXL tier, the host's. -/
def sameMemory (m m' : Mach) : Prop :=
  ∀ k a : Nat, (m'.cl k).spad.byte a = (m.cl k).spad.byte a ∧ (m'.core k).tile.byte a = (m.core k).tile.byte a ∧
    m'.pack.dev.byte a = m.pack.dev.byte a ∧ m'.pack.cxl.byte a = m.pack.cxl.byte a ∧ m'.pack.host.byte a = m.pack.host.byte a

/-- The control register number of a cluster's counter of R443, by its place: CECC, UECC, TWMC, DUPMC. -/
def fleetNumber (j : Nat) : Nat := [0x170, 0x171, 0x175, 0x176].getD j 0x4000

/-- The slot's only effect on the machine is one result in flight of its context. -/
def onlyFlies (s t : State) : Prop :=
  t = s ∨ ∃ r : Result, t = { s with next := s.next.modCtx s.n s.x fun c => { c with inflight := c.inflight ++ [r] } }

/-! ### integer arithmetic (R123 to R125) -/

/-- An operand as R123 takes it, signed: 64 bits, or under .32 its low 32. -/
def sop (x : Bool) (a : Word) : Int := if x then (a.setWidth 32).toInt else a.toInt

/-- The same, unsigned. -/
def uop (x : Bool) (a : Word) : Nat := if x then a.toNat % 2 ^ 32 else a.toNat

/-- The width of the operation. -/
def opWidth (x : Bool) : Nat := if x then 32 else 64

/-- The low bits of an integer, which under .32 are sign-extended from bit 31 (R123). -/
def resI (x : Bool) (v : Int) : Word := if x then (BitVec.ofInt 32 v).signExtend 64 else BitVec.ofInt 64 v

/-- A bitwise result. -/
def resB (x : Bool) (v : Word) : Word := if x then (v.setWidth 32).signExtend 64 else v

/-- The bits of an operand that are set, by index. -/
def setBits (x : Bool) (a : Word) : List Nat := (List.range (opWidth x)).filter fun i => (uop x a).testBit i

/-- The results of R124 for two operands, by mnemonic. -/
def vAdd (x : Bool) (a b : Word) : Word := resI x (sop x a + sop x b)
def vSub (x : Bool) (a b : Word) : Word := resI x (sop x a - sop x b)
def vShl (x : Bool) (a b : Word) : Word := resI x (sop x a * 2 ^ (uop x b % opWidth x))
def vShr (x : Bool) (a b : Word) : Word := resI x ((uop x a / 2 ^ (uop x b % opWidth x) : Nat) : Int)
def vSar (x : Bool) (a b : Word) : Word := resI x (sop x a / 2 ^ (uop x b % opWidth x))
def vRotl (x : Bool) (a b : Word) : Word :=
  let k := uop x b % opWidth x
  resI x ((uop x a * 2 ^ k + uop x a / 2 ^ (opWidth x - k) : Nat) : Int)
def vMul (x : Bool) (a b : Word) : Word := resI x (sop x a * sop x b)
def vMulh (x : Bool) (a b : Word) : Word := resI x (sop x a * sop x b / 2 ^ opWidth x)
def vMulhn (x : Bool) (a b : Word) : Word := resI x ((uop x a * uop x b / 2 ^ opWidth x : Nat) : Int)
/-- R125: the quotient rounds toward zero; by zero it is all ones. -/
def vDiv (x : Bool) (a b : Word) : Word := resI x (if sop x b = 0 then -1 else (sop x a).tdiv (sop x b))
def vDivn (x : Bool) (a b : Word) : Word := resI x (if uop x b = 0 then -1 else ((uop x a / uop x b : Nat) : Int))
/-- R125: the remainder takes the sign of the dividend; by zero it is the dividend. -/
def vRem (x : Bool) (a b : Word) : Word := resI x (if sop x b = 0 then sop x a else (sop x a).tmod (sop x b))
def vRemn (x : Bool) (a b : Word) : Word := resI x (if uop x b = 0 then (uop x a : Int) else ((uop x a % uop x b : Nat) : Int))
/-- sx(a[n:0], n), with n = b[5:0]. -/
def vSext (x : Bool) (a b : Word) : Word := resI x (Int.bmod (sop x a) (2 ^ (b.toNat % 64 + 1)))
def vZext (x : Bool) (a b : Word) : Word := resI x ((uop x a % 2 ^ (b.toNat % 64 + 1) : Nat) : Int)

/-- A slot that writes one scalar: destination, registers it reads, latency, value. -/
structure Row where
  d : SReg
  reads : List SReg
  lat : Nat
  val : Word

/-- The rows of R124, R128, R129, and of lea, mfsh and mfpar (R131, R212), for the operands that a state holds. -/
def scalarRow (s : State) (i : Instr) : Option Row :=
  match i with
  | .add x d a b => some ⟨d, [a, b], 2, vAdd x (s.rs a) (s.rs b)⟩
  | .sub x d a b => some ⟨d, [a, b], 2, vSub x (s.rs a) (s.rs b)⟩
  | .and x d a b => some ⟨d, [a, b], 2, resB x (s.rs a &&& s.rs b)⟩
  | .or x d a b => some ⟨d, [a, b], 2, resB x (s.rs a ||| s.rs b)⟩
  | .xor x d a b => some ⟨d, [a, b], 2, resB x (s.rs a ^^^ s.rs b)⟩
  | .andn x d a b => some ⟨d, [a, b], 2, resB x (s.rs a &&& ~~~ s.rs b)⟩
  | .shl x d a b => some ⟨d, [a, b], 2, vShl x (s.rs a) (s.rs b)⟩
  | .shr x d a b => some ⟨d, [a, b], 2, vShr x (s.rs a) (s.rs b)⟩
  | .sar x d a b => some ⟨d, [a, b], 2, vSar x (s.rs a) (s.rs b)⟩
  | .rotl x d a b => some ⟨d, [a, b], 2, vRotl x (s.rs a) (s.rs b)⟩
  | .min x d a b => some ⟨d, [a, b], 2, resI x (min (sop x (s.rs a)) (sop x (s.rs b)))⟩
  | .max x d a b => some ⟨d, [a, b], 2, resI x (max (sop x (s.rs a)) (sop x (s.rs b)))⟩
  | .minn x d a b => some ⟨d, [a, b], 2, resI x ((min (uop x (s.rs a)) (uop x (s.rs b)) : Nat) : Int)⟩
  | .maxn x d a b => some ⟨d, [a, b], 2, resI x ((max (uop x (s.rs a)) (uop x (s.rs b)) : Nat) : Int)⟩
  | .mul x d a b => some ⟨d, [a, b], 3, vMul x (s.rs a) (s.rs b)⟩
  | .mulh x d a b => some ⟨d, [a, b], 3, vMulh x (s.rs a) (s.rs b)⟩
  | .mulhn x d a b => some ⟨d, [a, b], 3, vMulhn x (s.rs a) (s.rs b)⟩
  | .div x d a b => some ⟨d, [a, b], 18, vDiv x (s.rs a) (s.rs b)⟩
  | .divn x d a b => some ⟨d, [a, b], 18, vDivn x (s.rs a) (s.rs b)⟩
  | .rem x d a b => some ⟨d, [a, b], 18, vRem x (s.rs a) (s.rs b)⟩
  | .remn x d a b => some ⟨d, [a, b], 18, vRemn x (s.rs a) (s.rs b)⟩
  | .clz x d a => some ⟨d, [a], 2, BitVec.ofNat 64 (match (setBits x (s.rs a)).getLast? with
      | none => opWidth x
      | some i => opWidth x - 1 - i)⟩
  | .ctz x d a => some ⟨d, [a], 2, BitVec.ofNat 64 ((setBits x (s.rs a)).head?.getD (opWidth x))⟩
  | .popc x d a => some ⟨d, [a], 2, BitVec.ofNat 64 (setBits x (s.rs a)).length⟩
  | .sext x d a b => some ⟨d, [a, b], 2, vSext x (s.rs a) (s.rs b)⟩
  | .zext x d a b => some ⟨d, [a, b], 2, vZext x (s.rs a) (s.rs b)⟩
  | .mov x d a => some ⟨d, [a], 2, resB x (s.rs a)⟩
  | .csel x d a b => some ⟨d, [a, b], 2, resB x (if s.rk (s.me.masksel.extractLsb' 4 3) != s.me.masksel.getLsbD 7 then s.rs a else s.rs b)⟩
  | .addi x d i => some ⟨d, [d], 2, vAdd x (s.rs d) (s.imm i)⟩
  | .andi x d i => some ⟨d, [d], 2, resB x (s.rs d &&& s.imm i)⟩
  | .ori x d i => some ⟨d, [d], 2, resB x (s.rs d ||| s.imm i)⟩
  | .xori x d i => some ⟨d, [d], 2, resB x (s.rs d ^^^ s.imm i)⟩
  | .shli x d i => some ⟨d, [d], 2, vShl x (s.rs d) (s.imm i)⟩
  | .shri x d i => some ⟨d, [d], 2, vShr x (s.rs d) (s.imm i)⟩
  | .sari x d i => some ⟨d, [d], 2, vSar x (s.rs d) (s.imm i)⟩
  | .movi x d i => some ⟨d, [], 2, resB x (s.imm i)⟩
  | .movhi d i => some ⟨d, [d], 2, BitVec.ofNat 64 ((s.imm i).toNat % 2 ^ 32 * 2 ^ 32 + (s.rs d).toNat % 2 ^ 32)⟩
  | .muli x d i => some ⟨d, [d], 3, vMul x (s.rs d) (s.imm i)⟩
  | .addpc d i => some ⟨d, [], 2, BitVec.ofNat 64 s.turn.addr + s.imm i⟩
  | .lea d b o => some ⟨d, [b], 2, s.rs b + BitVec.ofInt 64 o.toInt⟩
  | .mfsh d t => some ⟨d, [], 2, rd s.myCore.shapes t.toNat⟩
  | .mfpar d m => some ⟨d, [], 2, BitVec.ofNat 64 (rd s.myCore.m m.toNat).toNat⟩
  | _ => none

/-- Any bits set of a predicate's 192, by index. -/
def predBits (p : Pred) : List Nat := (List.range 192).filter fun i => p.getLsbD i

/-- The condition of a compare (R126) on integers. -/
def condHolds (c : BitVec 3) (a b : Word) : Bool :=
  match c.toNat with
  | 0 => decide (a.toNat = b.toNat)
  | 1 => decide (a.toNat ≠ b.toNat)
  | 2 => decide (a.toInt < b.toInt)
  | 3 => decide (b.toInt ≤ a.toInt)
  | 4 => decide (a.toNat < b.toNat)
  | 5 => decide (b.toNat ≤ a.toNat)
  | _ => (List.range 64).any fun i => a.getLsbD i && b.getLsbD i

/-- The operation of a klog (R127) by its truth table: bit 2a + b. -/
def klogTable (op : BitVec 3) : Nat :=
  match op.toNat with
  | 0 => 0x8
  | 1 => 0xE
  | 2 => 0x6
  | 3 => 0x4
  | 4 => 0x7
  | 5 => 0x1
  | _ => 0x9

/-- A slot that writes one flag: destination, scalars and predicates it reads, value (R126, R127, R203, R267). -/
structure FlagRow where
  k : KReg
  reads : List SReg
  preds : List PReg
  val : Bool

def flagRow (s : State) (i : Instr) : Option FlagRow :=
  match i with
  | .kcmp c k a b => some ⟨k, [a, b], [], condHolds c (s.rs a) (s.rs b)⟩
  | .kcmpImm c k a i => some ⟨k, [a], [], condHolds c (s.rs a) (BitVec.ofInt 64 i.toInt)⟩
  | .klog o k a b => some ⟨k, [], [], (klogTable o).testBit (2 * bnat (s.rk a) + bnat (s.rk b))⟩
  | .ptest k a m => some ⟨k, [], [a], match m.toNat with
      | 0 => decide (predBits (s.rp a) ≠ [])
      | 1 => decide ((predBits (s.rp a)).length = 192)
      | _ => decide (predBits (s.rp a) = [])⟩
  | .tokchk c k a => some ⟨k, [], [], match c.toNat with
      | 0 => !(decide (a.toNat < s.me.vws) && s.me.filling 0 (s.me.phys a.toNat))
      | 1 => !s.me.filling 1 (a.toNat % 32)
      | 2 => !s.me.filling 2 (s.me.physP (a.toNat % 16))
      | _ => decide (s.me.toks = [])⟩
  | _ => none

/-- A slot that writes one predicate: destination, scalars and predicates it reads, bit i (R203). -/
structure PredRow where
  d : PReg
  reads : List SReg
  preds : List PReg
  bit : Nat → Bool

def predRow (s : State) (i : Instr) : Option PredRow :=
  match i with
  | .pand d a b => some ⟨d, [], [a, b], fun j => (s.rp a).getLsbD j && (s.rp b).getLsbD j⟩
  | .por d a b => some ⟨d, [], [a, b], fun j => (s.rp a).getLsbD j || (s.rp b).getLsbD j⟩
  | .pxor d a b => some ⟨d, [], [a, b], fun j => (s.rp a).getLsbD j != (s.rp b).getLsbD j⟩
  | .pandn d a b => some ⟨d, [], [a, b], fun j => (s.rp a).getLsbD j && !(s.rp b).getLsbD j⟩
  | .pnot d a => some ⟨d, [], [a], fun j => !(s.rp a).getLsbD j⟩
  | .pmov d a => some ⟨d, [], [a], fun j => (s.rp a).getLsbD j⟩
  | .pset d a => some ⟨d, [a], [], fun j => decide (j < (s.rs a).toNat)⟩
  | .pmask d a => some ⟨d, [a], [], fun j => (s.rs a).getLsbD (j % 64)⟩
  | _ => none

/-- The cycle of a sample of the issuing core's region, PHASE added (R45, R67). -/
def paceCycle (s : State) (j : Nat) : Nat :=
  j * (s.view.region s.myRegion).cadl / (s.view.region s.myRegion).cadd + (s.view.region s.myRegion).phase

/-- The sample of the pace point (R67): the one after PP, or with PP unset the least whose cycle lies after the issue cycle. -/
def pacePoint (s : State) (n : Nat) : Prop :=
  match s.me.pp with
  | none => s.cyc < paceCycle s n ∧ ∀ j : Nat, j < n → paceCycle s j ≤ s.cyc
  | some p => n = p + 1

/-! ### scalar memory (R130 to R136, R265) -/

/-- The address that an M-format slot accesses (R84, R130): the base under post-increment, else the base and the offset in units of the
size. -/
def address (s : State) (x : Bool) (b : SReg) (o : BitVec 7) (size : Nat) : Word :=
  if x then s.rs b else s.rs b + BitVec.ofInt 64 (o.toInt * size)

/-- The base as a post-increment leaves it, with latency 2 (R130). -/
def afterBump (t s : State) (x : Bool) (b : SReg) (o : BitVec 7) (size : Nat) : State :=
  if x then t.putS b (s.rs b + BitVec.ofInt 64 (o.toInt * size)) 2 else t

/-- A slot that accesses its cluster's scratchpad: registers read, address, size, alignment, whether it reads memory, and the state that it
leaves. -/
structure MemRow where
  reads : List SReg
  ea : Word
  size : Nat
  load : Bool
  after : State

def loadRow (s : State) (size : Nat) (signed x : Bool) (d b : SReg) (o : BitVec 7) : MemRow :=
  let ea := address s x b o size
  ⟨[b], ea, size, true, afterBump (s.access 2 (.load ea.toNat size signed d.toNat 4)) s x b o size⟩

def storeRow (s : State) (size : Nat) (x : Bool) (d b : SReg) (o : BitVec 7) : MemRow :=
  let ea := address s x b o size
  ⟨[b, d], ea, size, false, afterBump (s.access 2 (.store ea.toNat size (s.rs d) false false)) s x b o size⟩

def amoRow (s : State) (fn : Nat) (d b : SReg) (o : BitVec 7) : MemRow :=
  let ea := address s false b o 8
  ⟨[b, d], ea, 8, true, s.access 2 (.amo fn ea.toNat (s.rs d) 0 d.toNat 6)⟩

/-- Scalar loads, stores and AMOs (R131, R134): all perform at c+2; a load is readable from c+6, an AMO's old value from c+8. -/
def memRow (s : State) (i : Instr) : Option MemRow :=
  match i with
  | .ldb x d b o => some (loadRow s 1 true x d b o)
  | .ldbn x d b o => some (loadRow s 1 false x d b o)
  | .ldh x d b o => some (loadRow s 2 true x d b o)
  | .ldhn x d b o => some (loadRow s 2 false x d b o)
  | .ldw x d b o => some (loadRow s 4 true x d b o)
  | .ldwn x d b o => some (loadRow s 4 false x d b o)
  | .ldd x d b o => some (loadRow s 8 false x d b o)
  | .stb x d b o => some (storeRow s 1 x d b o)
  | .sth x d b o => some (storeRow s 2 x d b o)
  | .stw x d b o => some (storeRow s 4 x d b o)
  | .std x d b o => some (storeRow s 8 x d b o)
  | .amoadd d b o => some (amoRow s 11 d b o)
  | .amoswap d b o => some (amoRow s 12 d b o)
  | .amocas d b o =>
    let ea := address s false b o 8
    some ⟨[b, d ++ 0#1, d ++ 1#1], ea, 8, true, s.access 2 (.amo 13 ea.toNat (s.rs (d ++ 0#1)) (s.rs (d ++ 1#1)) (d ++ 0#1 : SReg).toNat 6)⟩
  | .amomin d b o => some (amoRow s 14 d b o)
  | .amomax d b o => some (amoRow s 15 d b o)
  | .amominn d b o => some (amoRow s 16 d b o)
  | .amomaxn d b o => some (amoRow s 17 d b o)
  | .amoand d b o => some (amoRow s 18 d b o)
  | .amoor d b o => some (amoRow s 19 d b o)
  | .amoxor d b o => some (amoRow s 20 d b o)
  | _ => none

/-- What an AMO leaves in memory (R134), by its function number. -/
def amoLeaves (fn : Nat) (old v swap : Word) : Word :=
  match fn with
  | 11 => BitVec.ofNat 64 (old.toNat + v.toNat)
  | 12 => v
  | 13 => if old = v then swap else old
  | 14 => BitVec.ofInt 64 (min old.toInt v.toInt)
  | 15 => BitVec.ofInt 64 (max old.toInt v.toInt)
  | 16 => BitVec.ofNat 64 (min old.toNat v.toNat)
  | 17 => BitVec.ofNat 64 (max old.toNat v.toNat)
  | 18 => old &&& v
  | 19 => old ||| v
  | _ => old ^^^ v

/-- The scalar that an access brings its register, clean; register 0 discards it. -/
def brings (q : Pending) (d land : Nat) (v : Word) : List Result :=
  if d = 0 then [] else [{ due := q.due + land, ord := q.ord, what := .s d v, poison := false }]

/-- A fill takes the lowest free token until its register is written at c+10 (R266). -/
def filled (s : State) (kind reg : Nat) (a : Nat → Access) : State :=
  let tok := ((List.range 16).find? fun i => !s.me.toks.any fun t => t.tok == i).getD 0
  (s.access 2 (a tok)).modMe fun c => { c with toks := c.toks ++ [{ tok := tok, due := s.age + 10, kind := kind, reg := reg }] }

/-- Spills and fills (R265): the address, the bytes from it that must lie in the scratchpad, the alignment, and the state left. -/
structure SpillRow where
  ea : Word
  size : Nat
  align : Nat
  load : Bool
  after : State

def spillRow (s : State) (i : Instr) : Option SpillRow :=
  match i with
  | .spillv d b o =>
    let ea := address s false b o 768
    let r := rd s.myCore.v (s.me.phys d.toNat)
    some ⟨ea, 768, 256, false, s.access 2 (.vstore ea.toNat r.val fullMask r.poison true)⟩
  | .fillv d b o =>
    let ea := address s false b o 768
    some ⟨ea, 768, 256, true, filled s 0 (s.me.phys d.toNat) fun tok => .fillV ea.toNat (s.me.phys d.toNat) tok 8⟩
  | .spills d b o =>
    let ea := address s false b o 8
    some ⟨ea, 8, 8, false, s.access 2 (.store ea.toNat 8 (s.rs d) (d != 0 && (rd s.me.s d.toNat).poison) true)⟩
  | .fills d b o =>
    let ea := address s false b o 8
    some ⟨ea, 8, 8, true, filled s 1 d.toNat fun tok => .fillS ea.toNat d.toNat tok 8⟩
  | .spillp d b o =>
    let ea := address s false b o 32
    some ⟨ea, 32, 32, false, s.access 2 (.spillP ea.toNat (s.rp d))⟩
  | .fillp d b o =>
    let ea := address s false b o 32
    some ⟨ea, 32, 32, true, filled s 2 (s.me.physP d.toNat) fun tok => .fillP ea.toNat (s.me.physP d.toNat) tok 8⟩
  | _ => none

/-- What the transfer reads may be read: the base, and of a spill's data register that no fill is outstanding to it; a poisoned one is
moved, not read (R119, R265). -/
def spillReads (s : State) (i : Instr) : Bool :=
  match i with
  | .spillv d b _ => readable s b && decide (d.toNat < 120) && !s.me.filling 0 (s.me.phys d.toNat)
  | .spills d b _ => readable s b && (d == 0 || !s.me.filling 1 d.toNat)
  | .spillp d b _ => readable s b && pReadable s d
  | .fillv _ b _ | .fills _ b _ | .fillp _ b _ => readable s b
  | _ => false

/-! ### vectors (R161 to R204, R275) -/

/-- A vector slot: whether M guards it (R77), the fields it reads with their places (0 D, 1 A, 2 B), companions, predicates and scalars it
reads besides, what it finds in them, where its result goes, and its latency. -/
structure VRow where
  guarded : Bool
  reads : List (Nat × VCode)
  comps : List VCode
  preds : List PReg
  scal : List SReg
  env : VEnv
  dst : Option VCode
  others : List VDest
  lat : Nat

def vRow1 (s : State) (m : Bool) (d a : VCode) (lat : Nat) : VRow :=
  ⟨m, [(1, a)], [], [], [], s.env m 0 0, some d, [], lat⟩

def vRow2 (s : State) (m : Bool) (d a b : VCode) (lat : Nat) : VRow :=
  ⟨m, [(1, a), (2, b)], [], [], [], s.env m 0 0, some d, [], lat⟩

def vRow3 (s : State) (m : Bool) (d a b : VCode) (lat : Nat) : VRow :=
  ⟨m, [(0, d), (1, a), (2, b)], [], [], [], s.env m 0 0, some d, [], lat⟩

/-- The rows of R166, R169, R171, R173 to R184 and R275. -/
def vecRow (s : State) (i : Instr) : Option VRow :=
  match i with
  | .vadd m d a b | .vsub m d a b | .vmin m d a b | .vmax m d a b | .vand m d a b | .vor m d a b | .vxor m d a b | .vshl m d a b
  | .vshr m d a b | .vsar m d a b | .vsatadd m d a b | .vsatsub m d a b | .vaddw m d a b => some (vRow2 s m d a b 4)
  | .vmul m d a b | .vmulh m d a b => some (vRow2 s m d a b 6)
  | .vfma m d a b | .vfms m d a b | .vmacw m d a b => some (vRow3 s m d a b 6)
  | .vclamp m d a b => some (vRow3 s m d a b 4)
  | .vabs m d a | .vneg m d a | .vmov m d a | .vround m d a | .vaddi m d a _ => some (vRow1 s m d a 4)
  | .vmuli m d a _ => some (vRow1 s m d a 6)
  | .vrecip m d a | .vrsqrt m d a | .vexp2 m d a | .vlog2 m d a => some (vRow1 s m d a 14)
  | .vsel m d a b => some { vRow2 s m d a b 4 with preds := [s.me.masksel.extractLsb' 0 4], env := s.env false 0 0 }
  | .vbc m d a => some ⟨m, [], [], [], [a], s.env m (s.rs a) 0, some d, [], 4⟩
  | .vcmp _ p a b => some ⟨false, [(1, a), (2, b)], [], [], [], s.env false 0 0, none, [.p (s.me.physP p.toNat)], 4⟩
  | .vcvt m d a _ =>
    let reads := if fmtV s.me.fmt ≤ 8 ∧ fmtW s.me.fmt ≤ 8 ∧ fmtWidth (fmtW s.me.fmt) < fmtWidth (fmtV s.me.fmt)
      then [(0, d), (1, a)] else [(1, a)]
    some ⟨m, reads, [], [], [], s.env m 0 0, some d, [], 5⟩
  | .vq8 m d a _ =>
    some ⟨m, [(0, d), (1, a)], [d + 1], [], [], { s.env m 0 0 with cd := (rd s.myCore.v (s.me.phys (d.toNat + 1))).val }, some d,
      [.v (s.me.phys (d.toNat + 1))], 12⟩
  | .vdq8 m d a _ =>
    some ⟨m, [(1, a)], if fmtFsc s.me.fmt then [a + 1] else [], [], [],
      { s.env m 0 0 with c := if fmtFsc s.me.fmt then (rd s.myCore.v (s.me.phys (a.toNat + 1))).val else 0 }, some d, [], 6⟩
  | .vredsum m d a b => some (vRow2 s m d a b 13)
  | .vredmax m d a b | .vredmin m d a b | .vscan m d a b | .vperm m d a b | .vshuf m d a b => some (vRow2 s m d a b 11)
  | .vpackh m d a b => some (vRow2 s m d a b 5)
  | .vunpk m d a _ => some (vRow1 s m d a 5)
  | .vbsum m d a | .vbmax m d a => some (vRow1 s m d a 11)
  | .vrot m d a b => some ⟨m, [(1, a)], [], [], [b], s.env m 0 (s.rs b), some d, [], 11⟩
  | .vrand m d a b => some ⟨m, [(2, b)], [], [], [a], s.env m (s.rs a) 0, some d, [], 6⟩
  | .vext m d a b => some ⟨m, [(1, a)], [], [], [b], s.env false 0 (s.rs b), none, [.s d.toNat], 11⟩
  | .vins m d a b => some ⟨m, [(0, d)], [], [], [a, b], s.env m (s.rs a) (s.rs b), some d, [], 11⟩
  | .red m d a b =>
    some ⟨m, [(0, d), (1, a), (2, b)], [a + 1, d + 1], [], [],
      { s.env m 0 0 with c := (rd s.myCore.v (s.me.phys (a.toNat + 1))).val, cd := (rd s.myCore.v (s.me.phys (d.toNat + 1))).val },
      some d, [.v (s.me.phys (d.toNat + 1))], 18⟩
  | _ => none

/-- The predicates that a slot reads: its own, and under M the merge predicate, but where M = 1 only guards (R77, R164). -/
def VRow.allPreds (r : VRow) (s : State) (i : Instr) : List PReg :=
  match i with
  | .vext _ _ _ _ => r.preds
  | _ => if r.guarded then s.me.masksel.extractLsb' 0 4 :: r.preds else r.preds

/-- What may be read: no EARLY, no POISON (R119, R161); bobbin codes are no registers. -/
def VRow.ready (r : VRow) (s : State) (i : Instr) : Prop :=
  (∀ q ∈ r.scal, readable s q = true) ∧ (∀ c ∈ r.reads.map Prod.snd ++ r.comps, c.toNat < 120 → vReadable s c = true) ∧
    ∀ p ∈ r.allPreds s i, pReadable s p = true

/-- The formats that an instruction accepts (R164, R172 to R184): fl codes 0 to 2, in codes 5 to 8. -/
def accepts (f : BitVec 22) (i : Instr) : Bool :=
  let v := fmtV f
  let w := fmtW f
  match i with
  | .vadd _ _ _ _ | .vsub _ _ _ _ | .vmul _ _ _ _ | .vfma _ _ _ _ | .vfms _ _ _ _ | .vmin _ _ _ _ | .vmax _ _ _ _ | .vclamp _ _ _ _
  | .vabs _ _ _ | .vneg _ _ _ | .vaddi _ _ _ _ | .vmuli _ _ _ _ | .vcmp _ _ _ _ | .vredsum _ _ _ _ | .vredmax _ _ _ _
  | .vredmin _ _ _ _ | .vscan _ _ _ _ => decide (v ≤ 2 ∨ 5 ≤ v ∧ v ≤ 8)
  | .vshl _ _ _ _ | .vshr _ _ _ _ | .vsar _ _ _ _ | .vmulh _ _ _ _ | .vsatadd _ _ _ _ | .vsatsub _ _ _ _ => decide (5 ≤ v ∧ v ≤ 8)
  | .vrecip _ _ _ | .vrsqrt _ _ _ | .vexp2 _ _ _ | .vlog2 _ _ _ | .vround _ _ _ => decide (v ≤ 2)
  | .vbc _ _ _ | .vrot _ _ _ _ | .vext _ _ _ _ | .vins _ _ _ _ | .vbsum _ _ _ | .vbmax _ _ _ => decide (v ≤ 8)
  | .vaddw _ _ _ _ | .vmacw _ _ _ _ => (v, w) ∈ [(5, 6), (8, 6), (6, 7), (1, 0), (2, 0)]
  | .vcvt _ _ _ p =>
    decide (v ≤ 8 ∧ w ≤ 8 ∧ p.toNat < max (fmtWidth v / fmtWidth w) (fmtWidth w / fmtWidth v))
  | .vpackh _ _ _ _ => decide (v ≤ 8 ∧ w ≤ 8 ∧ fmtWidth v = 2 * fmtWidth w)
  | .vunpk _ _ _ p => decide (v = 9 ∧ w = 1 ∧ p.toNat ≤ 2)
  | .vq8 _ _ _ _ | .red _ _ _ _ => decide (v = 0 ∧ (w = 3 ∨ w = 4))
  | .vdq8 _ _ _ _ => decide ((v = 3 ∨ v = 4) ∧ w = 0)
  | _ => true

/-- The destinations of a slot: its D field's, if it has one (R72, R76). -/
def VRow.dests (r : VRow) (s : State) : Except Exc (List VDest) :=
  match r.dst with
  | some c => s.writeV c
  | none => .ok []

/-- The state that a vector slot leaves: its pops, its push, and its result on the way, P cycles later than its latency (R165, R194). -/
def VRow.after (r : VRow) (s : State) (i : Instr) (e : VEnv) (mems : List (Nat × List Nat)) (p : Nat) (ds : List VDest) : State :=
  let t := s.popAll (r.reads.map Prod.snd)
  let t := match r.dst with
    | some c => t.pushB c
    | none => t
  t.produce i e mems (r.lat + p) (ds ++ r.others)

/-- An element of an integer format as a number: two's complement, code 8 unsigned (R96). -/
def eltInt (c : Nat) (v : VWord) (k : Nat) : Int := if c = 8 then elt 1 v k else Int.bmod (elt (fmtWidth c) v k) (2 ^ (8 * fmtWidth c))

/-- Within the range of an integer format. -/
def clampTo (c : Nat) (x : Int) : Int :=
  if c = 8 then max 0 (min 255 x) else max (-(2 ^ (8 * fmtWidth c - 1))) (min (2 ^ (8 * fmtWidth c - 1) - 1) x)

/-- Element k of a lane-wise instruction's result in an integer format, before it is cut to its width (R166, R168, R169). -/
def intElt (c : Nat) (i : Instr) (e : VEnv) (k : Nat) : Option Int :=
  let a := eltInt c e.a k
  let b := eltInt c e.b k
  let d := eltInt c e.d k
  let ua : Int := elt (fmtWidth c) e.a k
  let n := elt (fmtWidth c) e.b k % (8 * fmtWidth c)
  match i with
  | .vadd _ _ _ _ => some (a + b)
  | .vsub _ _ _ _ => some (a - b)
  | .vmul _ _ _ _ => some (a * b)
  | .vfma _ _ _ _ => some (d + a * b)
  | .vfms _ _ _ _ => some (d - a * b)
  | .vmin _ _ _ _ => some (min a b)
  | .vmax _ _ _ _ => some (max a b)
  | .vclamp _ _ _ _ => some (min (max d a) b)
  | .vabs _ _ _ => some a.natAbs
  | .vneg _ _ _ => some (-a)
  | .vaddi _ _ _ i => some (a + i.toInt)
  | .vmuli _ _ _ i => some (a * i.toInt)
  | .vmulh _ _ _ _ => some (a * b / 2 ^ (8 * fmtWidth c))
  | .vsatadd _ _ _ _ => some (clampTo c (a + b))
  | .vsatsub _ _ _ _ => some (clampTo c (a - b))
  | .vshl _ _ _ _ => some (ua * 2 ^ n)
  | .vshr _ _ _ _ => some (ua / 2 ^ n)
  | .vsar _ _ _ _ => some (Int.bmod ua (2 ^ (8 * fmtWidth c)) / 2 ^ n)
  | _ => none

/-- Bit j of a bitwise result, or of a move (R166). -/
def bitOf (i : Instr) (e : VEnv) (j : Nat) : Option Bool :=
  match i with
  | .vand _ _ _ _ => some (e.a.getLsbD j && e.b.getLsbD j)
  | .vor _ _ _ _ => some (e.a.getLsbD j || e.b.getLsbD j)
  | .vxor _ _ _ _ => some (e.a.getLsbD j != e.b.getLsbD j)
  | .vmov _ _ _ => some (e.a.getLsbD j)
  | .vsel _ _ _ _ => some (if e.sel.getLsbD (j / 32) then e.a.getLsbD j else e.b.getLsbD j)
  | _ => none

/-- The condition of vcmp on integers (R171). -/
def vecCond (c : BitVec 3) (a b : Int) : Bool :=
  match c.toNat with
  | 0 => decide (a = b)
  | 1 => decide (a ≠ b)
  | 2 => decide (a < b)
  | 3 => decide (b ≤ a)
  | 4 => decide (a ≤ b)
  | 5 => decide (b < a)
  | _ => false

/-- The subcause of OPER where a format is not accepted: 11 if only the part is out of range (R174, R176). -/
def partOrFormat (f : BitVec 22) (i : Instr) : Nat :=
  match i with
  | .vcvt _ _ _ _ => if fmtV f ≤ 8 ∧ fmtW f ≤ 8 then 11 else 10
  | .vunpk _ _ _ _ => if fmtV f = 9 ∧ fmtW f = 1 then 11 else 10
  | _ => 10

/-- An element of a float format as a value (R97). -/
def fltElt (c : Nat) (v : VWord) (k : Nat) : FVal := decF (ffmt c) (elt (fmtWidth c) v k)

/-- Element k of a lane-wise result in FP32, BF16 or FP16, before it is rounded once to the format (R166, R167, R169, R170). -/
def floatElt (c rm : Nat) (i : Instr) (e : VEnv) (k : Nat) : Option FVal :=
  let a := fltElt c e.a k
  let b := fltElt c e.b k
  let d := fltElt c e.d k
  let imm (n : Int) : FVal := decF (ffmt c) (encF (ffmt c) 0 (.fin (decide (n < 0)) n.natAbs 0))
  match i with
  | .vadd _ _ _ _ => some (sumF rm [a, b])
  | .vsub _ _ _ _ => some (sumF rm [a, b.neg])
  | .vmul _ _ _ _ => some (a.mul b)
  | .vfma _ _ _ _ => some (sumF rm [d, a.mul b])
  | .vfms _ _ _ _ => some (sumF rm [d, (a.mul b).neg])
  | .vmin _ _ _ _ => some (minF a b)
  | .vmax _ _ _ _ => some (maxF a b)
  | .vclamp _ _ _ _ => some (minF (decF (ffmt c) (encF (ffmt c) rm (maxF d a))) b)
  | .vabs _ _ _ => some a.abs
  | .vneg _ _ _ => some a.neg
  | .vaddi _ _ _ n => some (sumF rm [a, imm n.toInt])
  | .vmuli _ _ _ n => some (a.mul (imm n.toInt))
  | .vround _ _ _ => some (roundF rm a)
  | .vrecip _ _ _ => some (recipF a)
  | .vrsqrt _ _ _ => some (rsqrtF a)
  | .vexp2 _ _ _ => some (exp2F (ffmt c) rm a)
  | .vlog2 _ _ _ => some (log2F (ffmt c) rm a)
  | _ => none

/-- The condition of vcmp on floats (R171). -/
def fltCond (c : BitVec 3) (a b : FVal) : Bool :=
  let un := a.isNan || b.isNan
  match c.toNat with
  | 0 => eqF a b
  | 1 => un || !eqF a b
  | 2 => ltF a b
  | 3 => ltF b a || eqF a b
  | 4 => ltF a b || eqF a b
  | 5 => ltF b a
  | _ => un

/-- An integer's bits in a format's width. -/
def cutTo (c : Nat) (x : Int) : Nat := (x % 2 ^ (8 * fmtWidth c)).toNat

/-- Weight i of an INT4Q group, as BF16 (R101, R102). -/
def weight (g i : Nat) : Nat :=
  let q := g / 2 ^ (4 * i) % 16
  let z := g / 2 ^ 112 % 16
  encF bf16 0 ((decF bf16 (g / 2 ^ 96 % 2 ^ 16)).mul (.fin (decide (q < z)) (max q z - min q z) 0))

/-- The elements of a conversion, a scan, a block form, a widening form or a random vector: their width, and element k's code (R172 to R184). -/
def crossElt (i : Instr) (e : VEnv) : Option (Nat × (Nat → Nat)) :=
  let c := fmtV e.fmt
  let w := fmtW e.fmt
  let rm := fmtRM e.fmt
  let sat := fmtSat e.fmt
  let n := 768 / fmtWidth c
  match i with
  | .vcvt _ _ _ p =>
    if fmtWidth w < fmtWidth c then none
    else some (fmtWidth w, fun k => cvtElt c w rm sat (elt (fmtWidth c) e.a (p.toNat * (768 / fmtWidth w) + k)))
  | .vpackh _ _ _ _ => some (fmtWidth w, fun k => cvtElt c w rm sat (if k < n then elt (fmtWidth c) e.a k else elt (fmtWidth c) e.b (k - n)))
  | .vunpk _ _ _ p => some (2, fun k => weight (e.a.toNat / 2 ^ (128 * (16 * p.toNat + k / 24)) % 2 ^ 128) (k % 24))
  | .vdq8 _ _ _ p => some (4, fun l =>
      let x := fltElt c e.a (192 * p.toNat + l)
      encF fp32 0 (if fmtFsc e.fmt then x.mul (ue5m3 (elt 1 e.c (8 * p.toNat + l / 24))) else x))
  | .vscan _ _ _ _ => some (fmtWidth c, fun k =>
      if c ≤ 2 then encF (ffmt c) rm (sumF rm (fltElt c e.b 0 :: (List.range (k + 1)).map (fltElt c e.a)))
      else cutTo c (eltInt c e.b 0 + ((List.range (k + 1)).map (eltInt c e.a)).sum))
  | .vrand _ _ _ _ => some (4, fun l =>
      let h := (hash32 (BitVec.ofNat 32 (e.sa.toNat + l)) (BitVec.ofNat 32 (elt 4 e.b 0)) (BitVec.ofNat 32 (elt 4 e.b 1))
        (BitVec.ofNat 32 (elt 4 e.b 2))).toNat
      if e.sa.getLsbD 63 then (if e.sa.toNat / 2 ^ 32 % 2 ^ 24 ≤ h / 2 ^ 8 then 2 ^ 32 - 1 else 0) else h)
  | .vbsum _ _ _ => some (4, fun j =>
      if n / 24 ≤ j then 0
      else if c ≤ 4 then encF fp32 rm (sumF rm ((List.range 24).map fun i => fltElt c e.a (24 * j + i)))
      else cutTo 7 (clampTo 7 ((List.range 24).map fun i => eltInt c e.a (24 * j + i)).sum))
  | .vbmax _ _ _ => some (4, fun j =>
      if n / 24 ≤ j then 0
      else if c ≤ 4 then encF fp32 rm (amaxF ((List.range 24).map fun i => fltElt c e.a (24 * j + i)))
      else cutTo 7 (clampTo 7 (((List.range 24).map fun i => ((eltInt c e.a (24 * j + i)).natAbs : Int)).foldl max 0)))
  | .vaddw _ _ _ _ => some (fmtWidth w, fun k =>
      if c ≤ 2 then encF (ffmt w) rm (sumF rm [fltElt w e.a k, fltElt c e.b (2 * k), fltElt c e.b (2 * k + 1)])
      else cutTo w (eltInt w e.a k + eltInt c e.b (2 * k) + eltInt c e.b (2 * k + 1)))
  | .vmacw _ _ _ _ => some (fmtWidth w, fun k =>
      if c ≤ 2 then encF (ffmt w) rm (sumF rm [fltElt w e.d k, (fltElt c e.a (2 * k)).mul (fltElt c e.b (2 * k)),
        (fltElt c e.a (2 * k + 1)).mul (fltElt c e.b (2 * k + 1))])
      else cutTo w (eltInt w e.d k + eltInt c e.a (2 * k) * eltInt c e.b (2 * k) + eltInt c e.a (2 * k + 1) * eltInt c e.b (2 * k + 1)))
  | _ => none

/-- Block q of 24 values, quantised to E4M3 or E5M2 by R115: its codes and its scale code. -/
def quantised (e : VEnv) (x : Nat → FVal) (q : Nat) : List Nat × Nat :=
  quant8 (ffmt (fmtW e.fmt)) (fmtSat e.fmt) ((List.range 24).map fun i => x (24 * q + i))

/-- Lane i of red before it is quantised (R275). -/
def redLane (e : VEnv) (i : Nat) : FVal :=
  decF fp32 (encF fp32 (fmtRM e.fmt) (sumF (fmtRM e.fmt)
    [(fltElt (fmtW e.fmt) e.a i).mul (ue5m3 (elt 1 e.c (i / 24))), decF fp32 (elt 4 e.b i)]))

/-! ### messages that close, allotments -/

/-- What a message of fsend or mcast is delivered as when it closes (R348): rebuilt where k fragments and a buffer are held, else lost. -/
def closedAs (i : Incoming) : Delivered :=
  let ok := decide (i.k ≤ i.frags.length) && i.buf
  { group := i.group, seq := i.seq, len := i.len, lost := !ok, data := if ok then rebuild i.k i.len i.frags else List.replicate i.len 0, buf := i.buf }

/-- v is the lowest of `total` units from which `len` units stand free of the ranges in use (R403). -/
def lowestFit (used : List (Nat × Nat)) (total len v : Nat) : Prop :=
  let free (s : Nat) : Prop := s + len ≤ total ∧ ∀ u ∈ used, s + len ≤ u.1 ∨ u.1 + u.2 ≤ s
  free v ∧ ∀ s : Nat, s < v → ¬free s

/-- The ranges that a task of a type takes: vector registers, scratchpad, and tile store where the type names some (R403). -/
def taken (n uid e v u w : Nat) : List Allot :=
  [{ kind := 0, core := n, start := v, len := fld e 64 4, uid := uid, until_ := none },
   { kind := 1, core := n, start := u, len := fld e 80 10, uid := uid, until_ := none }] ++
    if fld e 96 9 = 0 then [] else [{ kind := 2, core := n, start := w, len := fld e 96 9, uid := uid, until_ := none }]

/-! ### the tile store (R102, R107, R108, R112 to R114, R222 to R226) -/

/-- Element e of row r of a tile as a code; one of INT4Q as the BF16 code that it expands to (R102). -/
def tileCode (t : Memory) (sh : Word) (r e : Nat) : Nat :=
  if shFmt sh = 9 then int4q (t.nat (rowAt sh r + 16 * (e / 24)) 16) (e % 24) else tileElt t sh r e

/-- The format of its codes. -/
def codeFmt (c : Nat) : Nat := if c = 9 then 1 else c

/-- A product block as R222 and R224 read it: the shapes, the numbers of its blocks of A and B, and for a sparse one the index tile. -/
structure BlockOf where
  a  : Word
  b  : Word
  c  : Word
  ja : Nat
  jb : Nat
  tm : Option Word

/-- Index i of the stored elements of a sparse block of row col of B (R224). -/
def sparseIndex (t : Memory) (k : BlockOf) (tm : Word) (col i : Nat) : Nat := fld (t.nat (rowAt tm col + 3 * k.jb) 3) (2 * i) 2

/-- The pairs of codes that row r of A and row col of B multiply. -/
def pairsOf (t : Memory) (k : BlockOf) (r col : Nat) : List (Nat × Nat) :=
  match k.tm with
  | none => (List.range 24).map fun i => (tileCode t k.a r (24 * k.ja + i), tileCode t k.b col (24 * k.jb + i))
  | some tm => (List.range 12).map fun i =>
    (tileCode t k.a r (24 * k.ja + (4 * (i / 2) + sparseIndex t k tm col i)), tileCode t k.b col (12 * k.jb + i))

/-- Under FMT.STRICT a pruned element of A is NaN or infinite: no stored element of its group has its index (R112). -/
def prunedLoose (u : Matrix) (t : Memory) (k : BlockOf) (r col : Nat) : Bool :=
  match k.tm with
  | none => false
  | some tm => fmtStrict u.fmt && (List.range 24).any fun e =>
    !((List.range 2).any fun h => sparseIndex t k tm col (2 * (e / 4) + h) == e % 4) &&
      ((decF (ffmt (codeFmt (fmtA u.fmt))) (tileCode t k.a r (24 * k.ja + e))).isNan ||
        (decF (ffmt (codeFmt (fmtA u.fmt))) (tileCode t k.a r (24 * k.ja + e))).isInf)

/-- A fine scale: the byte under FMT.FSC on path 1, else 1.0 (R107, R222). -/
def fineScale (u : Matrix) (t : Memory) (sh : Word) (r j : Nat) : FVal :=
  ue5m3 (if fmtFsc u.fmt && u.path == 1 then t.nat (scaleAt sh r + j) 1 else 0x78)

/-- g of row r as R223 forms it: the product of the coarse scales, rounded, or 1.0. -/
def coarseOf (u : Matrix) (t : Memory) (k : BlockOf) (r : Nat) : BitVec 32 :=
  if fmtCsc u.fmt && u.path != 4 then BitVec.ofNat 32 (encF fp32 (fmtRM u.fmt)
    ((decF fp32 (t.nat (scaleAt k.a r + 32) 4)).mul (decF fp32 (t.nat (scaleAt k.b 0 + 32) 4))))
  else 0x3F800000#32

/-- An element of TC after the block, from the tile store t that its first cycle reads, g, and the accumulator (R222). -/
def blockValue (u : Matrix) (t : Memory) (k : BlockOf) (g : BitVec 32) (r col acc : Nat) : Nat :=
  let ps := pairsOf t k r col
  if u.path = 4 then
    cutTo 7 (clampTo 7 (intVal 7 acc + (ps.map fun (p : Nat × Nat) => intVal (fmtA u.fmt) p.1 * intVal (fmtB u.fmt) p.2).sum))
  else
    let v := if prunedLoose u t k r col then FVal.nan
      else blockSum (fmtRM u.fmt) (ps.map fun (p : Nat × Nat) => decF (ffmt (codeFmt (fmtA u.fmt))) p.1)
        (ps.map fun (p : Nat × Nat) => decF (ffmt (codeFmt (fmtB u.fmt))) p.2) (fineScale u t k.a r k.ja) (fineScale u t k.b col k.jb)
    encF fp32 (fmtRM u.fmt) (sumF (fmtRM u.fmt) [decF fp32 acc, rndFP32 (fmtRM u.fmt) (v.mul (decF fp32 g.toNat))])

/-- An element of the sum of two tiles (R226). -/
def addedElt (u : Matrix) (c x y : Nat) : Nat :=
  if c = 0 then encF fp32 (fmtRM u.fmt) (sumF (fmtRM u.fmt) [decF fp32 x, decF fp32 y])
  else cutTo 7 (clampTo 7 (intVal 7 x + intVal 7 y))

/-- The micro-operation is a product step of those tiles with operand x of which the block is number b. -/
def isBlock (u : Matrix) (b : Nat) (k : BlockOf) : Prop :=
  ∃ (ta tb tc : BitVec 4) (mode : BitVec 2) (w : BitVec 4) (imm : BitVec 40),
    ((u.op = some (.mmac ta tb tc mode w imm) ∨ u.op = some (.mmacq ta tb tc mode w imm)) ∧ k.tm = none ∨
      u.op = some (.mmacs ta tb tc mode w imm) ∧ k.tm = some (rd u.shapes (fld u.x 24 4))) ∧
    k.a = rd u.shapes ta.toNat ∧ k.b = rd u.shapes tb.toNat ∧ k.c = rd u.shapes tc.toNat ∧ k.ja = fld u.x 8 8 + b ∧ k.jb = fld u.x 16 8 + b

/-! ### gathers and scatters (R187 to R189) -/

/-- A gather or scatter: whether M guards it, its vector operands with their places, the base, and where it goes. -/
def laneSlot (i : Instr) : Option (Bool × List (Nat × VCode) × SReg × Option VCode) :=
  match i with
  | .vldx m d a b => some (m, [(2, b)], a, some d)
  | .vstx m d a b | .vstxa m d a b => some (m, [(0, d), (2, b)], a, none)
  | _ => none

/-- A lane that acts: merged on, no hole. -/
def acts (lanes : Pred) (ix : VWord) (l : Nat) : Bool := lanes.getLsbD l && decide (lane ix l < 2 ^ 31)

/-- Its word lies in the scratchpad. -/
def within (base : Nat) (ix : VWord) (l : Nat) : Bool := decide (base + 4 * lane ix l + 3 ≤ 0x2FFFFF)

/-- The access of a gather or scatter whose operands stand in e. -/
def laneWork (i : Instr) (base : Nat) (e : VEnv) (ds : List VDest) : Access :=
  match i with
  | .vldx _ _ _ _ => .gather base e.b e ds 6
  | .vstxa _ _ _ _ => .scatterAdd base e.b e.d e.lanes e.fmt e.poison
  | _ => .scatter base e.b e.d e.lanes e.poison

/-- The little-endian number that bytes of a memory make. -/
def bytesSum (m : Memory) (a n : Nat) : Nat := ((List.range n).map fun j => (m.byte (a + j)).toNat * 256 ^ j).sum

/-- A word and an element that vstxa adds into it (R189). -/
def laneSum (fmt : BitVec 22) (old v : Nat) : Nat :=
  (if fmtV fmt = 0 then encF fp32 (fmtRM fmt) (sumF (fmtRM fmt) [decF fp32 old, decF fp32 v]) else old + v) % 2 ^ 32

end Sys2Proof.Claims

open Sys2Proof Sys2Proof.Machine Sys2Proof.Claims

/-! ### encodings -/

/-- Every well-formed slot instruction, with either value of E, and every well-formed micro-operation is what its word decodes to. -/
def Obligations.DecodeOfEncode : Prop :=
  (∀ (i : Instr) (last : Bool), i.isSlot = true → i.wf = true →
    decodeSlot (encode last i).toNat = .ok i ∧ slotEnds (encode last i).toNat = last) ∧
  ∀ i : Instr, isMicro i = true → i.wf = true → decodeMicro (encodeMicro i).toNat = some i

/-- A word that decodes is the word of what it decodes to, which is well formed: no bit of it is free, and no two instructions share
it. -/
def Obligations.EncodeOfDecode : Prop :=
  (∀ (w : Nat) (i : Instr), w < 2 ^ 32 → decodeSlot w = .ok i →
    i.isSlot = true ∧ i.wf = true ∧ (encode (slotEnds w) i).toNat = w) ∧
  ∀ (w : Nat) (i : Instr), w < 2 ^ 64 → decodeMicro w = some i → isMicro i = true ∧ i.wf = true ∧ (encodeMicro i).toNat = w

/-- Words of spec/, each of another family, decode to what they stand for: a sanity statement. -/
def Obligations.DecodedWords : Prop :=
  decodeSlot 0x8482450B = .ok (.divn false 9 10 11) ∧ decodeSlot 0x87498082 = .ok (.klog 2 3 1 2) ∧
    decodeSlot 0x8A830028 = .ok (.addpc 12 40)

/-! ### a step -/

/-- A step of a cycle whose slots are open, with nothing owed: the next slot of the first core that still issues is fetched; where the
bundle holds no fault so far, its word decodes, nothing conflicts and no field lies beyond the window, the step is exec of the decoded
instruction, and then the bundle goes on or closes. With no core left, the next microword of the cycle is executed in the same way. -/
def Obligations.StepRunsDecoded : Prop :=
  (∀ (s : State) (n : Nat) (ns : List Nat) (i : Instr), s.todo = [] → s.turn.open_ = true → s.turn.cores = n :: ns →
    s.fetchSlot.turn.fault = none → decodeSlot s.fetchSlot.turn.word.toNat = .ok i →
    conflict s.fetchSlot.turn.before i = none → windowFault s.fetchSlot.me.vws i = none →
    s.fetchSlot.turn.word = s.view.fetch s.n s.x (s.turn.addr + 4 * s.turn.pos) ∧
      step s = thenNext (exec i s.fetchSlot) State.advance) ∧
  ∀ (s : State) (n : Nat) (ns : List Nat) (i : Instr), s.todo = [] → s.turn.open_ = true → s.turn.cores = [] → s.turn.micro = n :: ns →
    (s.next.core n).mx.npc ≤ 8191 →
    decodeMicro ((s.fetchMicro n).next.microAt n (s.next.core n).mx.npc).toNat = some i →
    step s = exec i ((s.fetchMicro n).modTurn fun t => { t with micro := ns })

/-- A step that is owed is taken before anything else, and runs the row of its name; with nothing owed and no cycle begun, the first
event from outside that is due is taken and run; after either there is one machine again (log 3, 4). Each owed step that stands for a row of the
opcode table runs that row. -/
def Obligations.StepRunsEvents : Prop :=
  (∀ (s : State) (o : Owed) (os : List Owed), s.todo = o :: os → step s = thenNext (runOwed o { s with todo := os }) State.sync) ∧
  (∀ (s : State) (d : Due) (i : Instr), s.todo = [] → s.turn.open_ = false → s.turn.begun = false → s.outside = some (d, i) →
    isEvent i = true → step s = thenNext (exec i { s with agenda := s.agenda.erase (d, i) }) State.sync) ∧
  ∀ (r : RegionId) (k : ClusterId) (n n' : CoreId) (x : CtxId) (act : FreezeAct) (u : SourceId) (t : Nat) (obs : LoopObs) (q : Fin 256)
      (j : Fin 4) (e : EngineId) (ch : Fin 8) (data : VWord) (f : Fragment) (id : BitVec 12) (p : PathId) (b : Byte) (v : Word) (cfg : Bool) (g : Fin 64) (num : BitVec 14) (c : Fin 16) (s : State),
    runOwed (.freezeRecordsComplete r) s = exec (.freezeRecordsComplete r) s ∧ runOwed (.eventTake k) s = exec (.eventTake k) s ∧
    runOwed (.freezeActionEffect n x act) s = exec (.freezeActionEffect n x act) s ∧ runOwed (.slipDebtSkip r) s = exec (.slipDebtSkip r) s ∧
    runOwed (.runBudgetExpiry n x) s = exec (.runBudgetExpiry n x) s ∧ runOwed (.sourceTick u t obs) s = exec (.sourceTick u t obs) s ∧
    runOwed .ptmRequest s = exec .ptmRequest s ∧ runOwed (.hostRecordTick u obs) s = exec (.hostRecordTick u obs) s ∧
    runOwed (.ptmTimeout u) s = exec (.ptmTimeout u) s ∧ runOwed (.regionTick r) s = exec (.regionTick r) s ∧
    runOwed (.acquireComplete r) s = exec (.acquireComplete r) s ∧ runOwed (.tickLoss r) s = exec (.tickLoss r) s ∧
    runOwed (.holdtExpiry r) s = exec (.holdtExpiry r) s ∧ runOwed (.relock r) s = exec (.relock r) s ∧ runOwed (.hem r) s = exec (.hem r) s ∧
    runOwed (.patternRestart r t) s = exec (.patternRestart r t) s ∧ runOwed (.admission n) s = exec (.admission n) s ∧
    runOwed (.preloadComplete n x) s = exec (.preloadComplete n x) s ∧ runOwed (.taskAging k) s = exec (.taskAging k) s ∧
    runOwed (.completionBitTest k q) s = exec (.completionBitTest k q) s ∧ runOwed (.ringReturn k) s = exec (.ringReturn k) s ∧
    runOwed (.dupCompare k t) s = exec (.dupCompare k t) s ∧ runOwed (.twinCompare k j) s = exec (.twinCompare k j) s ∧
    runOwed (.copyComplete n e) s = exec (.copyComplete n e) s ∧ runOwed (.stageComplete k) s = exec (.stageComplete k) s ∧
    runOwed (.sendArrival n ch n' data) s = exec (.sendArrival n ch n' data) s ∧
    runOwed (.bankWakeComplete k ch) s = exec (.bankWakeComplete k ch) s ∧ runOwed (.fragmentArrival k f) s = exec (.fragmentArrival k f) s ∧
    runOwed (.messageClose k) s = exec (.messageClose k) s ∧ runOwed (.groupDrainEnd k id) s = exec (.groupDrainEnd k id) s ∧
    runOwed (.fragmentExpiry p) s = exec (.fragmentExpiry p) s ∧ runOwed (.jobEnd b) s = exec (.jobEnd b) s ∧
    runOwed (.killWrite k v) s = exec (.killWrite k v) s ∧ runOwed (.dhold k b) s = exec (.dhold k b) s ∧
    runOwed (.dholdKill k b) s = exec (.dholdKill k b) s ∧ runOwed (.dholdKillJob k b) s = exec (.dholdKillJob k b) s ∧
    runOwed (.dretry k) s = exec (.dretry k) s ∧ runOwed (.dringConfigWrite k cfg v) s = exec (.dringConfigWrite k cfg v) s ∧
    runOwed (.savebWrite k v) s = exec (.savebWrite k v) s ∧ runOwed (.gcfgWrite g v) s = exec (.gcfgWrite g v) s ∧
    runOwed (.gstepWrite g v) s = exec (.gstepWrite g v) s ∧ runOwed (.crcfgWrite u v) s = exec (.crcfgWrite u v) s ∧
    runOwed (.holdtWrite r v) s = exec (.holdtWrite r v) s ∧ runOwed (.rsync r) s = exec (.rsync r) s ∧
    runOwed (.clrpend k ch) s = exec (.clrpend k ch) s ∧ runOwed (.clrlate k) s = exec (.clrlate k) s ∧
    runOwed (.clrloss k) s = exec (.clrloss k) s ∧ runOwed (.clrdig k) s = exec (.clrdig k) s ∧ runOwed (.clrnov k) s = exec (.clrnov k) s ∧
    runOwed (.clrcrc k) s = exec (.clrcrc k) s ∧ runOwed (.counterClear k num) s = exec (.counterClear k num) s ∧
    runOwed (.spare k v) s = exec (.spare k v) s ∧ runOwed (.lgrt v) s = exec (.lgrt v) s ∧
    runOwed (.laneRetrainComplete p) s = exec (.laneRetrainComplete p) s ∧ runOwed (.ppr v) s = exec (.ppr v) s ∧
    runOwed (.pprCopyComplete c) s = exec (.pprCopyComplete c) s ∧ runOwed .ldgo s = exec .ldgo s ∧
    runOwed .loadListComplete s = exec .loadListComplete s ∧ runOwed (.registerWrite k num v) s = exec (.registerWrite k num v) s ∧
    runOwed .sanitiseComplete s = exec .sanitiseComplete s ∧ runOwed (.segmentExpansionComplete n x) s = exec (.segmentExpansionComplete n x) s

/-- The state after reset is settled (log 1), and holds what the spec gives for reset: region 0 in RUN with every cluster, L 90 and D 1
(R43, R46); sources, gussets and pairs at their reset values (R41, R54, R381); no context holds a task. -/
def Obligations.ResetState : Prop :=
  settled State.reset ∧ (State.reset.next.region 0).state = 2 ∧ (State.reset.next.region 0).mask = BitVec.allOnes 48 ∧
    (State.reset.next.region 0).cadl = 90 ∧ (State.reset.next.region 0).cadd = 1 ∧
    (∀ r : Fin 16, (State.reset.next.region r.val).holdt = 1000000 ∧
      (r.val ≠ 0 → (State.reset.next.region r.val).state = 0 ∧ (State.reset.next.region r.val).mask = 0#48)) ∧
    (∀ u : Fin 16, (State.reset.next.source u.val).sbytes = 768 ∧ (State.reset.next.source u.val).lbw = 1) ∧
    (∀ g : Fin 64, (State.reset.next.gusset g.val).start = 8 ∧ (State.reset.next.gusset g.val).depth = 16 ∧
      (State.reset.next.gusset g.val).en = false) ∧
    (∀ k : Fin 48, (State.reset.next.pair k.val).save = 23) ∧
    ∀ n x : Nat, (State.reset.next.ctx n x).task = none

/-- Every step keeps the machine settled (log 1): outside the slots of a cycle there is one machine, so that what a freeze returns to
(`arch`), what slots read (`view`) and what the cycle leaves (`next`) differ only while the slots of a cycle are open. -/
def Obligations.StepKeepsSettled : Prop := ∀ s t : State, settled s → step s = .next t → settled t

/-- No slot and no microword changes, at its issue, the machine that the cycle found or the one that the slots of the cycle read (R89), a
register, a flag, a predicate or a format (every result has a latency), or a byte of any memory; nor what is owed, what comes from
outside, the plan, or the number of free values. -/
def Obligations.IssueWritesNothingAtOnce : Prop :=
  ∀ (i : Instr) (s t : State), i.isSlot = true ∨ isMicro i = true → exec i s = .next t →
    t.arch = s.arch ∧ t.view = s.view ∧ t.todo = s.todo ∧ t.agenda = s.agenda ∧ t.plan = s.plan ∧ t.draws = s.draws ∧
      sameRegisters s.next t.next ∧ sameMemory s.next t.next

/-- A bundle that has faulted is annulled when it closes (R90): everything that its slots did to the machine is as before its first
slot, on a compute core the fault is charged to its context, and on a control core the pair is halted (R383). Of two faults the one of the
lower place in the order of R88 stands. -/
def Obligations.FaultAnnulsBundle : Prop :=
  (∀ (s : State) (place : Nat) (e : Exc) (m : Mach), s.turn.fault = some (place, e) → s.turn.snap = some m →
    s.turn.cores.tail = [] →
    (isControl s.n = false → s.close.next = m ∧ s.close.turn.faults = s.turn.faults ++ [(s.n, s.x, e, true)]) ∧
    (isControl s.n = true → s.close.next = m.haltPair s.clus e ∧ s.close.turn.faults = s.turn.faults)) ∧
  ∀ (t : Turn) (p q : Nat) (e f : Exc), (t.fault = none → (t.note p e).fault = some (p, e)) ∧
    (t.fault = some (q, f) → (t.note p e).fault = if p < q then some (p, e) else some (q, f)) ∧
    (t.note p e).cores = t.cores ∧ (t.note p e).target = t.target ∧ (t.note p e).next = t.next ∧ (t.note p e).faults = t.faults

/-! ### scalars (R119 to R129) -/

/-- A slot of class 0 or 1, lea, mfsh or mfpar, whose operands are readable, completes: its result is in flight to its destination with
the latency and the value that its entry gives, and nothing else changes; s0 discards the result. -/
def Obligations.ScalarResults : Prop :=
  ∀ (i : Instr) (s : State) (r : Row), scalarRow s i = some r → (∀ q ∈ r.reads, readable s q = true) →
    fits (s.putS r.d r.val r.lat) →
    exec i s = .next (s.putS r.d r.val r.lat) ∧ onlyFlies s (s.putS r.d r.val r.lat) ∧ (r.d = 0 → s.putS r.d r.val r.lat = s)

/-- A slot of class 0 or 1, lea, mfsh or mfpar that reads a register with a fill outstanding raises EARLY; with none such, one that reads
a poisoned register raises POISON (R119, R120); s0 is neither. One whose bundle would hold more than 96 results of its context in flight
raises OPER 28 (R380). That csel reads both of its sources, so that either of them raises EARLY or POISON, is the model's choice (log 26). -/
def Obligations.ScalarOperandFaults : Prop :=
  ∀ (i : Instr) (s : State) (r : Row), scalarRow s i = some r →
    ((∃ q ∈ r.reads, q ≠ 0 ∧ s.me.filling 1 q.toNat = true) → raises i s (exc cEARLY (s.info 0))) ∧
    ((∀ q ∈ r.reads, q ≠ 0 → s.me.filling 1 q.toNat = false) → (∃ q ∈ r.reads, q ≠ 0 ∧ (rd s.me.s q.toNat).poison = true) →
      raises i s (exc cPOISON (s.info 0))) ∧
    ((∀ q ∈ r.reads, readable s q = true) → 96 < (s.putS r.d r.val r.lat).flying → raises i s (exc cOPER (s.info 28)))

/-- Compares, flag logic, predicate tests and tokchk write the flag that their entries give, with latency 2; k0 discards it. -/
def Obligations.FlagResults : Prop :=
  ∀ (i : Instr) (s : State) (r : FlagRow), flagRow s i = some r → (∀ q ∈ r.reads, readable s q = true) →
    (∀ p ∈ r.preds, pReadable s p = true) → fits (s.putK r.k r.val 2) →
    exec i s = .next (s.putK r.k r.val 2) ∧ onlyFlies s (s.putK r.k r.val 2) ∧ (r.k = 0 → s.putK r.k r.val 2 = s)

/-- Predicate operations write bit by bit what their entries give, with latency 2, to the predicate as renamed at issue (R73, R203); p0
discards it. pcnt and pfirst count and find the set bits, 192 where there is none. -/
def Obligations.PredicateResults : Prop :=
  (∀ (i : Instr) (s : State) (r : PredRow), predRow s i = some r → (∀ q ∈ r.reads, readable s q = true) →
    (∀ p ∈ r.preds, pReadable s p = true) → (∀ v : Pred, fits (s.putP r.d v 2)) →
    ∃ v : Pred, exec i s = .next (s.putP r.d v 2) ∧ ∀ j : Nat, j < 192 → v.getLsbD j = r.bit j) ∧
  ∀ (d : SReg) (a : PReg) (s : State), pReadable s a = true → (∀ (v : Word) (l : Nat), fits (s.putS d v l)) →
    exec (.pcnt d a) s = .next (s.putS d (BitVec.ofNat 64 (predBits (s.rp a)).length) 3) ∧
    exec (.pfirst d a) s = .next (s.putS d (BitVec.ofNat 64 ((predBits (s.rp a)).head?.getD 192)) 2)

/-- The results in flight that are due land, whatever their number (R89): a bundle issued at their cycle reads them, marked if they are poisoned,
and one issued before does not; the others stay in flight. Of the results due in one cycle on one scalar, flag or predicate of the context the
one of the later-issued slot is kept; a register on which none is due keeps its value, and where none is due nothing changes. -/
def Obligations.ResultsLand : Prop :=
  ∀ (m : Mach) (n x a : Nat) (rs : List Result), (m.ctx n x).inflight = rs → (m.ctx n x).toks = [] → (m.ctx n x).gstClr = [] →
    (m.ctx n x).loop = none →
    ((m.landCtx n x a).ctx n x).inflight = rs.filter (fun r => decide (a + 1 < r.due)) ∧
    (∀ r ∈ rs, r.due ≤ a + 1 →
      (∀ q ∈ rs, q.due ≤ a + 1 → q.what.key = r.what.key → q ≠ r → q.ord < r.ord) →
      (∀ (d : Nat) (v : Word), r.what = .s d v → rd ((m.landCtx n x a).ctx n x).s d = { val := v, poison := r.poison }) ∧
      (∀ (d : Nat) (v : Bool), r.what = .k d v → rd ((m.landCtx n x a).ctx n x).k d = v) ∧
      (∀ (d : Nat) (v : Pred), r.what = .p d v → rd ((m.landCtx n x a).ctx n x).p d = v)) ∧
    (∀ d : Nat, (∀ q ∈ rs, q.due ≤ a + 1 → q.what.key ≠ (1, d)) → rd ((m.landCtx n x a).ctx n x).s d = rd (m.ctx n x).s d) ∧
    (∀ d : Nat, (∀ q ∈ rs, q.due ≤ a + 1 → q.what.key ≠ (2, d)) → rd ((m.landCtx n x a).ctx n x).k d = rd (m.ctx n x).k d) ∧
    (∀ d : Nat, (∀ q ∈ rs, q.due ≤ a + 1 → q.what.key ≠ (3, d)) → rd ((m.landCtx n x a).ctx n x).p d = rd (m.ctx n x).p d) ∧
    ((∀ q ∈ rs, a + 1 < q.due) → m.landCtx n x a = m)

/-! ### control (R137 to R152) -/

/-- A taken transfer whose target lies in the plane, or in the expanded segment, and is aligned if a register gives it, issues its target
at c+3; call and callr also put the address after the bundle in lr (R137, R138). bk is taken where the flag equals the polarity bit, and
else does nothing. -/
def Obligations.TransfersTaken : Prop :=
  (∀ (o : BitVec 22) (s : State), beyond s (s.rel (o.signExtend 64)) = false →
    (fits s → exec (.br o) s = .next (s.jump (s.rel (o.signExtend 64)) 3)) ∧
    (fits (s.jump (s.rel (o.signExtend 64)) 3).link → exec (.call o) s = .next (s.jump (s.rel (o.signExtend 64)) 3).link)) ∧
  (∀ (p : Bool) (k : KReg) (o : BitVec 18) (s : State), fits s →
    (s.rk k = p → beyond s (s.rel (o.signExtend 64)) = false → exec (.bk p k o) s = .next (s.jump (s.rel (o.signExtend 64)) 3)) ∧
    (s.rk k ≠ p → exec (.bk p k o) s = .next s)) ∧
  (∀ (a : SReg) (s : State), readable s a = true → beyond s (s.rs a) = false → (s.rs a).toNat % 4 = 0 →
    (fits s → exec (.jr a) s = .next (s.jump (s.rs a) 3)) ∧
    (fits (s.jump (s.rs a) 3).link → exec (.callr a) s = .next (s.jump (s.rs a) 3).link)) ∧
  (∀ s : State, readable s 31 = true → beyond s (s.rs 31) = false → (s.rs 31).toNat % 4 = 0 → fits s →
    exec .ret s = .next (s.jump (s.rs 31) 3)) ∧
  ∀ (s : State) (t : Word) (w : Nat), (s.jump t w).turn.target = some t.toNat ∧ (s.jump t w).turn.next = some (.at (s.age + w)) ∧
    (s.jump t w).next = s.next

/-- A taken transfer beyond the plane or the segment raises BOUNDS, and one through a register to an address that is not a multiple of 4
raises ALIGN, ret's through lr too; the information word is the target (R120, R137). -/
def Obligations.TransferFaults : Prop :=
  (∀ (o : BitVec 22) (s : State), beyond s (s.rel (o.signExtend 64)) = true →
    raises (.br o) s (exc cBOUNDS (s.rel (o.signExtend 64))) ∧ raises (.call o) s (exc cBOUNDS (s.rel (o.signExtend 64)))) ∧
  (∀ (p : Bool) (k : KReg) (o : BitVec 18) (s : State), s.rk k = p → beyond s (s.rel (o.signExtend 64)) = true →
    raises (.bk p k o) s (exc cBOUNDS (s.rel (o.signExtend 64)))) ∧
  ∀ (a : SReg) (s : State), readable s a = true →
    (beyond s (s.rs a) = true → raises (.jr a) s (exc cBOUNDS (s.rs a)) ∧ raises (.callr a) s (exc cBOUNDS (s.rs a))) ∧
    (beyond s (s.rs a) = false → (s.rs a).toNat % 4 ≠ 0 →
      raises (.jr a) s (exc cALIGN (s.rs a)) ∧ raises (.callr a) s (exc cALIGN (s.rs a))) ∧
    (a = 31 → beyond s (s.rs a) = true → raises .ret s (exc cBOUNDS (s.rs a))) ∧
    (a = 31 → beyond s (s.rs a) = false → (s.rs a).toNat % 4 ≠ 0 → raises .ret s (exc cALIGN (s.rs a)))

/-- Hardware loops (R139, R140). loopb: LC 0 changes nothing and falls through; else LC counts down, RRB and PRB turn by one name (R74), all in
force for the next bundle, and where LC was not 1 the target issues at c+1. loopset: LC takes the register, ROT the immediate, RRB and PRB 0, in
force from c+2; an immediate of 128 or more raises OPER 7, and one beyond VWS or not a multiple of 8 raises OPER 2. -/
def Obligations.HardwareLoops : Prop :=
  (∀ (o : BitVec 22) (s : State), fits s →
    (s.me.lc = 0 → exec (.loopb o) s = .next s) ∧
    (s.me.lc = 1 → exec (.loopb o) s = .next s.closeLoop) ∧
    (s.me.lc ≠ 0 → s.me.lc ≠ 1 → beyond s (s.rel (o.signExtend 64)) = false →
      exec (.loopb o) s = .next (s.closeLoop.jump (s.rel (o.signExtend 64)) 1)) ∧
    (s.me.lc ≠ 0 → s.me.lc ≠ 1 → beyond s (s.rel (o.signExtend 64)) = true →
      raises (.loopb o) s (exc cBOUNDS (s.rel (o.signExtend 64)))) ∧
    (s.me.lc ≠ 0 → (s.closeLoop.next.ctx s.n s.x).lc = s.me.lc - 1 ∧
      (s.closeLoop.next.ctx s.n s.x).prb = (s.me.prb + 7) % 8 ∧
      (s.closeLoop.next.ctx s.n s.x).rrb = if s.me.rot = 0 then s.me.rrb else (s.me.rrb + s.me.rot - 1) % s.me.rot)) ∧
  ∀ (d : SReg) (i : BitVec 14) (s : State), readable s d = true →
    ((s.imm i).toNat < 128 → (s.imm i).toNat ≤ s.me.vws → (s.imm i).toNat % 8 = 0 →
      fits ((((s.putC 7 (s.rs d)).putC 4 (s.imm i)).putC 5 0).putC 6 0) →
      exec (.loopset d i) s = .next ((((s.putC 7 (s.rs d)).putC 4 (s.imm i)).putC 5 0).putC 6 0)) ∧
    (128 ≤ (s.imm i).toNat → raises (.loopset d i) s (exc cOPER (s.info 7))) ∧
    ((s.imm i).toNat < 128 → s.me.vws < (s.imm i).toNat ∨ (s.imm i).toNat % 8 ≠ 0 → raises (.loopset d i) s (exc cOPER (s.info 2)))

/-- Pacing (R67, R141, R142, R144): the pace point is the sample after the last one, or the first whose tick lies after the issue cycle; T is
its tick floor(n L / D) plus PHASE. smpl waits for T, loopc counts as loopb does and then waits for T; T not after the issue cycle raises
DEADLINE with the sample and how late it is, for loopc before the BOUNDS of a target that it would take. hemsync waits for the first cycle
after its hem, or goes on at once if it is late by no more than SLACK; a later one raises SLIP. -/
def Obligations.PacingWaits : Prop :=
  (∀ (s : State) (n t : Nat), pacePoint s n → t = paceCycle s n → fits s →
    (s.cyc < t → exec .smpl s = .next (s.paced n t)) ∧
    (t ≤ s.cyc → raises .smpl s (exc cDEADLINE (BitVec.ofNat 64 (n % 2 ^ 32 * 2 ^ 32 + (s.cyc - t) % 2 ^ 32)))) ∧
    (∀ o : BitVec 22, t ≤ s.cyc → raises (.loopc o) s (exc cDEADLINE (BitVec.ofNat 64 (n % 2 ^ 32 * 2 ^ 32 + (s.cyc - t) % 2 ^ 32)))) ∧
    (∀ o : BitVec 22, s.cyc < t → s.me.lc ≠ 0 → s.me.lc ≠ 1 → beyond s (s.rel (o.signExtend 64)) = true →
      raises (.loopc o) s (exc cBOUNDS (s.rel (o.signExtend 64)))) ∧
    (∀ o : BitVec 22, s.cyc < t → s.me.lc = 0 ∨ s.me.lc = 1 → exec (.loopc o) s = .next (s.closeLoop.paced n t)) ∧
    (∀ o : BitVec 22, s.cyc < t → s.me.lc ≠ 0 → s.me.lc ≠ 1 → beyond s (s.rel (o.signExtend 64)) = false →
      exec (.loopc o) s = .next ((s.closeLoop.jump (s.rel (o.signExtend 64)) 1).paced n t))) ∧
  (∀ (s : State) (n t : Nat), ((s.paced n t).next.ctx s.n s.x).pp = some n ∧ (s.paced n t).turn.next = some (.cyc t)) ∧
  ∀ (s : State) (h H : Nat), h = (match s.me.hp with
      | none => s.cyc / (s.view.region s.myRegion).cadl
      | some p => p + 1) →
    H = (h + 1) * (s.view.region s.myRegion).cadl - 1 → fits s →
    (s.cyc ≤ H + (s.view.region s.myRegion).slack →
      exec .hemsync s = .next ((s.modMe fun c => { c with hp := some h }).modTurn fun u =>
        { u with next := some (.cyc (if s.cyc ≤ H then H + 1 else s.cyc + 1)) })) ∧
    (H + (s.view.region s.myRegion).slack < s.cyc → raises .hemsync s (exc cSLIP (BitVec.ofNat 64 (s.cyc - H))))

/-- What ends or holds a run (R147 to R149, R152, R160, R260, R85): yield ends the run and keeps the task; retire ends the task, and raises
OPER 5 while a copy, a spill or a fill is outstanding; sstep holds the context at the barrier, fence until the selected work is done,
drain until the copies have completed and the scope's A has passed; halt, on a control core, until an event is posted; nop does nothing,
and ext holds its payload for the slot that follows. A context issues again when its cycle has come; from a fence once none of the work selected
that it issued before is left; from a drain once its copies and windows are behind it by A, a bmset that sets its bit in the cycle being
awaited no more where A is 0; from the barrier in the one cycle in which every participant is there for Lb cycles and the work that its sstep
waits for is done. Model's choice: that W counts the work of every
context of a participating core (log 187). -/
def Obligations.RunControl : Prop :=
  (∀ (m : Mach) (n x a : Nat),
    (∀ t : Nat, (m.ctx n x).run = .at t → (m.ready n x a = true ↔ t ≤ a)) ∧
    (∀ t : Nat, (m.ctx n x).run = .cyc t → (m.ready n x a = true ↔ t ≤ m.cyc n)) ∧
    (∀ w i : Nat, (m.ctx n x).run = .fence w i → (m.ready n x a = true ↔
      (w.testBit 0 = true → (∀ r ∈ (m.ctx n x).inflight, 8 * i ≤ r.ord) ∧ ∀ r ∈ m.coming n x, 8 * i ≤ r.ord) ∧
      (w.testBit 1 = true → (∀ p : Pending, issuedBefore m n x i p → p.acc.writesSpad = false) ∧
        ∀ q ∈ rd m.tile n, q.ctx = x → q.ord < 8 * i → q.acc.pushAt q.due = none) ∧
      (w.testBit 2 = true → ∀ c ∈ (m.core n).copies, c.ctx = x → i ≤ c.issued) ∧
      (w.testBit 3 = true → (∀ t ∈ (m.ctx n x).toks, i + 10 ≤ t.due) ∧ ∀ p : Pending, issuedBefore m n x i p → p.acc.isSpill = false) ∧
      (w.testBit 4 = true → (m.core n).mx.state = 1 → i ≤ (m.core n).mx.called) ∧
      (w.testBit 5 = true → (∀ p : Pending, issuedBefore m n x i p → p.acc.sends = false) ∧
        ∀ f ∈ m.pack.flights, f.src = n → f.srcCtx = x → i ≤ f.issued))) ∧
    (∀ (k i t : Nat) (cs : List Nat), (m.ctx n x).run = .drain k i t cs → (m.ready n x a = true ↔
      t ≤ a ∧ cs = [] ∧ ∀ c ∈ (m.core n).copies, c.ctx = x → c.issued < i →
        scopeA k = 0 ∧ ((m.core n).settingOf a c).isSome = true)) ∧
    (∀ (c : Copy) (k i t : Nat) (cs : List Nat), c.ctx = x → (m.ctx n x).run = .drain k i t cs → c.issued < i →
      ((m.leaves n c a).ctx n x).run = .drain k i (max t (a + scopeA k)) cs) ∧
    (∀ (k i t u : Nat) (cs : List Nat), (m.ctx n x).run = .drain k i t cs → (∃ c ∈ cs, c ≤ u) →
      ((m.drains n x a u).ctx n x).run = .drain k i (max t (a + scopeA k)) (cs.filter fun c => decide (u < c)))) ∧
  [0, 1, 2, 3, 4].map scopeA = [0, 0, 4, 24, 24] ∧
  (∀ (m : Mach) (r n x a t : Nat) (ns : List Nat), n ∈ m.coresOf r → m.atBarrier n = some (x, t) → ns = m.participants n x →
    ((∀ p ∈ ns, ∃ y u : Nat, m.atBarrier p = some (y, u) ∧ u + barrierLat ns ≤ a + 1 ∧ m.working p u a (m.region 0).count = false) →
      ((m.release r a).ctx n x).run = .at (a + 1)) ∧
    ((∃ p ∈ ns, ∀ y u : Nat, m.atBarrier p = some (y, u) → a + 1 < u + barrierLat ns ∨ m.working p u a (m.region 0).count = true) →
      ((m.release r a).ctx n x).run = .sstep t)) ∧
  (∀ (m : Mach) (n i a count : Nat), m.working n i a count = false ↔ ∀ x : Nat, x < 8 →
    (∀ p : Pending, issuedBefore m n x i p → p.acc.writesSpad = false ∧ p.acc.isSpill = false ∧ p.acc.sends = false) ∧
      (∀ q ∈ rd m.tile n, q.ctx = x → q.ord < 8 * i → q.acc.pushAt q.due = none) ∧
      (∀ c ∈ (m.core n).copies, c.ctx = x → c.issued < i → c.done (a + 1) = true) ∧
      (∀ f ∈ m.pack.flights, f.src = n → f.srcCtx = x → i ≤ f.issued) ∧ ∀ q ∈ (m.ctx n x).closes, q.1 < i → q.2 ≤ count) ∧
  (∀ ns : List Nat, ns ≠ [] →
    ((∀ p ∈ ns, ∀ q ∈ ns, clusOf p = clusOf q) → barrierLat ns = 4) ∧
    ((∃ p ∈ ns, ∃ q ∈ ns, clusOf p / 12 ≠ clusOf q / 12) → barrierLat ns = 40) ∧
    ((∀ p ∈ ns, ∀ q ∈ ns, clusOf p / 12 = clusOf q / 12) → (∃ p ∈ ns, ∃ q ∈ ns, clusOf p ≠ clusOf q) →
      ∃ h : Nat, barrierLat ns = 4 + 2 * h ∧ (∀ p ∈ ns, ∀ q ∈ ns, hops (clusOf p) (clusOf q) ≤ h) ∧
        ∃ p ∈ ns, ∃ q ∈ ns, hops (clusOf p) (clusOf q) = h)) ∧
  ∀ (s : State) (i : BitVec 14) (p : BitVec 27), fits s →
    exec .yield s = .next (s.modTurn fun u => { u with ends := 1 }) ∧
    (s.copying = false → s.spilling = false → exec .retire s = .next (s.modTurn fun u => { u with ends := 2 })) ∧
    (s.copying = true ∨ s.spilling = true → raises .retire s (exc cOPER (s.info 5))) ∧
    exec .sstep s = .next (s.modTurn fun u => { u with next := some (.sstep s.age) }) ∧
    ((s.imm i).toNat < 64 → exec (.fence i) s = .next (s.modTurn fun u => { u with next := some (.fence (s.imm i).toNat s.age) })) ∧
    (64 ≤ (s.imm i).toNat → raises (.fence i) s (exc cOPER (s.info 7))) ∧
    ((s.imm i).toNat ≤ 4 → exec (.drain i) s = .next (s.modTurn fun u =>
      { u with next := some (.drain (s.imm i).toNat s.age (max (s.age + 1) (s.age + scopeA (s.imm i).toNat))
          (if (s.imm i).toNat = 4 then s.openWindows else [])) })) ∧
    (4 < (s.imm i).toNat → raises (.drain i) s (exc cOPER (s.info 20))) ∧
    (isControl s.n = true → exec .halt s = .next (s.modTurn fun u => { u with next := some .halted })) ∧
    exec .nop s = .next s ∧ exec (.ext p) s = .next (s.modTurn fun u => { u with ext := some p })

/-- notch (R145, R146, R217): alone in its bundle and quiescent, with no lost message to raise, it writes the seam-entry record with the
address after it, or, at the end of a segment with a successor, offset 0 of that one (R303), and its cycle as E, clears RWF, and discards a held routine; otherwise it raises OPER 4, or LOSS with the first lost
message's word. -/
def Obligations.NotchPerforms : Prop :=
  ∀ s : State,
    (s.alone = true → s.inFlight = false → s.copying = false → s.spilling = false → s.myCore.mx.state ≠ 1 → s.myCore.losses = [] →
      s.flying ≤ 96 →
      ∃ t : State, exec .notch s = .next t ∧ t.turn.ends = 3 ∧
        (t.next.ctx s.n s.x).seam = some (s.view.seamAt s.n s.x s.after s.cyc) ∧
        (s.me.segbuf = none → (s.view.seamAt s.n s.x s.after s.cyc).pc = s.after) ∧
        (∀ b : SegBuf, s.me.segbuf = some b → b.cur ≠ none → 4 * b.words.length ≤ s.after → b.ptr ≠ 0xFFFF →
          (s.view.seamAt s.n s.x s.after s.cyc).pc = 0 ∧ (s.view.seamAt s.n s.x s.after s.cyc).seg = b.ptr) ∧
        (s.view.seamAt s.n s.x s.after s.cyc).e = s.cyc ∧
        (s.view.seamAt s.n s.x s.after s.cyc).lc = s.me.lc ∧ (s.view.seamAt s.n s.x s.after s.cyc).fmt = s.me.fmt ∧
        (t.next.ctx s.n s.x).rwf = false ∧ (t.next.core s.n).mx.state ≠ 2) ∧
    (s.alone = false ∨ s.inFlight = true ∨ s.copying = true ∨ s.spilling = true ∨ s.myCore.mx.state = 1 →
      raises .notch s (exc cOPER (s.info 4))) ∧
    (∀ (w : Word) (ws : List Word), s.alone = true → s.inFlight = false → s.copying = false → s.spilling = false →
      s.myCore.mx.state ≠ 1 → s.myCore.losses = w :: ws → raises .notch s (exc cLOSS w))

/-- setfmt (R79, R150) makes FMT the low 22 bits of the register for bundles from c+4; a format code above 9 raises OPER 1. trapi raises
SWTRAP with its immediate, and brkpt BREAK with 0 (R151). -/
def Obligations.FormatAndTraps : Prop :=
  (∀ (a : SReg) (s : State) (f : BitVec 22), readable s a = true → f = BitVec.ofNat 22 (s.rs a).toNat →
    (fmtV f ≤ 9 → fmtW f ≤ 9 → fmtA f ≤ 9 → fmtB f ≤ 9 → fits (s.land 4 (.fmt f) false) →
      exec (.setfmt a) s = .next (s.land 4 (.fmt f) false)) ∧
    (9 < fmtV f ∨ 9 < fmtW f ∨ 9 < fmtA f ∨ 9 < fmtB f → raises (.setfmt a) s (exc cOPER (s.info 1)))) ∧
  ∀ (i : BitVec 14) (s : State), raises (.trapi i) s (exc cSWTRAP (s.imm i)) ∧ raises .brkpt s (exc cBREAK 0)

/-- Privilege (R119, R122): in a compute context rfe, thaw, rewind, swap, twin and halt raise PRIV before anything else, and so do mfc and mtc
of a register from 0x100 up and mtc of a register that only the control pair writes. -/
def Obligations.PrivilegeChecked : Prop :=
  ∀ (s : State) (d : SReg) (i : BitVec 14), isControl s.n = false →
    raises .rfe s (exc cPRIV (s.info 0)) ∧ raises (.thaw d) s (exc cPRIV (s.info 0)) ∧ raises (.rewind d) s (exc cPRIV (s.info 0)) ∧
    raises (.swap d i) s (exc cPRIV (s.info 0)) ∧ raises (.twin d i) s (exc cPRIV (s.info 0)) ∧ raises .halt s (exc cPRIV (s.info 0)) ∧
    (0x100 ≤ (s.imm i).toInt → raises (.mfc d i) s (exc cPRIV (s.info 0))) ∧
    (0x100 ≤ (s.imm i).toInt ∨ (s.imm i).toInt ∈ [0x22, 0x24, 0x25, 0x26, 0x28] →
      raises (.mtc d i) s (exc cPRIV (s.info 0)))

/-! ### scalar memory (R130 to R136) -/

/-- A scalar load, store or AMO whose operands are readable, whose address lies in the scratchpad and is a multiple of its size, and whose
bytes, if it reads memory, lie in no armed range that is not complete at c+2, is issued: it performs at c+2 at the address that its
base and offset give, and a post-increment writes the base (R130, R131, R134). -/
def Obligations.ScalarAccessIssued : Prop :=
  ∀ (i : Instr) (s : State) (r : MemRow), memRow s i = some r → (∀ q ∈ r.reads, readable s q = true) → r.ea.toNat < 0x300000 →
    r.ea.toNat % r.size = 0 → (r.load = true → s.inArmed r.ea.toNat r.size (s.age + 2) = false) → fits r.after →
    exec i s = .next r.after

/-- A scalar access beyond the scratchpad raises BOUNDS, else a misaligned one ALIGN, else one that reads an armed, incomplete range EARLY;
the information word is the address (R120, R130, R131). -/
def Obligations.ScalarAccessFaults : Prop :=
  ∀ (i : Instr) (s : State) (r : MemRow), memRow s i = some r → (∀ q ∈ r.reads, readable s q = true) →
    (0x300000 ≤ r.ea.toNat → raises i s (exc cBOUNDS r.ea)) ∧
    (r.ea.toNat < 0x300000 → r.ea.toNat % r.size ≠ 0 → raises i s (exc cALIGN r.ea)) ∧
    (r.ea.toNat < 0x300000 → r.ea.toNat % r.size = 0 → r.load = true → s.inArmed r.ea.toNat r.size (s.age + 2) = true →
      raises i s (exc cEARLY r.ea))

/-- A load performs (R131, R82): the bytes from its address, little-endian, sign- or zero-extended, are on their way to its register, marked
if one of them is uncorrectable; a load to s0 discards them; no byte of any memory changes. For a core outside a twin pair, on banks
that are up. -/
def Obligations.LoadsReturnMemory : Prop :=
  ∀ (p : Perf) (q : Pending) (a size d land : Nat) (signed : Bool), q.acc = .load a size signed d land →
    (p.m.core q.core).twin = 0 → (p.old.cl (clusOf q.core)).firstDown a size = none →
    sameMemory p.m (p.readAcc q).m ∧
    ((p.readAcc q).m.ctx q.core q.ctx).inflight = (p.m.ctx q.core q.ctx).inflight ++
      (if d = 0 then [] else
        [{ due := q.due + land, ord := q.ord
           what := .s d (
             let v := ((List.range size).map fun j => ((p.old.cl (clusOf q.core)).spad.byte (a + j)).toNat * 256 ^ j).sum
             if signed && decide (2 ^ (8 * size) ≤ 2 * v) then BitVec.ofInt 64 ((v : Int) - 2 ^ (8 * size)) else BitVec.ofNat 64 v)
           poison := decide ((p.old.cl (clusOf q.core)).badB a size ≠ []) }])

/-- A store performs (R131, R82): the low bytes of its value stand from its address up, little-endian, and every other byte of every
memory reads as before. For a context that is neither in a twin pair nor of a duplicated task, on banks that are up, and a memory in
canonical form. -/
def Obligations.StoresWriteTheirBytes : Prop :=
  ∀ (p : Perf) (q : Pending) (a size : Nat) (v : Word) (bad spill : Bool), q.acc = .store a size v bad spill →
    p.m.tracks q.core q.ctx = false → (p.m.cl (clusOf q.core)).firstDown a size = none → (p.m.cl (clusOf q.core)).spad.wf = true →
    (∀ j : Nat, j < size → ((p.writeAcc q).m.cl (clusOf q.core)).spad.byte (a + j) = BitVec.ofNat 8 (v.toNat / 256 ^ j)) ∧
    (∀ k b : Nat, k ≠ clusOf q.core ∨ b < a ∨ a + size ≤ b → ((p.writeAcc q).m.cl k).spad.byte b = (p.m.cl k).spad.byte b) ∧
    ((p.writeAcc q).m.cl (clusOf q.core)).spad.wf = true ∧ (p.writeAcc q).m.cores = p.m.cores ∧ (p.writeAcc q).m.pack = p.m.pack

/-- An AMO performs in its turn (R132, R134): the doubleword that it finds, whatever accesses of the cycle before it have made of it, goes to its
register, and what its function makes of it and the operand stands in memory; every other byte of every scratchpad reads as before. To s0 the
doubleword is discarded, and memory is changed all the same. As for stores, where no byte is uncorrectable. -/
def Obligations.AmosUpdate : Prop :=
  ∀ (p : Perf) (q : Pending) (fn a d land : Nat) (v swap old : Word), q.acc = .amo fn a v swap d land → 11 ≤ fn → fn ≤ 20 →
    p.m.tracks q.core q.ctx = false → (p.m.cl (clusOf q.core)).firstDown a 8 = none → (p.old.cl (clusOf q.core)).isUp a = true →
    (p.m.cl (clusOf q.core)).badB a 8 = [] → (p.m.cl (clusOf q.core)).spad.wf = true → a % 8 = 0 →
    old = BitVec.ofNat 64 ((p.m.cl (clusOf q.core)).spad.nat a 8) →
    ((p.writeAcc q).m.ctx q.core q.ctx).inflight =
      (p.m.ctx q.core q.ctx).inflight ++
        (if d = 0 then [] else [{ due := q.due + land, ord := q.ord, what := .s d old, poison := false }]) ∧
    ((p.writeAcc q).m.cl (clusOf q.core)).spad.nat a 8 = (amoLeaves fn old v swap).toNat ∧
    ∀ k b : Nat, k ≠ clusOf q.core ∨ b < a ∨ a + 8 ≤ b → ((p.writeAcc q).m.cl k).spad.byte b = (p.m.cl k).spad.byte b

/-- The slots of the tag table perform at c+2 (R136): lookup brings its register a word readable from c+6, tagset names a way in the low three
bits of its data register. A tag that a way has taken is found in that way; one that has been cleared is found in none. As lookup performs, the
lowest valid way that holds the tag gives set × 8 + way and becomes most recent; with none, the word is 2^63 + set × 8 + w, w the lowest invalid
way or the least recent, and the table is as before; to s0 the word is discarded. For a core outside a twin pair. -/
def Obligations.TagTable : Prop :=
  (∀ (d b : SReg) (o : BitVec 7) (s : State), readable s b = true →
    (fits (s.access 2 (.lookup (address s false b o 1) d.toNat 4)) →
      exec (.lookup d b o) s = .next (s.access 2 (.lookup (address s false b o 1) d.toNat 4))) ∧
    (readable s d = true → fits (s.access 2 (.tagset (address s false b o 1) ((s.rs d).toNat % 8))) →
      exec (.tagset d b o) s = .next (s.access 2 (.tagset (address s false b o 1) ((s.rs d).toNat % 8)))) ∧
    (fits (s.access 2 (.tagclr (address s false b o 1))) →
      exec (.tagclr b o) s = .next (s.access 2 (.tagclr (address s false b o 1))))) ∧
  (∀ (t : TagSet) (w : Nat) (tag : BitVec 39), w < 8 → (t.install w tag).hit tag = some w ∧ (t.drop tag).hit tag = none ∧
    (t.install w tag).order.getLast? = some w) ∧
  ∀ (p : Perf) (q : Pending) (va : Word) (d land set w : Nat) (t : TagSet) (holds : Nat → Prop), q.acc = .lookup va d land →
    (p.m.core q.core).twin = 0 → t = (p.m.cl (clusOf q.core)).tagSet va → set = va.toNat / 2 ^ 10 % 2 ^ 8 →
    (∀ j : Nat, holds j ↔ (rd t.ways j).valid = true ∧ (rd t.ways j).tag.toNat = va.toNat / 2 ^ 18 % 2 ^ 39) →
    (w < 8 → holds w → (∀ j : Nat, j < w → ¬ holds j) →
      ((p.writeAcc q).m.ctx q.core q.ctx).inflight = (p.m.ctx q.core q.ctx).inflight ++ brings q d land (BitVec.ofNat 64 (set * 8 + w)) ∧
      (p.m.mute q.core q.ctx = false → rd ((p.writeAcc q).m.cl (clusOf q.core)).tags set = t.touch w)) ∧
    ((∀ j : Nat, j < 8 → ¬ holds j) →
      (w < 8 ∧ (rd t.ways w).valid = false ∧ (∀ j : Nat, j < w → (rd t.ways j).valid = true)) ∨
        ((∀ j : Nat, j < 8 → (rd t.ways j).valid = true) ∧ w = t.order.headD 0) →
      ((p.writeAcc q).m.ctx q.core q.ctx).inflight =
        (p.m.ctx q.core q.ctx).inflight ++ brings q d land (BitVec.ofNat 64 (2 ^ 63 + set * 8 + w)) ∧
      ((p.writeAcc q).m.cl (clusOf q.core)).tags = (p.m.cl (clusOf q.core)).tags)

/-- A spill or fill whose base is readable, whose bytes lie in the scratchpad at its alignment and not below SLIM, and whose bytes, if it is a
fill, lie in no armed incomplete range, is issued: it performs at c+2, and a fill's register is written at c+10 under the lowest free
token (R265, R266). -/
def Obligations.SpillsIssued : Prop :=
  ∀ (i : Instr) (s : State) (r : SpillRow), spillRow s i = some r → spillReads s i = true → r.ea.toNat + r.size ≤ 0x300000 →
    r.ea.toNat % r.align = 0 → s.me.slim.toNat ≤ r.ea.toNat →
    (r.load = true → s.inArmed r.ea.toNat r.size (s.age + 2) = false) → fits r.after → exec i s = .next r.after

/-- Spills and fills raise BOUNDS, ALIGN and STACK in that order, with the address (R265). salloc and sfree move their register down and up by
their size, with latency 2; a size that is negative or not a multiple of 256 raises OPER 20, and a pointer below SLIM STACK (R268). -/
def Obligations.StackRules : Prop :=
  (∀ (i : Instr) (s : State) (r : SpillRow), spillRow s i = some r → spillReads s i = true →
    (0x300000 < r.ea.toNat + r.size → raises i s (exc cBOUNDS r.ea)) ∧
    (r.ea.toNat + r.size ≤ 0x300000 → r.ea.toNat % r.align ≠ 0 → raises i s (exc cALIGN r.ea)) ∧
    (r.ea.toNat + r.size ≤ 0x300000 → r.ea.toNat % r.align = 0 → r.ea.toNat < s.me.slim.toNat → raises i s (exc cSTACK r.ea))) ∧
  ∀ (d : SReg) (i : BitVec 14) (s : State), readable s d = true →
    (0 ≤ (s.imm i).toInt → (s.imm i).toNat % 256 = 0 →
      (s.me.slim.toNat ≤ (s.rs d - s.imm i).toNat → fits (s.putS d (s.rs d - s.imm i) 2) →
        exec (.salloc d i) s = .next (s.putS d (s.rs d - s.imm i) 2)) ∧
      ((s.rs d - s.imm i).toNat < s.me.slim.toNat → raises (.salloc d i) s (exc cSTACK (s.rs d - s.imm i))) ∧
      (fits (s.putS d (s.rs d + s.imm i) 2) → exec (.sfree d i) s = .next (s.putS d (s.rs d + s.imm i) 2))) ∧
    ((s.imm i).toInt < 0 ∨ (s.imm i).toNat % 256 ≠ 0 →
      raises (.salloc d i) s (exc cOPER (s.info 20)) ∧ raises (.sfree d i) s (exc cOPER (s.info 20)))

/-! ### vectors (R161 to R204, R275) -/

/-- A slot of class 4 or 5, or red, that M guards and whose guard fails does nothing (R77). Otherwise, with its operands readable, its pops and
its push possible and its format accepted, it completes: the pops and the push take place at issue and its result is on its way with
the latency of its entry, P added (R165, R166, R173, R194, R275). A pop or push that is not possible raises the fault of R194, and a
format that is not accepted OPER 10, or 11 for a part out of range (R164, R174, R176). -/
def Obligations.VectorSlotsIssued : Prop :=
  ∀ (i : Instr) (s : State) (r : VRow), vecRow s i = some r →
    (r.guarded = true → s.me.guard = false → fits s → exec i s = .next s) ∧
    ((r.guarded = true → s.me.guard = true) → r.ready s i →
      (∀ (e : VEnv) (mems : List (Nat × List Nat)) (p : Nat) (ds : List VDest), s.readAll r.reads r.env = .ok (e, mems, p) →
        r.dests s = .ok ds →
        (accepts s.me.fmt i = true → fits (r.after s i e mems p ds) → exec i s = .next (r.after s i e mems p ds)) ∧
        (accepts s.me.fmt i = false → raises i s (exc cOPER (s.info (partOrFormat s.me.fmt i))))) ∧
      (∀ x : Exc, s.readAll r.reads r.env = .error x → raises i s x) ∧
      ∀ (q : VEnv × List (Nat × List Nat) × Nat) (x : Exc), s.readAll r.reads r.env = .ok q → r.dests s = .error x → raises i s x)

/-- The operand checks of vector slots come first, in the order EARLY and POISON of scalars, EARLY of vectors and predicates, POISON of
vectors (R119, R161). That the companion d+1 of vq8 is an operand, which raises both, is the model's choice (log 161). -/
def Obligations.VectorOperandFaults : Prop :=
  ∀ (i : Instr) (s : State) (r : VRow), vecRow s i = some r → (r.guarded = true → s.me.guard = true) →
    ((∃ q ∈ r.scal, q ≠ 0 ∧ s.me.filling 1 q.toNat = true) → raises i s (exc cEARLY (s.info 0))) ∧
    ((∀ q ∈ r.scal, q ≠ 0 → s.me.filling 1 q.toNat = false) → (∃ q ∈ r.scal, q ≠ 0 ∧ (rd s.me.s q.toNat).poison = true) →
      raises i s (exc cPOISON (s.info 0))) ∧
    ((∀ q ∈ r.scal, readable s q = true) →
    ((∃ c ∈ r.reads.map Prod.snd ++ r.comps, c.toNat < 120 ∧ s.me.filling 0 (s.me.phys c.toNat) = true) ∨
        (∃ p ∈ r.allPreds s i, p ≠ 0 ∧ s.me.filling 2 (s.me.physP p.toNat) = true) →
      raises i s (exc cEARLY (s.info 0))) ∧
    ((∀ c ∈ r.reads.map Prod.snd ++ r.comps, c.toNat < 120 → s.me.filling 0 (s.me.phys c.toNat) = false) →
      (∀ p ∈ r.allPreds s i, pReadable s p = true) →
      (∃ c ∈ r.reads.map Prod.snd ++ r.comps, c.toNat < 120 ∧ (rd s.myCore.v (s.me.phys c.toNat)).poison = true) →
      raises i s (exc cPOISON (s.info 0))))

/-- What a vector field gives (R72, R194, R195): a window register its value, without delay; a scratchpad stream the address of its
position, to be read at c+2, or its fill vector past its end, with a delay of 4. An unbound bobbin raises STREAM 3, one not yet usable 6,
one of the other direction 4, and a strict stream at its end 1 for a pop and 2 for a push. A pop moves the position on, or sets EOS at
the end. -/
def Obligations.BobbinsPopAndPush : Prop :=
  (∀ (c : VCode) (s : State), c.toNat < 120 →
    s.readV c = .ok (.val (rd s.myCore.v (s.me.phys c.toNat)).val false, 0) ∧ s.writeV c = .ok [.v (s.me.phys c.toNat)] ∧ s.pushB c = s) ∧
  ∀ (c : VCode) (s : State) (k : Bobbin), 120 ≤ c.toNat → k = s.bobbin (c.toNat - 120) →
    (k.bound = none → s.readV c = .error (exc cSTREAM (s.streamInfo k.pos 3 (c.toNat - 120))) ∧
      s.writeV c = .error (exc cSTREAM (s.streamInfo k.pos 3 (c.toNat - 120)))) ∧
    ∀ g : Binding, k.bound = some g →
      (s.age < k.usable → s.readV c = .error (exc cSTREAM (s.streamInfo k.pos 6 (c.toNat - 120)))) ∧
      (k.usable ≤ s.age → g.kind ∈ [2, 4, 6] → s.readV c = .error (exc cSTREAM (s.streamInfo k.pos 4 (c.toNat - 120)))) ∧
      (k.usable ≤ s.age → g.kind ∈ [1, 3, 5] → s.writeV c = .error (exc cSTREAM (s.streamInfo k.pos 4 (c.toNat - 120)))) ∧
      (k.usable ≤ s.age → g.kind = 1 →
        (k.pos < g.len → 0 ≤ g.addr k.pos → g.addr k.pos ≤ 0x2FFD00 → s.inArmed (g.addr k.pos).toNat 768 (s.age + 2) = false →
          s.readV c = .ok (.mem (g.addr k.pos).toNat, 4)) ∧
        (k.pos < g.len → g.addr k.pos < 0 ∨ 0x2FFD00 < g.addr k.pos →
          s.readV c = .error (exc cBOUNDS (s.streamInfo k.pos 0 (c.toNat - 120)))) ∧
        (g.len ≤ k.pos → g.strict = true → s.readV c = .error (exc cSTREAM (s.streamInfo k.pos 1 (c.toNat - 120)))) ∧
        (g.len ≤ k.pos → g.strict = false → s.readV c = .ok (.val g.fillVec false, 4)) ∧
        (rd ((s.popB (c.toNat - 120)).next.core s.n).bob (c.toNat - 120) =
          let q := rd (s.next.core s.n).bob (c.toNat - 120)
          if g.len ≤ q.pos then { q with eos := true } else { q with pos := q.pos + 1 })) ∧
      (k.usable ≤ s.age → g.kind = 2 →
        (k.pos < g.len → 0 ≤ g.addr k.pos → g.addr k.pos ≤ 0x2FFD00 → s.writeV c = .ok [.spad (g.addr k.pos).toNat]) ∧
        (g.len ≤ k.pos → g.strict = true → s.writeV c = .error (exc cSTREAM (s.streamInfo k.pos 2 (c.toNat - 120)))) ∧
        (g.len ≤ k.pos → g.strict = false → s.writeV c = .ok []))

/-- The values of vector results (R164 to R184, R275). Over the integer formats an element of a lane-wise result is the exact result of its entry cut
to the element's width, and clamped first for vsatadd and vsatsub; over FP32, BF16 and FP16 it is the result of its entry on the values of its
operands, rounded once; a sum of finite values is exact, and of others NaN or the one infinity; bitwise forms, vmov and vsel act on bits. A bit of
vcmp is its condition on every element of the lane. A reduction, a scan, a block form, a widening form, a conversion, vrand and vdq8 have the
elements of their entries, a conversion that narrows writing its own part only; vq8 and red write eight blocks and their scales and no other
byte. Model's choice: that red takes its scales from a+1 whatever FSC holds (log 188). -/
def Obligations.LaneValues : Prop :=
  (∀ (i : Instr) (e : VEnv) (k : Nat) (v : Int), 5 ≤ fmtV e.fmt → fmtV e.fmt ≤ 8 → k < 768 / fmtWidth (fmtV e.fmt) →
    intElt (fmtV e.fmt) i e k = some v →
    (elt (fmtWidth (fmtV e.fmt)) (vecResult i e).v k : Int) = v % 2 ^ (8 * fmtWidth (fmtV e.fmt))) ∧
  (∀ (i : Instr) (e : VEnv) (k c w : Nat) (v : FVal), c = fmtV e.fmt → c ≤ 2 → w = fmtWidth c → k < 768 / w →
    floatElt c (fmtRM e.fmt) i e k = some v → elt w (vecResult i e).v k = encF (ffmt c) (fmtRM e.fmt) v % 2 ^ (8 * w)) ∧
  (∀ (rm : Nat) (ts : List FVal),
    (∀ lo : Int, (∀ t ∈ ts, ∃ (s : Bool) (m : Nat) (x : Int), t = .fin s m x ∧ lo ≤ x) →
      (sumF rm ts).isNan = false ∧ (sumF rm ts).isInf = false ∧ (sumF rm ts).int lo = (ts.map fun t => t.int lo).sum) ∧
    (.nan ∈ ts ∨ .inf true ∈ ts ∧ .inf false ∈ ts → sumF rm ts = .nan) ∧
    ∀ s : Bool, .inf s ∈ ts → .nan ∉ ts → .inf (!s) ∉ ts → sumF rm ts = .inf s) ∧
  (∀ (i : Instr) (e : VEnv) (j : Nat) (b : Bool), j < 6144 → bitOf i e j = some b → (vecResult i e).v.getLsbD j = b) ∧
  (∀ (c : BitVec 3) (p : PReg) (a b : VCode) (e : VEnv) (j f w : Nat), f = fmtV e.fmt → w = fmtWidth f → j < 192 →
    (5 ≤ f → f ≤ 8 → ((vecResult (.vcmp c p a b) e).preds.getD 0 0).getLsbD j =
      (List.range (4 / w)).all fun i => vecCond c (eltInt f e.a (4 / w * j + i)) (eltInt f e.b (4 / w * j + i))) ∧
    (f ≤ 2 → ((vecResult (.vcmp c p a b) e).preds.getD 0 0).getLsbD j =
      (List.range (4 / w)).all fun i => fltCond c (fltElt f e.a (4 / w * j + i)) (fltElt f e.b (4 / w * j + i)))) ∧
  (∀ (i : Instr) (e : VEnv) (w k : Nat) (f : Nat → Nat), crossElt i e = some (w, f) → accepts e.fmt i = true → k < 768 / w →
    elt w (vecResult i e).v k = f k % 2 ^ (8 * w) ∧ ∀ j : Nat, j < 768 → (vecResult i e).mask.getLsbD j = true) ∧
  (∀ (m : Bool) (d a b : VCode) (e : VEnv) (c rm : Nat), c = fmtV e.fmt → rm = fmtRM e.fmt →
    (c ≤ 2 → ∀ xs : List FVal, xs = (List.range (768 / fmtWidth c)).map (fltElt c e.a) →
      (vecResult (.vredsum m d a b) e).v = BitVec.ofNat 6144 (encF (ffmt c) rm (sumF rm (fltElt c e.b 0 :: xs))) ∧
      (vecResult (.vredmax m d a b) e).v = BitVec.ofNat 6144 (encF (ffmt c) rm (xs.foldl maxF (fltElt c e.b 0))) ∧
      (vecResult (.vredmin m d a b) e).v = BitVec.ofNat 6144 (encF (ffmt c) rm (xs.foldl minF (fltElt c e.b 0)))) ∧
    (5 ≤ c → c ≤ 8 → ∀ xs : List Int, xs = (List.range (768 / fmtWidth c)).map (eltInt c e.a) →
      (vecResult (.vredsum m d a b) e).v = BitVec.ofNat 6144 (cutTo 7 (clampTo 7 (eltInt 7 e.b 0 + xs.sum))) ∧
      (vecResult (.vredmax m d a b) e).v = BitVec.ofNat 6144 (cutTo 7 (clampTo 7 (xs.foldl max (eltInt 7 e.b 0)))) ∧
      (vecResult (.vredmin m d a b) e).v = BitVec.ofNat 6144 (cutTo 7 (clampTo 7 (xs.foldl min (eltInt 7 e.b 0)))))) ∧
  (∀ (m : Bool) (d a : VCode) (p : BitVec 2) (e : VEnv) (c w k j : Nat), c = fmtV e.fmt → w = fmtW e.fmt → c ≤ 8 → w ≤ 8 →
    fmtWidth w < fmtWidth c → p.toNat < fmtWidth c / fmtWidth w →
    (k < 768 / fmtWidth c → elt (fmtWidth w) (vecResult (.vcvt m d a p) e).v (p.toNat * (768 / fmtWidth c) + k) =
      cvtElt c w (fmtRM e.fmt) (fmtSat e.fmt) (elt (fmtWidth c) e.a k) % 2 ^ (8 * fmtWidth w)) ∧
    (j < 768 → (vecResult (.vcvt m d a p) e).mask.getLsbD j = decide (j / (768 / (fmtWidth c / fmtWidth w)) = p.toNat))) ∧
  ∀ (m : Bool) (d a b : VCode) (p : BitVec 2) (e : VEnv) (q i j : Nat), q < 8 → i < 24 → j < 768 → fmtW e.fmt = 3 ∨ fmtW e.fmt = 4 →
    (elt 1 (vecResult (.vq8 m d a p) e).v (192 * p.toNat + 24 * q + i) = (quantised e (fltElt 0 e.a) q).1.getD i 0 % 2 ^ 8 ∧
      elt 1 (vecResult (.vq8 m d a p) e).comp (8 * p.toNat + q) = (quantised e (fltElt 0 e.a) q).2 % 2 ^ 8 ∧
      (vecResult (.vq8 m d a p) e).mask.getLsbD j = decide (j / 192 = p.toNat) ∧
      (vecResult (.vq8 m d a p) e).cmask.getLsbD j = decide (j / 8 = p.toNat)) ∧
    elt 1 (vecResult (.red m d a b) e).v (24 * q + i) = (quantised e (redLane e) q).1.getD i 0 % 2 ^ 8 ∧
    elt 1 (vecResult (.red m d a b) e).comp q = (quantised e (redLane e) q).2 % 2 ^ 8 ∧
    (vecResult (.red m d a b) e).mask.getLsbD j = decide (j < 192) ∧ (vecResult (.red m d a b) e).cmask.getLsbD j = decide (j < 8)

/-- Moves of elements across lanes (R180 to R183), on the bits of the elements of FMT.V, of width w, n to a vector: vbc repeats the low bits
of its scalar, vrot turns the elements up by s(b) mod n, vperm selects lanes and vshuf bytes of a quarter, 0 beyond the range; vext
gives element s(b) mod n, sign-extended from an integer format of signed elements and else zero-extended; vins puts the low bits of
s(a) there and leaves the bytes of the other elements unwritten. -/
def Obligations.ElementMoves : Prop :=
  ∀ (m : Bool) (d a b : VCode) (sd sa sb : SReg) (e : VEnv) (w n k : Nat), fmtV e.fmt ≤ 8 → w = fmtWidth (fmtV e.fmt) → n = 768 / w →
    k < n →
    elt w (vecResult (.vbc m d sa) e).v k = e.sa.toNat % 2 ^ (8 * w) ∧
    elt w (vecResult (.vrot m d a sb) e).v ((k + e.sb.toNat) % n) = elt w e.a k ∧
    (k < 192 → elt 4 (vecResult (.vperm m d a b) e).v k = if elt 4 e.b k < 192 then elt 4 e.a (elt 4 e.b k) else 0) ∧
    (elt 1 (vecResult (.vshuf m d a b) e).v k = if elt 1 e.b k < 96 then elt 1 e.a (k - k % 96 + elt 1 e.b k) else 0) ∧
    (vecResult (.vext m sd a sb) e).sc =
      BitVec.ofInt 64 (if fmtV e.fmt ∈ [5, 6, 7] then eltInt (fmtV e.fmt) e.a (e.sb.toNat % n) else elt w e.a (e.sb.toNat % n)) ∧
    elt w (vecResult (.vins m d sa sb) e).v (e.sb.toNat % n) = e.sa.toNat % 2 ^ (8 * w) ∧
    ∀ j : Nat, j < 768 → (vecResult (.vins m d sa sb) e).mask.getLsbD j = decide (j / w = e.sb.toNat % n)

/-- A vector result that is due lands byte by byte (R77, R89, R161): of the register, the bytes under the result's mask take its value and
the others keep theirs, the register is marked as the result is, and every other register is as before. -/
def Obligations.VectorResultsLand : Prop :=
  ∀ (m : Mach) (n x a : Nat) (r : Result) (d : Nat) (v : VWord) (mask : ByteMask), (m.ctx n x).inflight = [r] → r.what = .v d v mask →
    (m.ctx n x).toks = [] → (m.ctx n x).gstClr = [] → r.due ≤ a + 1 →
    (∀ j : Nat, j < 768 → elt 1 (rd ((m.landCtx n x a).core n).v d).val j =
      if mask.getLsbD j then elt 1 v j else elt 1 (rd (m.core n).v d).val j) ∧
    (rd ((m.landCtx n x a).core n).v d).poison = r.poison ∧
    ∀ j : Nat, j ≠ d → rd ((m.landCtx n x a).core n).v j = rd (m.core n).v j

/-- A number that a float format holds is rounded to itself, subnormals and infinities among them: decoding a code that is no NaN and
rounding it again under any rounding mode gives the code; every NaN gives the canonical NaN of the format (R97 to R99, R103). -/
def Obligations.RoundingKeepsCodes : Prop :=
  ∀ (c code rm : Nat), c ≤ 4 → code < 2 ^ (ffmt c).bits → rm < 4 →
    encF (ffmt c) rm (decF (ffmt c) code) = if (decF (ffmt c) code).isNan then (ffmt c).nan else code

/-- The eight predicates 8a to 8a+7 that ppack reads go to the bytes of its result, bit i of predicate j to bit 192 j + i, with latency 2 to a
register (R204), and punpk with a register operand brings them back to eight predicates with latency 2; p0 discards its. -/
def Obligations.PredicatesPacked : Prop :=
  (∀ (d : VCode) (a : Bool) (s : State), d.toNat < 120 →
    (∀ j : Nat, j < 8 → pReadable s (BitVec.ofNat 4 (8 * bnat a + j)) = true) →
    ∃ v : VWord, (∀ j i : Nat, j < 8 → i < 192 → v.getLsbD (192 * j + i) = (s.me.pval (8 * bnat a + j)).getLsbD i) ∧
      (fits (s.land 2 (.v (s.me.phys d.toNat) v fullMask) false) →
        exec (.ppack d a) s = .next (s.land 2 (.v (s.me.phys d.toNat) v fullMask) false))) ∧
  ∀ (d : Bool) (a : VCode) (s t : State), vReadable s a = true → fits t →
    t = s.mod (fun m => m.deliver s.n s.x (s.me.task.map Task.uid) s.ord s.age 2 ((s.env false (s.info 0) 0).set 1 (rd s.myCore.v (s.me.phys a.toNat)).val)
      (vecResult (.punpk d a) ((s.env false (s.info 0) 0).set 1 (rd s.myCore.v (s.me.phys a.toNat)).val)) false
      ((List.range 8).map fun j => .p (s.me.physP (8 * bnat d + j)))) →
    exec (.punpk d a) s = .next t ∧
    ∀ (e : VEnv) (j i : Nat), j < 8 → i < 192 → ((vecResult (.punpk d a) e).preds.getD j 0).getLsbD i = e.a.getLsbD (192 * j + i)

/-! ### vector memory and bobbins (R185 to R201) -/

/-- Vector loads and stores (R185, R187, R189): with operands readable, an address in range and a multiple of 256, and no armed, incomplete range
among the bytes loaded, the 768 bytes are read or written at c+2, vstm under the lanes of the merge predicate and only if its guard
holds; a post-increment writes the base. Out of range raises BOUNDS, misaligned ALIGN. A gather or scatter with a register of indices
whose lanes are in range is performed at c+6, in ascending lanes. In every form, bobbins among them: M with a failing guard does nothing; the faults of its
pops and push come first (log 139), then OPER 10, ALIGN, BOUNDS of the lowest lane beyond where the access is strict, EARLY of the lowest lane of a gather; a lane
beyond sets GST where it is not strict (at issue: log 94); one that pops the scratchpad reads at c+2 (its indices judged as memory holds them at issue: log 28). -/
def Obligations.VectorAccessesIssued : Prop :=
  (∀ (x : Bool) (d : VCode) (b : SReg) (o : BitVec 7) (s : State) (ea : Word), readable s b = true → ea = address s x b o 768 →
    (0x2FFD00 < ea.toNat → raises (.vld x d b o) s (exc cBOUNDS ea)) ∧
    (ea.toNat ≤ 0x2FFD00 → ea.toNat % 256 ≠ 0 → raises (.vld x d b o) s (exc cALIGN ea)) ∧
    (ea.toNat ≤ 0x2FFD00 → ea.toNat % 256 = 0 → s.inArmed ea.toNat 768 (s.age + 2) = true → raises (.vld x d b o) s (exc cEARLY ea)) ∧
    (ea.toNat ≤ 0x2FFD00 → ea.toNat % 256 = 0 → s.inArmed ea.toNat 768 (s.age + 2) = false →
      fits (afterBump (s.access 2 (.vload ea.toNat (s.me.phys d.toNat) 6)) s x b o 768) →
      exec (.vld x d b o) s = .next (afterBump (s.access 2 (.vload ea.toNat (s.me.phys d.toNat) 6)) s x b o 768)) ∧
    (vReadable s d = true →
      (0x2FFD00 < ea.toNat → raises (.vst x d b o) s (exc cBOUNDS ea)) ∧
      (ea.toNat ≤ 0x2FFD00 → ea.toNat % 256 ≠ 0 → raises (.vst x d b o) s (exc cALIGN ea)) ∧
      ∀ v : VWord, v = (rd s.myCore.v (s.me.phys d.toNat)).val → ea.toNat ≤ 0x2FFD00 → ea.toNat % 256 = 0 →
        (fits (afterBump (s.access 2 (.vstore ea.toNat v fullMask false false)) s x b o 768) →
          exec (.vst x d b o) s = .next (afterBump (s.access 2 (.vstore ea.toNat v fullMask false false)) s x b o 768)) ∧
        (s.me.guard = false → fits s → exec (.vstm x d b o) s = .next s) ∧
        (s.me.guard = true → pReadable s (s.me.masksel.extractLsb' 0 4) = true →
          fits (afterBump (s.access 2 (.vstore ea.toNat v (laneMask s.me.mergePred) false false)) s x b o 768) →
          exec (.vstm x d b o) s =
            .next (afterBump (s.access 2 (.vstore ea.toNat v (laneMask s.me.mergePred) false false)) s x b o 768)))) ∧
  (∀ (m : Bool) (d b : VCode) (a : SReg) (s : State) (base : Nat) (ix dv : VWord) (lanes : Pred), (m = true → s.me.guard = true) →
    (m = true → pReadable s (s.me.masksel.extractLsb' 0 4) = true) → readable s a = true → vReadable s b = true → vReadable s d = true →
    base = (s.rs a).toNat % 2 ^ 63 → base % 4 = 0 → ix = (rd s.myCore.v (s.me.phys b.toNat)).val →
    dv = (rd s.myCore.v (s.me.phys d.toNat)).val → lanes = (if m then s.me.mergePred else BitVec.allOnes 192) →
    (∀ l : Nat, l < 192 → lanes.getLsbD l = true → lane ix l < 2 ^ 31 → base + 4 * lane ix l + 3 ≤ 0x2FFFFF) →
    (fits (s.access 6 (.scatter base ix dv lanes false)) →
      exec (.vstx m d a b) s = .next (s.access 6 (.scatter base ix dv lanes false))) ∧
    (fmtV s.me.fmt = 0 ∨ fmtV s.me.fmt = 7 → fits (s.access 6 (.scatterAdd base ix dv lanes s.me.fmt false)) →
      exec (.vstxa m d a b) s = .next (s.access 6 (.scatterAdd base ix dv lanes s.me.fmt false))) ∧
    ((∀ l : Nat, l < 192 → lanes.getLsbD l = true → lane ix l < 2 ^ 31 → s.inArmed (base + 4 * lane ix l) 4 (s.age + 6) = false) →
      fits (s.access 6 (.gather base ix ((s.env m (s.rs a) 0).set 2 ix) [.v (s.me.phys d.toNat)] 6)) →
      exec (.vldx m d a b) s =
        .next (s.access 6 (.gather base ix ((s.env m (s.rs a) 0).set 2 ix) [.v (s.me.phys d.toNat)] 6)))) ∧
  ∀ (i : Instr) (m : Bool) (reads : List (Nat × VCode)) (a : SReg) (dst : Option VCode) (s : State), Claims.laneSlot i = some (m, reads, a, dst) →
    (m = true → s.me.guard = false → fits s → exec i s = .next s) ∧
    ((m = true → s.me.guard = true) → (m = true → pReadable s (s.me.masksel.extractLsb' 0 4) = true) → readable s a = true →
      (∀ q ∈ reads, q.2.toNat < 120 → vReadable s q.2 = true) →
      (∀ f : Exc, s.readAll reads (s.env m (s.rs a) 0) = .error f → raises i s f) ∧
      ∀ (e : VEnv) (mems : List (Nat × List Nat)) (p : Nat), s.readAll reads (s.env m (s.rs a) 0) = .ok (e, mems, p) →
        (∀ (c : VCode) (f : Exc), dst = some c → s.writeV c = .error f → raises i s f) ∧
        ∀ (ds : List VDest) (adds strict : Bool) (base : Nat) (ix : VWord) (t : State),
          (dst = none ∧ ds = [] ∧ t = s.popAll (reads.map Prod.snd) ∨
            ∃ c : VCode, dst = some c ∧ s.writeV c = .ok ds ∧ t = (s.popAll (reads.map Prod.snd)).pushB c) →
          adds = (match i with
            | .vstxa _ _ _ _ => true
            | _ => false) →
          strict = (s.rs a).getLsbD 63 → base = (s.rs a).toNat % 2 ^ 63 →
          ix = (match mems.find? fun q => q.2.contains 2 with
            | some (ad, _) => s.myCl.spad.vec ad
            | none => e.b) →
          (adds = true → fmtV s.me.fmt ≠ 0 → fmtV s.me.fmt ≠ 7 → raises i s (exc cOPER (s.info 10))) ∧
          ((adds = true → fmtV s.me.fmt = 0 ∨ fmtV s.me.fmt = 7) →
            (base % 4 ≠ 0 → raises i s (exc cALIGN (BitVec.ofNat 64 base))) ∧
            (base % 4 = 0 → ∀ (out early : Nat → Bool),
              (∀ l : Nat, out l = (Claims.acts e.lanes ix l && !Claims.within base ix l)) →
              (∀ l : Nat, early l = (dst.isSome && Claims.acts e.lanes ix l && Claims.within base ix l &&
                s.inArmed (base + 4 * lane ix l) 4 (s.age + (6 + p)))) →
              (∀ l : Nat, l < 192 → strict = true → out l = true → (∀ j : Nat, j < l → out j = false) →
                raises i s (exc cBOUNDS (BitVec.ofNat 64 (l * 2 ^ 32 + lane ix l)))) ∧
              ((strict = true → ∀ l : Nat, l < 192 → out l = false) →
                (∀ l : Nat, l < 192 → early l = true → (∀ j : Nat, j < l → early j = false) →
                  raises i s (exc cEARLY (BitVec.ofNat 64 (l * 2 ^ 32 + lane ix l)))) ∧
                ((∀ l : Nat, l < 192 → early l = false) →
                  (mems ≠ [] → fits (t.access 2 (.pop mems i e ds 10)) → exec i s = .next (t.access 2 (.pop mems i e ds 10))) ∧
                  (mems = [] → ∀ u : State, u = (if (List.range 192).any out then t.modMe fun c => { c with gst := true } else t) →
                    fits (u.access (6 + p) (Claims.laneWork i base e ds)) →
                    exec i s = .next (u.access (6 + p) (Claims.laneWork i base e ds))))))))

/-- Vector accesses perform (R82, R185 to R189, R265). A store writes the bytes under its mask, on banks that are up; a vector load or fill brings its register the
768 bytes at its address, a scalar or predicate fill its 8 or 24; a gather brings each acting lane its word, other lanes 0, and leaves merged-off lanes; of
a scatter the highest lane of a word stays; an adding scatter adds its lanes in ascending order, where no word is uncorrectable; every other byte reads as
before. For a core outside a twin pair, and for writes a context of no duplicated task. -/
def Obligations.VectorStoresWrite : Prop :=
  (∀ (p : Perf) (q : Pending) (a : Nat) (v : VWord) (mask : ByteMask) (bad spill : Bool), q.acc = .vstore a v mask bad spill →
    p.m.tracks q.core q.ctx = false → (p.m.cl (clusOf q.core)).firstDown a 768 = none → (p.m.cl (clusOf q.core)).spad.wf = true →
    (∀ j : Nat, j < 768 → (((p.writeAcc q).m.cl (clusOf q.core)).spad.byte (a + j)).toNat =
      if mask.getLsbD j then elt 1 v j else ((p.m.cl (clusOf q.core)).spad.byte (a + j)).toNat) ∧
    (∀ k b : Nat, k ≠ clusOf q.core ∨ b < a ∨ a + 768 ≤ b → ((p.writeAcc q).m.cl k).spad.byte b = (p.m.cl k).spad.byte b) ∧
    ((p.writeAcc q).m.cl (clusOf q.core)).spad.wf = true) ∧
  (∀ (p : Perf) (q : Pending) (c : Cluster), (p.m.core q.core).twin = 0 → c = p.old.cl (clusOf q.core) →
    (∀ (a d land tok : Nat), q.acc = .vload a d land ∨ q.acc = .fillV a d tok land → c.firstDown a 768 = none →
      sameMemory p.m (p.readAcc q).m ∧ ∃ v : VWord, (∀ j : Nat, j < 768 → elt 1 v j = (c.spad.byte (a + j)).toNat) ∧
        ((p.readAcc q).m.ctx q.core q.ctx).inflight = (p.m.ctx q.core q.ctx).inflight ++
          [{ due := q.due + land, ord := q.ord, what := .v d v fullMask, poison := decide (c.badB a 768 ≠ []) }]) ∧
    (∀ (a d land tok : Nat), q.acc = .fillS a d tok land → c.firstDown a 8 = none →
      sameMemory p.m (p.readAcc q).m ∧
        ((p.readAcc q).m.ctx q.core q.ctx).inflight = (p.m.ctx q.core q.ctx).inflight ++ (if d = 0 then [] else
          [{ due := q.due + land, ord := q.ord, what := .s d (BitVec.ofNat 64 (Claims.bytesSum c.spad a 8)), poison := decide (c.badB a 8 ≠ []) }])) ∧
    (∀ (a d land tok : Nat), q.acc = .fillP a d tok land → c.firstDown a 24 = none →
      sameMemory p.m (p.readAcc q).m ∧
        ((p.readAcc q).m.ctx q.core q.ctx).inflight = (p.m.ctx q.core q.ctx).inflight ++ (if d = 0 then [] else
          [{ due := q.due + land, ord := q.ord, what := .p d (BitVec.ofNat 192 (Claims.bytesSum c.spad a 24)), poison := false }])) ∧
    (∀ (base r land : Nat) (ix : VWord) (e : VEnv) (on : Nat → Bool), q.acc = .gather base ix e [.v r] land →
      (∀ l : Nat, on l = (Claims.acts e.lanes ix l && Claims.within base ix l)) →
      (∀ l : Nat, l < 192 → on l = true → c.firstDown (base + 4 * lane ix l) 4 = none) →
      sameMemory p.m (p.readAcc q).m ∧ ∃ (v : VWord) (mask : ByteMask),
        (∀ l : Nat, l < 192 → lane v l = if on l then Claims.bytesSum c.spad (base + 4 * lane ix l) 4 else 0) ∧
        (∀ j : Nat, j < 768 → mask.getLsbD j = e.lanes.getLsbD (j / 4)) ∧
        ((p.readAcc q).m.ctx q.core q.ctx).inflight = (p.m.ctx q.core q.ctx).inflight ++
          [{ due := q.due + land, ord := q.ord, what := .v r v mask
             poison := e.poison || (List.range 192).any fun l => on l && decide (c.badB (base + 4 * lane ix l) 4 ≠ []) }])) ∧
  ∀ (p : Perf) (q : Pending) (base : Nat) (ix v : VWord) (lanes : Pred) (on : Nat → Bool) (c : Cluster), c = p.m.cl (clusOf q.core) →
    p.m.tracks q.core q.ctx = false → c.spad.wf = true →
    (∀ l : Nat, on l = (Claims.acts lanes ix l && Claims.within base ix l)) →
    (∀ l : Nat, l < 192 → on l = true → c.firstDown (base + 4 * lane ix l) 4 = none) →
    (∀ bad : Bool, q.acc = .scatter base ix v lanes bad →
      (∀ l j : Nat, l < 192 → j < 4 → on l = true → (∀ h : Nat, l < h → h < 192 → on h = true → lane ix h ≠ lane ix l) →
        (((p.writeAcc q).m.cl (clusOf q.core)).spad.byte (base + 4 * lane ix l + j)).toNat = elt 1 v (4 * l + j)) ∧
      (∀ k b : Nat, (k ≠ clusOf q.core ∨ ∀ l : Nat, l < 192 → on l = true → b < base + 4 * lane ix l ∨ base + 4 * lane ix l + 4 ≤ b) →
        ((p.writeAcc q).m.cl k).spad.byte b = (p.m.cl k).spad.byte b)) ∧
    (∀ fmt : BitVec 22, q.acc = .scatterAdd base ix v lanes fmt false →
      (∀ l : Nat, l < 192 → on l = true → c.badB (base + 4 * lane ix l) 4 = []) →
      (∀ w : Nat, w < 2 ^ 31 → base + 4 * w + 3 ≤ 0x2FFFFF →
        Claims.bytesSum ((p.writeAcc q).m.cl (clusOf q.core)).spad (base + 4 * w) 4 =
          ((List.range 192).filter fun l => on l && lane ix l == w).foldl (fun old l => Claims.laneSum fmt old (lane v l))
            (Claims.bytesSum c.spad (base + 4 * w) 4)) ∧
      (∀ k b : Nat, (k ≠ clusOf q.core ∨ ∀ l : Nat, l < 192 → on l = true → b < base + 4 * lane ix l ∨ base + 4 * lane ix l + 4 ≤ b) →
        ((p.writeAcc q).m.cl k).spad.byte b = (p.m.cl k).spad.byte b))

/-- Every write, AMO, tag and scatter access keeps every scratchpad in its canonical form (log 15): addresses rise and no byte zero is
listed, so that equal memories are equal. -/
def Obligations.WritesKeepCanonicalForm : Prop :=
  ∀ (p : Perf) (q : Pending), (∀ k : Nat, (p.m.cl k).spad.wf = true) → ∀ k : Nat, ((p.writeAcc q).m.cl k).spad.wf = true

/-- Control of bobbins (R193 to R201). bset binds a bobbin to a sound entry of the active pattern table whose end no other bobbin holds, and takes that
end: position 0, EOS and GAP clear, usable from c+10; an index above 255, a kind of 0 or 7 and a reserved bit raise OPER 12, the ingress or
egress of another source BOUNDS. bseek sets the position from c+2, bpos and bstat give position
and status at latency 2, 0 for an unbound bobbin's position, `bstat gather` gives GST and clears it at c+2, bflush clears EOS and GAP and drains a consumer end at c+2,
bdone unbinds, unless a strict stream is not at its end (STREAM 5). Under M with a failing guard each does nothing. That a bobbin of a muted
context, a follower's or a duplicate's, takes no gusset end and no egress, and that its bflush drains no gusset, is the model's choice
(log 137). -/
def Obligations.BobbinControl : Prop :=
  (∀ (n : BitVec 3) (i : BitVec 14) (s : State),
    (255 < (s.imm i).toNat → raises (.bset n i) s (exc cOPER (s.info 12))) ∧
    ∀ g : Binding, (s.imm i).toNat ≤ 255 → g = bindingOf (rd (s.myCore.planeOf 2).btab (s.imm i).toNat) →
      (g.kind = 0 ∨ g.kind = 7 ∨ bindingReserved (rd (s.myCore.planeOf 2).btab (s.imm i).toNat) = true →
        raises (.bset n i) s (exc cOPER (s.info 12))) ∧
      (bindingReserved (rd (s.myCore.planeOf 2).btab (s.imm i).toNat) = false →
        (g.kind ∈ [3, 4] → g.src ≠ (s.view.region s.myRegion).src → raises (.bset n i) s (exc cBOUNDS (s.info 0))) ∧
        (g.kind ∈ [1, 2, 3, 4, 5, 6] →
          (g.kind ∈ [1, 2] → (∀ c ∈ g.cnt, c ≠ 0) ∧ g.base % 256 = 0 ∧ g.base ≤ 0x2FFD00 ∧ ∀ t ∈ g.str, t % 256 = 0) →
          (g.kind ∈ [3, 4] → g.src = (s.view.region s.myRegion).src) →
          (g.kind ∈ [5, 6] → g.gus / 16 = dieOf s.n ∧
            (if g.kind = 5 then (s.view.gusset g.gus).consR else (s.view.gusset g.gus).prodR) = s.myRegion) →
          (s.muted = false → s.view.takenB s.n n.toNat g = false ∧ s.next.takenB s.n n.toNat g = false) →
          (s.bobbin n.toNat).bound = none → fits s →
          ∃ t : State, exec (.bset n i) s = .next t ∧ (t.next.core s.n).bob = up (s.next.core s.n).bob n.toNat (fun k =>
              { k with bound := some g, usable := s.age + 10, pos := 0, eos := false, gap := false, seeks := [] }) ∧
            (s.muted = true ∨ g.kind ≤ 3 → t.next.pack = s.next.pack) ∧
            (s.muted = false →
              (g.kind = 4 → (t.next.source g.src).bound = some (s.n, n.toNat)) ∧
              (g.kind = 5 → (t.next.gusset g.gus).cons = some (s.n, n.toNat)) ∧
              (g.kind = 6 → (t.next.gusset g.gus).prod = some (s.n, n.toNat)))))) ∧
  (∀ (m : Bool) (n : BitVec 3) (b d : SReg) (s : State), m = true → s.me.guard = false → fits s →
    exec (.bseek m n b) s = .next s ∧ exec (.bpos m d n) s = .next s ∧ exec (.bstat m d n) s = .next s ∧
    exec (.bstatGather m d) s = .next s ∧ exec (.bflush m n) s = .next s ∧ exec (.bdone m n) s = .next s) ∧
  ∀ (m : Bool) (n : BitVec 3) (b d : SReg) (s : State) (k : Bobbin), (m = true → s.me.guard = true) → k = s.bobbin n.toNat → fits s →
    (∀ g : Binding, k.bound = some g → readable s b = true →
      (g.kind ∈ [1, 2] → exec (.bseek m n b) s = .next (s.mod fun q => q.modBob s.n n.toNat fun k =>
        { k with seeks := k.seeks ++ [(s.age + 2, (s.rs b).toNat, decide (g.len ≤ (s.rs b).toNat))] })) ∧
      (g.kind ∉ [1, 2] → raises (.bseek m n b) s (exc cOPER (s.info 13)))) ∧
    (fits (s.putS d (if k.bound = none then 0 else BitVec.ofNat 64 k.pos) 2) →
      exec (.bpos m d n) s = .next (s.putS d (if k.bound = none then 0 else BitVec.ofNat 64 k.pos) 2)) ∧
    (∀ w : Word, w = BitVec.ofNat 64 ((match k.bound with
        | none => 0
        | some g => g.kind * 256 + (if g.strict then 8 else 0) + 4) + (if k.gap then 2 else 0) + if k.eos then 1 else 0) →
      fits (s.putS d w 2) → exec (.bstat m d n) s = .next (s.putS d w 2)) ∧
    (∀ t : State, t = ((s.putS d (if s.me.gst then 1 else 0) 2).modMe fun c => { c with gstClr := c.gstClr ++ [s.age + 2] }) → fits t →
      exec (.bstatGather m d) s = .next t) ∧
    (∀ (g : Binding) (t : State), k.bound = some g → t = (s.mod fun q => q.modBob s.n n.toNat fun k => { k with eos := false, gap := false }) → fits t →
      (g.kind ≠ 5 ∨ s.muted = true → exec (.bflush m n) s = .next t) ∧
      (g.kind = 5 → s.muted = false →
        exec (.bflush m n) s = .next (t.mod fun q => q.modGusset g.gus fun u => { u with flushes := u.flushes ++ [s.age + 2] }))) ∧
    (k.bound = none → exec (.bdone m n) s = .next s ∧ (readable s b = true →
        raises (.bseek m n b) s (exc cSTREAM (s.streamInfo k.pos 3 n.toNat))) ∧
      raises (.bflush m n) s (exc cSTREAM (s.streamInfo k.pos 3 n.toNat))) ∧
    ∀ g : Binding, k.bound = some g →
      (g.kind ∈ [1, 2] → g.strict = true → k.pos < g.len → raises (.bdone m n) s (exc cSTREAM (s.streamInfo k.pos 5 n.toNat))) ∧
      (g.kind ∉ [1, 2] ∨ g.strict = false ∨ g.len ≤ k.pos →
        ∃ t : State, exec (.bdone m n) s = .next t ∧ (rd (t.next.core s.n).bob n.toNat).bound = none)

/-! ### the matrix unit (R205 to R234) -/

/-- The slots of class 8 (R209, R212, R213, R216, R233, R234). mcall starts a valid routine of the active plane on an idle unit in a format
that its path admits: STATE 1, the first microword at c+4, the working parameters m0 to m7 and zeros, and shapes, format and window as
they are at issue; a running routine raises MBUSY. mresume restarts a held routine of the active plane from its restart point at c+4. mtsh
and mpar set a shape, whose reserved bits stay 0, and a parameter from c+2, a bad shape OPER 15; a row is moved in at c + 2 + P, from a register or
a popped vector, and out at c+2, to a register or a push, mzero writes zeros at c+2, each of a row of a set tile, else OPER 16; mstat gives a
word of the routine's state. -/
def Obligations.MatrixSlots : Prop :=
  (∀ (i : BitVec 10) (s : State) (e : Nat) (x : Matrix), e = (rd (s.myCore.planeOf 1).rout i.toNat).toNat → x = (s.next.core s.n).mx →
    (s.myCore.mx.state = 1 → raises (.mcall i) s (exc cMBUSY (s.info 0)) ∧ raises .mresume s (exc cMBUSY (s.info 0))) ∧
    (s.myCore.mx.state ≠ 1 → fldB e 16 = false ∨ 5 ≤ fld e 17 3 ∨ fld e 20 12 ≠ 0 ∨ fld e 13 3 ≠ 0 →
      raises (.mcall i) s (exc cOPER (s.info 14))) ∧
    (s.myCore.mx.state ≠ 1 → fldB e 16 = true → fld e 17 3 < 5 → fld e 20 12 = 0 → fld e 13 3 = 0 →
      (pathAdmits (fld e 17 3) (fmtA s.me.fmt) (fmtB s.me.fmt) = false → raises (.mcall i) s (exc cOPER (s.info 10))) ∧
      (pathAdmits (fld e 17 3) (fmtA s.me.fmt) (fmtB s.me.fmt) = true → fits s →
        ∃ u : Matrix, exec (.mcall i) s = .next (s.mod fun m => m.modMx s.n fun _ => u) ∧ u.state = 1 ∧ u.rout = i.toNat ∧
          u.npc = fld e 0 13 ∧ u.stepa = fld e 0 13 ∧ u.path = fld e 17 3 ∧ u.nextAt = s.age + 4 ∧ u.fmt = s.me.fmt ∧
          u.shapes = s.myCore.shapes ∧ (∀ j : Nat, j < 16 → rd u.w j = if j < 8 then rd s.myCore.m j else 0) ∧ u.wsnap = u.w ∧ u.xdone = 0 ∧
          u.supp = 0 ∧ u.cause = 0 ∧ u.ctx = s.x ∧ u.vwb = s.me.vwb ∧ u.vws = s.me.vws ∧ u.mres = x.mres)) ∧
    (s.myCore.mx.state = 2 → s.myCore.mx.plane = bnat (s.myCore.active.getLsbD 1) → fits s →
      exec .mresume s = .next (s.mod fun m => m.modMx s.n fun _ => { x with
        state := 1, cause := 0, npc := x.stepa, w := x.wsnap, supp := x.xdone, xdone := 0, nextAt := s.age + 4, called := s.age, owner := s.x
        ownerUid := s.uid })) ∧
    (s.myCore.mx.state = 0 ∨ s.myCore.mx.state = 2 ∧ s.myCore.mx.plane ≠ bnat (s.myCore.active.getLsbD 1) →
      raises .mresume s (exc cOPER (s.info 17)))) ∧
  (∀ (q : BitVec 4) (m : BitVec 3) (a : SReg) (s : State), readable s a = true →
    (shapeOk (s.rs a) = true → fits s → exec (.mtsh q a) s = .next (s.setLater true q.toNat (s.rs a &&& 0x000FFFFFFF00FFFF#64))) ∧
    (shapeOk (s.rs a) = false → raises (.mtsh q a) s (exc cOPER (s.info 15))) ∧
    (fits s → exec (.mpar m a) s = .next (s.setLater false m.toNat (s.rs a)))) ∧
  (∀ (x : Bool) (q : BitVec 4) (a : VCode) (b : SReg) (s : State) (sh : Word) (at_ : Nat × Nat), sh = rd s.myCore.shapes q.toNat →
    at_ = (if x then (scaleAt sh (s.rs b).toNat, 36) else (rowAt sh (s.rs b).toNat, rowBytes sh)) → readable s b = true →
    (a.toNat < 120 → vReadable s a = true) →
    (∀ (e : VEnv) (mems : List (Nat × List Nat)) (p : Nat), s.readAll [(1, a)] (s.env false 0 0) = .ok (e, mems, p) →
      ((s.rs b).toNat < shRows sh → ∀ t : State, t = (s.popAll [a]).produce (.mldv x q a b) e mems (2 + p) [.tile at_.1 at_.2] → fits t →
        exec (.mldv x q a b) s = .next t) ∧
      (shRows sh ≤ (s.rs b).toNat → raises (.mldv x q a b) s (exc cOPER (s.info 16)))) ∧
    (∀ f : Exc, s.readAll [(1, a)] (s.env false 0 0) = .error f → raises (.mldv x q a b) s f)) ∧
  (∀ (x : Bool) (q : BitVec 4) (a : VCode) (b : SReg) (s : State) (sh : Word) (at_ : Nat × Nat), sh = rd s.myCore.shapes q.toNat →
    at_ = (if x then (scaleAt sh (s.rs b).toNat, 36) else (rowAt sh (s.rs b).toNat, rowBytes sh)) → readable s b = true →
    (∀ ds : List VDest, s.writeV a = .ok ds →
      ((s.rs b).toNat < shRows sh → ∀ t : State, t = (s.pushB a).mod (fun m => { m with tile := up m.tile s.n fun l => l ++ ds.map fun d =>
          { ctx := s.x, ord := s.ord, due := s.age + 2, acc := .get at_.1 at_.2 d 2 } }) → fits t → exec (.mstv x a q b) s = .next t) ∧
      (shRows sh ≤ (s.rs b).toNat → raises (.mstv x a q b) s (exc cOPER (s.info 16)))) ∧
    (∀ f : Exc, s.writeV a = .error f → raises (.mstv x a q b) s f)) ∧
  (∀ (q : BitVec 4) (s : State) (sh : Word), sh = rd s.myCore.shapes q.toNat →
    (shRows sh = 0 → raises (.mzero q) s (exc cOPER (s.info 16))) ∧
    (shRows sh ≠ 0 → fits s → exec (.mzero q) s = .next (s.mod fun m => { m with tile := up m.tile s.n fun l => l ++
      [{ ctx := s.x, ord := s.ord, due := s.age + 2, acc := .zero ((List.range (shRows sh)).map fun r => (rowAt sh r, rowBytes sh)) }] }))) ∧
  ∀ (d : SReg) (sel : BitVec 5) (s : State),
    (16 < sel.toNat → raises (.mstat d sel) s (exc cOPER (s.info 11))) ∧
    ∀ w : Word, w = (if sel.toNat = 0 then (s.myCore.mx.seen s.age).word0
        else if sel.toNat ≤ 8 then rd s.myCore.mx.w (2 * sel.toNat - 1) ++ rd s.myCore.mx.w (2 * sel.toNat - 2)
        else rd s.myCore.mx.wsnap (2 * sel.toNat - 17) ++ rd s.myCore.mx.wsnap (2 * sel.toNat - 18)) →
      sel.toNat ≤ 16 → fits (s.putS d w 2) → exec (.mstat d sel) s = .next (s.putS d w 2)

/-- What a micro-operation does as it begins, and what it leaves in the tile store (R218 to R227): if no check of its entry fails it occupies the unit for the cycles of its entry, with
its operand X; the control micro-operations also take their effect: mloop counts w down and goes to its target unless it is 0, mbr
goes to it by its condition, mpset computes into w, mstep makes the restart point, mend leaves the unit idle. In its cycles it reads and writes the tile store: a product block
reads its operands and scales in its first cycle and the accumulator in its last, in which it writes every element of its rows; g is formed once; mzero,
mldv, mstv, mtrn and maddt move, transpose and sum; a block that is suppressed writes nothing; a marked granule stops the routine. What the
unit's cycle puts is what the tile store holds after it. -/
def Obligations.MicrowordsBegin : Prop :=
  (∀ (s : State) (begins : Instr → Nat → Nat → (Matrix → Matrix) → State),
    (∀ i x takes f, begins i x takes f = s.mod fun m => m.modMx s.n fun u =>
      f { u with op := some i, x := x, began := s.age, takes := takes, nextAt := s.age + takes }) →
    (∀ k : BitVec 16, exec (.mnop k) s = .next (begins (.mnop k) 0 (k.toNat + 1) id)) ∧
    (∀ (a b c : BitVec 4) (mode : BitVec 2) (w : BitVec 4) (imm : BitVec 40) (x : Nat), x = s.opX mode w imm →
      (s.mx.path ∈ [1, 2, 4] → x < 2 ^ 24 →
        productShapes x s.mx.fmt s.mx.path (s.mxShape a) (s.mxShape b) (s.mxShape c) none false = true →
        exec (.mmac a b c mode w imm) s =
          .next (begins (.mmac a b c mode w imm) x ((if s.mx.path = 2 then 24 else 12) * fld x 0 8) id)) ∧
      (s.mx.path ∈ [1, 2, 4] → x < 2 ^ 28 →
        productShapes x s.mx.fmt s.mx.path (s.mxShape a) (s.mxShape b) (s.mxShape c) (some (s.mxShape (fldV x 24 4))) false = true →
        exec (.mmacs a b c mode w imm) s =
          .next (begins (.mmacs a b c mode w imm) x ((if s.mx.path = 2 then 12 else 6) * fld x 0 8) id)) ∧
      (s.mx.path = 3 → x < 2 ^ 24 →
        productShapes x s.mx.fmt 3 (s.mxShape a) (s.mxShape b) (s.mxShape c) none true = true →
        exec (.mmacq a b c mode w imm) s = .next (begins (.mmacq a b c mode w imm) x (24 * fld x 0 8) id)) ∧
      (s.mx.path ∈ [0, 3] → exec (.mmac a b c mode w imm) s = .next (s.stopRoutine s.n 4) ∧
        exec (.mmacs a b c mode w imm) s = .next (s.stopRoutine s.n 4)) ∧
      (x < 2 ^ 29 → fldB x 7 = false → fld x 20 8 ≠ 0 → fld x 0 7 + fld x 20 8 ≤ min 120 s.mx.vws →
        (fld x 8 12 + fld x 20 8 ≤ shRows (s.mxShape c) →
          exec (.microMldv c mode w imm) s = .next (begins (.microMldv c mode w imm) x (fld x 20 8) id)) ∧
        (fld x 8 12 + fld x 20 8 ≤ shRows (s.mxShape a) →
          exec (.microMstv a mode w imm) s = .next (begins (.microMstv a mode w imm) x (fld x 20 8) id)))) ∧
    (∀ (a b c : BitVec 4) (sa sb sc : Word), sa = s.mxShape a → sb = s.mxShape b → sc = s.mxShape c →
      (shRows sc ≠ 0 → exec (.microMzero c) s = .next (begins (.microMzero c) 0 4 id)) ∧
      (shRows sc = 0 → exec (.microMzero c) s = .next (s.stopRoutine s.n 2)) ∧
      (shRows sa ≠ 0 → shFmt sa = shFmt sc → shFmt sa ≠ 9 → shRows sc = shCols sa → shCols sc = shRows sa →
        exec (.mtrn a c) s = .next (begins (.mtrn a c) 0 (2 * ((shRows sa + 23) / 24) * ((shCols sa + 23) / 24)) id)) ∧
      (shRows sc ≠ 0 → shFmt sc ∈ [0, 7] → shFmt sa = shFmt sc → shFmt sb = shFmt sc → shRows sa = shRows sc → shRows sb = shRows sc →
        shCols sa = shCols sc → shCols sb = shCols sc → exec (.maddt a b c) s = .next (begins (.maddt a b c) 0 (shRows sc) id))) ∧
    (∀ (w : BitVec 4) (target : BitVec 13) (c : BitVec 2) (op : BitVec 3) (v : BitVec 32),
      exec (.mloop w target) s = .next (begins (.mloop w target) 0 1 fun u =>
        { u with w := wr u.w w.toNat (rd u.w w.toNat - 1), npc := if rd u.w w.toNat = 1 then u.npc else target.toNat }) ∧
      (c.toNat ≤ 2 → exec (.mbr w c target) s = .next (begins (.mbr w c target) 0 1 fun u =>
        { u with npc := if c = 0 ∨ (c = 1 ∧ rd u.w w.toNat = 0) ∨ (c = 2 ∧ rd u.w w.toNat ≠ 0) then target.toNat else u.npc })) ∧
      (op.toNat ≤ 6 → exec (.mpset w op v) s = .next (begins (.mpset w op v) 0 1 fun u =>
        { u with w := wr u.w w.toNat (BitVec.ofNat 32 (
          let a := (rd u.w w.toNat).toNat
          match op.toNat with
          | 0 => v.toNat
          | 1 => a + v.toNat
          | 2 => a + (2 ^ 32 - v.toNat)
          | 3 => a &&& v.toNat
          | 4 => a ||| v.toNat
          | 5 => a * 2 ^ (v.toNat % 32)
          | _ => a + (rd u.w (v.toNat % 16)).toNat)) }))) ∧
    exec .mstep s = .next (begins .mstep 0 1 fun u => { u with stepa := u.upc + 1, wsnap := u.w, xdone := 0 }) ∧
    exec .mend s = .next (begins .mend 0 1 fun u => { u with state := 0, op := none })) ∧
  (∀ (u : Matrix) (n age age' b : Nat) (k : Claims.BlockOf) (t t' : Memory) (v : SMap VReg) (g : Nat → BitVec 32) (T i j : Nat),
    Claims.isBlock u b k → shFmt k.a ≤ 9 → shFmt k.b ≤ 9 → (k.tm = none ∨ shFmt k.b ≠ 9) → T = u.takes / max 1 (fld u.x 0 8) → i = b * T → j = i + (T - 1) → 2 ≤ T → u.xdone < 65535 →
    (0 < u.supp → (u.cycle n age i t v).puts = [] ∧ (u.cycle n age i t v).cause = none ∧ (u.cycle n age i t v).u.supp = u.supp - 1 ∧
      (u.cycle n age i t v).u.xdone = u.xdone + 1 ∧ ((u.cycle n age i t v).u.cycle n age' j t' v).puts = []) ∧
    (u.supp = 0 → t.bad = [] → t'.bad = [] →
      (∀ r : Nat, r < shRows k.c → g r = match u.g with
        | none => Claims.coarseOf u t k r
        | some gs => gs.getD r 0) →
      (∀ gs : List (BitVec 32), u.g = some gs → shRows k.c ≤ gs.length) →
      (u.cycle n age i t v).puts = [] ∧ (u.cycle n age i t v).cause = none ∧
      ((u.cycle n age i t v).u.cycle n age' j t' v).cause = none ∧ ((u.cycle n age i t v).u.cycle n age' j t' v).u.xdone = u.xdone + 1 ∧
      (u.g = none → ((u.cycle n age i t v).u.cycle n age' j t' v).u.g = some ((List.range (shRows k.c)).map (Claims.coarseOf u t k))) ∧
      (∀ gs : List (BitVec 32), u.g = some gs → ((u.cycle n age i t v).u.cycle n age' j t' v).u.g = some gs) ∧
      ((u.cycle n age i t v).u.cycle n age' j t' v).puts = (List.range (shRows k.c)).map fun r =>
        (rowAt k.c r, (List.range (shCols k.c)).flatMap fun col =>
          leBytes 4 (Claims.blockValue u t k (g r) r col (tileElt t' k.c r col)), false)) ∧
    (u.supp = 0 → (∃ r : Nat, r < shRows k.c ∧ shFmt k.a ≠ 9 ∧ t.isBad (rowAt k.a r + 24 * k.ja * fmtWidth (shFmt k.a)) (24 * fmtWidth (shFmt k.a)) = true) →
      (u.cycle n age i t v).puts = [] ∧ (u.cycle n age i t v).cause = some 1)) ∧
  (∀ (u : Matrix) (n age i : Nat) (t : Memory) (v : SMap VReg) (a b c : BitVec 4) (sa sb sc : Word), sa = rd u.shapes a.toNat →
    sb = rd u.shapes b.toNat → sc = rd u.shapes c.toNat → u.xdone < 65535 → u.supp = 0 →
    (u.op = some (.maddt a b c) →
      (t.isBad (rowAt sa i) (rowBytes sa) = true ∨ t.isBad (rowAt sb i) (rowBytes sb) = true →
        (u.cycle n age i t v).puts = [] ∧ (u.cycle n age i t v).cause = some 1) ∧
      (t.isBad (rowAt sa i) (rowBytes sa) = false → t.isBad (rowAt sb i) (rowBytes sb) = false →
        (u.cycle n age i t v).cause = none ∧ (u.cycle n age i t v).u.xdone = u.xdone + 1 ∧
        (u.cycle n age i t v).puts = [(rowAt sc i, (List.range (shCols sc)).flatMap fun e =>
          leBytes 4 (Claims.addedElt u (shFmt sc) (tileElt t sa i e) (tileElt t sb i e)), false)])) ∧
    (u.op = some (.microMzero c) →
      (i + 1 = u.takes → (u.cycle n age i t v).puts = (List.range (shRows sc)).map fun r => (rowAt sc r, List.replicate (rowBytes sc) 0, false)) ∧
      (i + 1 ≠ u.takes → (u.cycle n age i t v).puts = [])) ∧
    (∀ (mode : BitVec 2) (w : BitVec 4) (imm : BitVec 40) (r : Nat) (q : VReg), r = fld u.x 8 12 + i → q = rd v (u.vwb + fld u.x 0 7 + i) →
      (u.op = some (.microMldv c mode w imm) → (u.cycle n age i t v).puts = [if fldB u.x 28 then (scaleAt sc r, leBytes 36 q.val.toNat, q.poison)
        else (rowAt sc r, leBytes (rowBytes sc) q.val.toNat, q.poison)]) ∧
      (u.op = some (.microMstv a mode w imm) → (u.cycle n age i t v).puts = [] ∧ ∀ (from_ len : Nat),
        (from_, len) = (if fldB u.x 28 then (scaleAt sa r, 36) else (rowAt sa r, rowBytes sa)) →
        (u.cycle n age i t v).u.mres = u.mres ++ [{ due := age + 2, reg := u.vwb + fld u.x 0 7 + i, val := bytesVec (t.bytes from_ len)
                                                    poison := t.isBad from_ len, ctx := u.ctx }])) ∧
    (∀ (t' : Memory) (age' : Nat), u.op = some (.mtrn a c) → 2 ≤ u.takes → shRows sa ≠ 0 → shRows sc = shCols sa → t.bad = [] →
      (u.cycle n age 0 t v).puts = [] ∧ ((u.cycle n age 0 t v).u.cycle n age' (u.takes - 1) t' v).cause = none ∧
      ((u.cycle n age 0 t v).u.cycle n age' (u.takes - 1) t' v).puts = (List.range (shRows sc)).map fun r =>
        (rowAt sc r, (List.range (shRows sa)).flatMap fun e => leBytes (fmtWidth (shFmt sa)) (tileElt t sa e r), false))) ∧
  ∀ (p : Perf) (n age : Nat) (o : MxOut), (p.m.core n).mx.state = 1 → (p.m.core n).mx.op ≠ none → (p.m.core n).mx.began ≤ age →
    (p.m.core n).still ≤ age → age < (p.m.core n).mx.began + (p.m.core n).mx.takes →
    o = (p.m.core n).mx.cycle n age (age - (p.m.core n).mx.began) (p.old.core n).tile (p.old.core n).v →
    (p.old.core n).tile.bad = [] → (p.old.core n).tile.soft = [] →
    (p.matrix n age).2 = o.cause ∧ ((p.matrix n age).1.m.core n).mx = o.u ∧
    ((p.matrix n age).1.m.core n).tile = o.puts.foldl (fun t q => t.store q.1 q.2.1 q.2.2) (p.m.core n).tile


/-! ### copies (R243 to R263) -/

/-- The iterations of a copy pattern (R247, R254): there are as many as the product of its counts, level 0 turning fastest, and iteration k lies
at the sums of its levels' strides. -/
def Obligations.CopyPatterns : Prop :=
  ∀ ls : List Level, (∀ l ∈ ls, l.cnt ≠ 0) →
    (offsets ls).length = (ls.map Level.cnt).foldr (· * ·) 1 ∧
    ∀ k : Nat, k < (offsets ls).length →
      (offsets ls)[k]? = some (streamAddr (ls.map Level.cnt) (ls.map Level.src) k, streamAddr (ls.map Level.cnt) (ls.map Level.dst) k)

/-- The slots of class 9. A copy whose checks pass is put on its engine with the iterations of its entry, or with the one of its registers
(R253 to R255, R258, R262); cpyset gives an engine register its value from c+2 (R246); ckarm arms its range when the bundle closes (R256);
stage and bmset put their work on the cluster and the engine (R261, R263). A bad entry raises OPER 22, an index above 255 too, and cpyset's
register above 4 OPER 20. -/
def Obligations.CopySlotsIssued : Prop :=
  (∀ (i : BitVec 14) (s t : State) (e n : Nat) (its : List (Word × Word)), (s.imm i).toNat ≤ 255 →
    e = (rd (s.myCore.planeOf 3).ctab (s.imm i).toNat).toNat → n = fld e 704 17 →
    its = (offsets (levels e)).map (fun (x, y) => (addAddr (addAddr (fldV e 576 64) s.engine.csrc.toNat) x,
      addAddr (addAddr (fldV e 640 64) s.engine.cdst.toNat) y)) →
    (entryBad e = true → raises (.cpy i) s (exc cOPER (s.info 22))) ∧
    ∀ q : CopyReq, entryBad e = false →
      q = { stg := fld e 736 8, gather := false, chkSrc := true, chkDst := true, wait := 0
            odd := decide (n % 32 ≠ 0) || (levels e).any fun l => decide (fldB e 741 = false ∧ l.src % 32 ≠ 0 ∨ l.dst % 32 ≠ 0) } →
      s.chkCopy q its n = .ok () →
      s.startCopy q (its.map fun (x, y) => s.mkIter (fld e 736 8) x y n) { (default : Copy) with kind := .plain } = .ok t → fits t →
      exec (.cpy i) s = .next t) ∧
  (∀ (i : BitVec 14) (s : State), 255 < (s.imm i).toNat → raises (.cpy i) s (exc cOPER (s.info 22))) ∧
  (∀ (d a b : SReg) (s t : State) (v n : Nat) (q : CopyReq), (∀ r ∈ [a, b, d], readable s r = true) → v = (s.rs b).toNat → n = fld v 0 17 →
    fld v 17 7 = 0 → fld v 32 32 = 0 → 1 ≤ n → n ≤ 65536 →
    q = { stg := fld v 24 8, gather := false, chkSrc := true, chkDst := true, wait := 0, odd := false } →
    s.chkCopy q [(s.rs a, s.rs d)] n = .ok () →
    s.startCopy q [s.mkIter (fld v 24 8) (s.rs a) (s.rs d) n] { (default : Copy) with kind := .plain } = .ok t → fits t →
    exec (.cpyd d a b) s = .next t) ∧
  (∀ (d : SReg) (i : BitVec 14) (s : State), readable s d = true →
    (4 < (s.imm i).toNat → raises (.cpyset d i) s (exc cOPER (s.info 20))) ∧
    ((s.imm i).toNat ≤ 4 → fits s → exec (.cpyset d i) s = .next (s.mod fun m => m.modEng s.n s.engineNo fun e =>
      { e with sets := e.sets ++ [{ due := s.age + 2, ctx := s.x, reg := (s.imm i).toNat, val := s.rs d }] }))) ∧
  (∀ (a b : SReg) (s : State), readable s a = true → readable s b = true → (s.rs a).toNat < 2 ^ 22 → 1 ≤ (s.rs b).toNat →
    (s.rs a).toNat + (s.rs b).toNat ≤ 0x300000 → fits s →
    (¬ copiesToArm s → exec (.ckarm a b) s = .next s) ∧
    (copiesToArm s → s.me.armed.length + s.turn.arm.length < 8 →
      exec (.ckarm a b) s = .next (s.modTurn fun u => { u with arm := u.arm ++ [((s.rs a).toNat, (s.rs b).toNat)] })) ∧
    (copiesToArm s → 8 ≤ s.me.armed.length + s.turn.arm.length → raises (.ckarm a b) s (exc cOPER (s.info 25)))) ∧
  (∀ (c : Bool) (k : KReg) (a : SReg) (s t : State) (ad bit : Nat) (w : Nat × Nat × List Nat), readable s a = true →
    s.chkBit (s.rs a) false = .ok (ad, bit) → w = pathOf s.n (s.view.endOf s.n s.uid s.job (BitVec.ofNat 64 ad) 1) (.spad s.clus) →
    s.startCopy { stg := 0, gather := false, chkSrc := true, chkDst := true, wait := 0, odd := false }
      [{ src := BitVec.ofNat 64 ad, dst := 0, len := 1, base := 240, width := w.2.1, wheels := w.2.2, d := 0, lead := 238, out := 0, beats := 1,
         claimed := false, got := [] }] { (default : Copy) with kind := .bmchk k.toNat c bit } = .ok t → fits t →
    exec (.bmchk c k a) s = .next t) ∧
  (∀ (a : SReg) (s : State) (ad bit : Nat), readable s a = true → s.chkBit (s.rs a) true = .ok (ad, bit) → s.engine.copies.length < 8 → fits s →
    ∃ (t : State) (c : Copy), exec (.bmset a) s = .next t ∧
      t.next = (s.next.modCore s.n fun k => { k with copySerial := (s.next.core s.n).copySerial + 1 }).modEng s.n s.engineNo
        (fun e => { e with copies := e.copies ++ [c] }) ∧
      c.kind = .bmset bit ∧ c.ctx = s.x ∧ c.iters.map Iter.d = [s.age + 24] ∧ c.iters.map Iter.dst = [BitVec.ofNat 64 ad] ∧
      ∀ pa : Nat, s.view.xlate s.clus s.uid s.job ad = some pa → c.iters.map Iter.src = [BitVec.ofNat 64 pa]) ∧
  ∀ (d a b : SReg) (s : State) (n ba bit : Nat), (∀ r ∈ [a, b, d], readable s r = true) → n = s.engine.stlen.toNat → s.myRegion = 0 →
    spaceOf (s.rs a) ∈ [0, 4, 5] → spaceOf (s.rs d) ∈ [0, 4, 5] → spaceOf (s.rs a) ≠ spaceOf (s.rs d) → strayBits (s.rs a) = false →
    strayBits (s.rs d) = false → n ≠ 0 → n % 4096 = 0 → (s.rs a).toNat % 4096 = 0 → (s.rs d).toNat % 4096 = 0 →
    (spaceOf (s.rs a) = 4 → overLimit (s.rs a) n = false) → (spaceOf (s.rs d) = 4 → overLimit (s.rs d) n = false) →
    s.chkFoot false [s.rs a] n = .ok () → s.chkFoot true [s.rs d] n = .ok () → s.chkBit (s.rs b) true = .ok (ba, bit) → fits s →
    (s.muted = true → ∃ t : State, exec (.stage d a b) s = .next t ∧ t.next.clus = s.next.clus ∧ t.next.pack = s.next.pack) ∧
    (s.muted = false → 64 ≤ (s.next.cl s.clus).stages.length → raises (.stage d a b) s (exc cOPER (s.info 21))) ∧
    (s.muted = false → (s.next.cl s.clus).stages.length < 64 →
      ∃ (t : State) (g : Stage), exec (.stage d a b) s = .next t ∧ g.src = s.rs a ∧ g.dst = s.rs d ∧ g.len = n ∧ g.bit = bit ∧ g.done = 0 ∧
        (t.next.cl s.clus).stages = (s.next.cl s.clus).stages ++ [g])

/-- Gathers and scatters (R258, R259): with readable registers, a sound descriptor and index list in the cluster's scratchpad, the checks of its
contiguous side and of the table's space passed, the copy starts 4 + ceil(n / 24) cycles later than a plain one, on the path of the
table's base. -/
def Obligations.GatherCopiesIssued : Prop :=
  ∀ (scat : Bool) (d a b : SReg) (s t : State) (w n e : Nat) (table : Word) (q : CopyReq), (∀ r ∈ [a, b, d], readable s r = true) →
    w = s.engine.cdesc.toNat → n = fld w 40 16 → e = 2 ^ fld w 32 3 → 1 ≤ n → fld w 32 3 ≤ 3 →
    (scat = true → fldB w 57 = true → fld w 32 3 = 2 ∧ fmtV s.me.fmt ∈ [0, 7]) → spaceOf (s.rs b) = 1 → strayBits (s.rs b) = false →
    offOf (s.rs b) + 4 * n ≤ 0x300000 → offOf (s.rs b) % 4 = 0 → table = (if scat then s.rs d else s.rs a) →
    s.chkSpace [0, 1, 3] table = .ok () → (spaceOf table = 3 → clusterOf s.n table < 48) →
    q = { stg := fld w 24 8 ||| 16, gather := true, chkSrc := scat, chkDst := !scat, wait := 4 + (n + 23) / 24, odd := false } →
    s.chkCopy q [(s.rs a, s.rs d)] (n * e) = .ok () →
    ∀ (p : Nat × Nat × List Nat) (out : Nat), out = stageOut (fld w 24 8 ||| 16) s.me.fmt (n * e) →
      p = (if scat then pathOf s.n (s.view.endOf s.n s.uid s.job (s.rs a) (n * e)) (s.view.endOf s.n s.uid s.job table 1)
        else pathOf s.n (s.view.endOf s.n s.uid s.job table 1) (s.view.endOf s.n s.uid s.job (s.rs d) out)) →
      s.startCopy q [{ src := s.rs a, dst := s.rs d, len := n * e, base := p.1, width := p.2.1
                       wheels := match s.view.endOf s.n s.uid s.job table 1 with
                         | .dev cs => cs
                         | .spad _ | .tile => p.2.2
                       d := 0
                       lead := p.1 + stageLat (fld w 24 8 ||| 16) - 2, out := out, beats := (max (n * e) out + p.2.1 - 1) / p.2.1,
                          claimed := false, got := [] }]
        { (default : Copy) with
          kind := if scat then .scat else .gath
          lim := s.tableLim scat table
          list := offOf (s.rs b)
          nidx := n
          esz := fld w 32 3
          strict := fldB w 56
          add := scat && fldB w 57
          fill := s.engine.cfill } = .ok t →
      fits t → exec (if scat then .scat d a b else .gath d a b) s = .next t

/-- A copy within the cluster's own scratchpad (R247, R250, R251, R255) has base 6 and moves 256 bytes a cycle: its data phase begins at the later of
c + 6 and the end of the engine's previous one, takes ceil(n / 256) cycles, and draws on no wheel; a ninth copy raises OPER 21. -/
def Obligations.LocalCopies : Prop :=
  ∀ (d a b : SReg) (s : State) (n : Nat), (∀ r ∈ [a, b, d], readable s r = true) → s.rs b = BitVec.ofNat 64 n → 1 ≤ n → n ≤ 65536 →
    n % 32 = 0 → (s.rs a).toNat / 2 ^ 60 = 1 → (s.rs d).toNat / 2 ^ 60 = 1 → (s.rs a).toNat % 2 ^ 60 + n ≤ 0x300000 →
    (s.rs d).toNat % 2 ^ 60 + n ≤ 0x300000 → (s.rs a).toNat % 32 = 0 → (s.rs d).toNat % 32 = 0 → s.next.follows s.n = false → fits s →
    (8 ≤ s.engine.copies.length → raises (.cpyd d a b) s (exc cOPER (s.info 21))) ∧
    (s.engine.copies.length < 8 →
      ∃ (t : State) (c : Copy) (i : Iter), exec (.cpyd d a b) s = .next t ∧ c.iters = [i] ∧ i.d = max (s.age + 6) s.engine.busy ∧
        i.beats = (n + 255) / 256 ∧ i.claimed = false ∧
        (rd (t.next.core s.n).eng s.engineNo).copies = (rd (s.next.core s.n).eng s.engineNo).copies ++ [c])

/-! ### messages (R269 to R277) -/

/-- The slots of class 10, and taskpost. send puts its vector on the way to reach its channel at c + 3 + 2h; recv delivers a channel at c+4 and
marks it received; expect raises the pending count at c+2; a post, a group's members and a message's payload are read at c+2 and after;
fsend, mcast and digest start a message of the group that serves, closing at the count that their operand gives; gfree begins to drain;
frecv takes the oldest message of its class, or gives 2^63; nstat gives a counter. That posts not yet in force count in the pending count that
expect judges is the model's choice (log 31). -/
def Obligations.MessageSlots : Prop :=
  (∀ (c : BitVec 3) (a : VCode) (b : SReg) (s t : State), a.toNat < 120 → vReadable s a = true → readable s b = true →
    ((s.rs b).toNat < 384 → dieOf (s.rs b).toNat = dieOf s.n → (s.view.region s.myRegion).mask.getLsbD (clusOf (s.rs b).toNat) = true →
      t = s.mod (fun m => m.deliver s.n s.x (s.me.task.map Task.uid) s.ord s.age (3 + 2 * coreHops s.n (s.rs b).toNat)
        ((s.env false 0 0).set 1 (rd s.myCore.v (s.me.phys a.toNat)).val) (outV (rd s.myCore.v (s.me.phys a.toNat)).val) false
        [.send (s.rs b).toNat c.toNat]) →
      fits t → exec (.send c a b) s = .next t) ∧
    (512 ≤ (s.rs b).toNat → raises (.send c a b) s (exc cOPER (s.info 7))) ∧
    ((s.rs b).toNat < 512 → 384 ≤ (s.rs b).toNat ∨ dieOf (s.rs b).toNat ≠ dieOf s.n → raises (.send c a b) s (exc cBOUNDS (s.rs b)))) ∧
  (∀ (d : VCode) (c : BitVec 3) (s : State), d.toNat < 120 → s.next.follows s.n = false → s.next.isLead s.n = false → s.flying < 96 →
    ∃ t : State, exec (.recv d c) s = .next t ∧ (rd (t.next.core s.n).chan c.toNat).new = false ∧
      (t.next.ctx s.n s.x).inflight = (s.next.ctx s.n s.x).inflight ++
        [{ due := s.age + 4, ord := s.ord, what := .v (s.me.phys d.toNat) (rd s.myCore.chan c.toNat).val fullMask, poison := false }]) ∧
  (∀ (d : SReg) (i : BitVec 14) (s : State) (pend : Nat), readable s d = true → (s.rs d).toNat < 8 → (s.imm i).toNat ≤ 1023 →
    s.muted = false → pend = rd (s.next.cl s.clus).cpend (s.rs d).toNat + (((s.next.cl s.clus).posts.filter fun p =>
      p.cls == (s.rs d).toNat && decide (s.age < p.due)).map ExpPost.count).sum →
    (pend + (s.imm i).toNat ≤ 1023 → fits s → exec (.expect d i) s = .next (s.modMyCl fun c => { c with posts := c.posts ++
      [{ due := s.age + 2, cls := (s.rs d).toNat, count := (s.imm i).toNat, core := s.n, ctx := s.x }] })) ∧
    (1023 < pend + (s.imm i).toNat → raises (.expect d i) s
      (exc cEXPOVF (BitVec.ofNat 64 ((s.rs d).toNat * 2 ^ 20 + (s.imm i).toNat * 2 ^ 10 + pend))))) ∧
  (∀ (a b : SReg) (s : State) (v n : Nat), readable s a = true → readable s b = true → s.myRegion = 0 → s.muted = false →
    v = (s.rs a).toNat → n = fld v 20 8 → fld v 18 2 = 0 → fld v 28 36 = 0 → 1 ≤ n → n ≤ 64 → (s.rs b).toNat % 8 = 0 →
    (s.rs b).toNat + 4 * n ≤ 0x300000 → (∀ e ∈ s.myCl.spad.members (s.rs b).toNat n, memberBad e = false) →
    (s.next.cl s.clus).groups.length < 64 →
    ((s.next.cl s.clus).group (fldV v 0 12) = none → fits s →
      ∃ (t : State) (g : Group), exec (.gbind a b) s = .next t ∧ g.id = fldV v 0 12 ∧ g.cls = fld v 12 3 ∧ g.route = fld v 15 3 ∧
        g.usable = s.age + 16 ∧ g.draining = false ∧ (t.next.cl s.clus).groups = (s.next.cl s.clus).groups ++ [g] ∧
        (t.next.cl s.clus).pend = (s.next.cl s.clus).pend ++ [{ core := s.n, ctx := s.x, uid := s.uid, ord := s.ord, due := s.age + 2
                                                                acc := .members (s.rs b).toNat n (fld v 0 12) (fld v 12 3) (fld v 15 3) }]) ∧
    ∀ g : Group, (s.next.cl s.clus).group (fldV v 0 12) = some g →
      raises (.gbind a b) s (exc cGROUP (BitVec.ofNat 64 (bnat g.draining * 2 ^ 12 + fld v 0 12)))) ∧
  (∀ (a : SReg) (s : State) (f : Group → Group), readable s a = true → s.muted = false → fits s →
    (∀ x : Group, f x = if x.id = fldV (s.rs a).toNat 0 12 ∧ x.draining = false
      then { x with draining := true, last := max x.last (s.view.region 0).count } else x) →
    exec (.gfree a) s = .next (s.modMyCl fun c => { c with groups := c.groups.map f })) ∧
  (∀ (a b d : SReg) (s : State) (w n : Nat) (g : Group), readable s a = true → readable s b = true → s.myRegion = 0 → w = (s.rs b).toNat →
    s.myCl.group (fldV w 0 12) = some g → g.draining = false → g.usable ≤ s.age →
    (n = fld (s.rs a).toNat 32 13 → 1 ≤ n → n ≤ 4096 → fld w 33 24 ≠ 0 → fld (s.rs a).toNat 0 22 + n ≤ 0x300000 →
      fld (s.rs a).toNat 0 22 % 32 = 0 →
      ∀ (dest : Option (Nat × Nat)) (t : State), t = s.launch { (default : Outgoing) with
          group := g.id, close := (s.view.region 0).count + fld w 33 24, len := n, dest := dest } (fld (s.rs a).toNat 0 22) → fits t →
        (dest = some (fld w 12 12, fld w 24 9) → (fld w 12 12, fld w 24 9) ∈ g.members → exec (.fsend a b) s = .next t) ∧
        (dest = none → fld w 12 21 = 0 → exec (.mcast a b) s = .next t)) ∧
    (n = fld w 12 12 → fld w 48 16 = 0 → (s.rs a).toNat < 2 ^ 22 → 1 ≤ n → 4 + 3 * n < fld w 24 24 → (s.rs a).toNat + 768 * n ≤ 0x300000 →
      (s.rs a).toNat % 256 = 0 →
      ∀ t : State, t = s.launch { (default : Outgoing) with
          group := g.id, dig := true, close := (s.view.region 0).count + fld w 24 24, len := 768 * n, reg := d.toNat
          land := s.age + 4 + 3 * n } (s.rs a).toNat → fits t → exec (.digest d a b) s = .next t)) ∧
  (∀ (d a b : SReg) (s : State), readable s a = true → readable s b = true → (s.rs b).toNat < 8 → (s.rs a).toNat < 2 ^ 22 →
    (s.rs a).toNat % 32 = 0 → s.next.follows s.n = false → s.next.isLead s.n = false → s.muted = false →
    (rd (s.next.cl s.clus).queues (s.rs b).toNat = [] → fits (s.putS d (BitVec.ofNat 64 (2 ^ 63)) 4) →
      exec (.frecv d a b) s = .next (s.putS d (BitVec.ofNat 64 (2 ^ 63)) 4)) ∧
    ∀ (m : Delivered) (ms : List Delivered), rd (s.next.cl s.clus).queues (s.rs b).toNat = m :: ms →
      (0x300000 < (s.rs a).toNat + m.data.length → raises (.frecv d a b) s (exc cBOUNDS (s.rs a))) ∧
      ∀ t : State, (s.rs a).toNat + m.data.length ≤ 0x300000 →
        t = ((List.range ((m.data.length + 255) / 256)).foldl (fun t j => t.access (2 + j)
          (.bytes ((s.rs a).toNat + 256 * j) ((m.data.drop (256 * j)).take 256) m.lost))
          (s.modMyCl fun c => { c with queues := wr c.queues (s.rs b).toNat (rd c.queues (s.rs b).toNat).tail })).putS d m.status 4 →
        fits t → exec (.frecv d a b) s = .next t) ∧
  (∀ (d : SReg) (q : BitVec 5) (s : State),
    (12 < q.toNat → raises (.nstat d q) s (exc cOPER (s.info 11))) ∧
    ∀ w : Word, w = BitVec.ofNat 64 (if q.toNat < 8 then rd s.myCl.cpend q.toNat else (rd s.myCl.cnt (q.toNat - 8)).toNat) → q.toNat ≤ 12 →
      fits (s.putS d w 2) → exec (.nstat d q) s = .next (s.putS d w 2)) ∧
  ∀ (k : KReg) (a : SReg) (s : State), readable s a = true →
    (0x300000 < (s.rs a).toNat + 64 → raises (.taskpost k a) s (exc cBOUNDS (s.rs a))) ∧
    ((s.rs a).toNat + 64 ≤ 0x300000 → (s.rs a).toNat % 64 ≠ 0 → raises (.taskpost k a) s (exc cALIGN (s.rs a))) ∧
    ((s.rs a).toNat + 64 ≤ 0x300000 → (s.rs a).toNat % 64 = 0 → fits (s.access 2 (.post (s.rs a).toNat k.toNat 10)) →
      exec (.taskpost k a) s = .next (s.access 2 (.post (s.rs a).toNat k.toNat 10)))

/-! ### control registers, events, freezes (R153 to R158, R279, R373 to R390) -/

/-- Control registers (R153, R75). mfc gives a readable register's value at latency 2, the lead's value in a follower (R439), and OPER 3 for a number
that names none; mtc of a context register takes the value from c+2, after its own check (OPER 2); mtc of any other register that it writes, on a
control pair, has its effect 2 cycles of the pairs' clock later, a clear of register 0x140 after what that cycle brings; register 0x130 with bit 0
wipes the tag table among the accesses of cycle c+2 (R308); KILL also
notes its action on the frozen context it names; a number that mtc does not write raises OPER 3. -/
def Obligations.ControlRegisters : Prop :=
  (∀ (d : SReg) (i : BitVec 14) (s : State), 0 ≤ (s.imm i).toInt → (s.imm i).toInt < 0x100 ∨ isControl s.n = true →
    (∀ w : Word, s.view.readCtl s.n s.x (s.imm i).toNat = some w →
      (s.next.follows s.n = false → s.next.isLead s.n = false → fits (s.putS d w 2) → exec (.mfc d i) s = .next (s.putS d w 2)) ∧
      (s.next.follows s.n = false → s.next.isLead s.n = true → ∀ t : State,
        t = (s.mod fun m => m.modCore s.n fun c => { c with log := c.log ++ [(m.now s.n, mfcKey, leBytes 8 w.toNat, false)] }).putS d w 2 →
        fits t → exec (.mfc d i) s = .next t) ∧
      (s.next.follows s.n = true → s.next.isLead s.n = false → ∀ (v : Word) (t : State),
        v = (match s.next.leadRead s.n mfcKey with
          | some q => BitVec.ofNat 64 (ofBytes q.1)
          | none => w) →
        t = (s.mod fun m => m.tookRead s.n mfcKey).putS d v 2 → fits t → exec (.mfc d i) s = .next t)) ∧
    (s.view.readCtl s.n s.x (s.imm i).toNat = none → raises (.mfc d i) s (exc cOPER (s.info 3)))) ∧
  (∀ (n x : Nat) (m : Mach), m.follows n = false → n < 384 → (m.ctx n x).task = none →
    m.readCtl n x 0 = some ((m.ctx n x).fmt.setWidth 64) ∧ m.readCtl n x 1 = some ((m.ctx n x).masksel.setWidth 64) ∧
    m.readCtl n x 4 = some (BitVec.ofNat 64 (m.ctx n x).rot) ∧ m.readCtl n x 7 = some (m.ctx n x).lc ∧
    m.readCtl n x 8 = some ((m.ctx n x).slim.setWidth 64) ∧ m.readCtl n x 0x10 = some (BitVec.ofNat 64 n) ∧
    m.readCtl n x 0x11 = some (BitVec.ofNat 64 (m.cyc n)) ∧
    m.readCtl n x 0x20 = some (BitVec.ofNat 64 (m.region (m.regionOf (clusOf n))).cadl) ∧ m.readCtl n x 0x0E = none) ∧
  (∀ (a : SReg) (i : BitVec 14) (s : State) (c : Nat), readable s a = true → c ∈ [1, 4, 5, 6, 7, 8] → s.imm i = BitVec.ofNat 64 c →
    (s.me.refuses c (s.rs a) = false → fits (s.putC c (s.rs a)) → exec (.mtc a i) s = .next (s.putC c (s.rs a))) ∧
    (s.me.refuses c (s.rs a) = true → raises (.mtc a i) s (exc cOPER (s.info 2)))) ∧
  (∀ (a : SReg) (i : BitVec 14) (s : State) (c : Nat) (v : Word), readable s a = true → isControl s.n = true → (s.imm i).toInt = c → v = s.rs a →
    (regionWritable c = true ∨ pairWritable s.clus c = true → fits s →
      (c ≠ 0x104 → (c = 0x100 → fld v.toNat 17 5 ≤ 23) → (c = 0x110 ∨ c = 0x111 → (s.next.cl s.clus).ringCount = 0) →
        exec (.mtc a i) s = .next ((if c = 0x130 ∧ v.getLsbD 0 = true then s.access 2 .tagwipe else s).later (if c = 0x140 then 3 else 2)
          (writeEvent s.clus s.myRegion c v))) ∧
      (∀ r : FreezeRec, c = 0x104 → s.chkAct v = .ok r → exec (.mtc a i) s =
        .next ((s.mod fun m => m.noteAct s.clus (fld v.toNat 0 9) (fld v.toNat 9 3) (.kill (v.getLsbD 12))).later 2
          [.killWrite (Fin.ofNat 48 s.clus) v])) ∧
      (∀ f : Exc, c = 0x104 → s.chkAct v = .error f → raises (.mtc a i) s f) ∧
      (c = 0x100 → 23 < fld v.toNat 17 5 → raises (.mtc a i) s (exc cOPER (s.info 20))) ∧
      (c = 0x110 ∨ c = 0x111 → (s.next.cl s.clus).ringCount ≠ 0 → raises (.mtc a i) s (exc cOPER (s.info 20)))) ∧
    (c ∉ [1, 4, 5, 6, 7, 8] → regionWritable c = false → pairWritable s.clus c = false → raises (.mtc a i) s (exc cOPER (s.info 3)))) ∧
  (∀ (k r c : Nat) (v : Word), writeEvent k r 0x102 v = [.registerWrite (Fin.ofNat 48 k) 0x102 v] ∧
    writeEvent k r 0x100 v = [.savebWrite (Fin.ofNat 48 k) v] ∧ writeEvent k r 0x028 v = [.holdtWrite (Fin.ofNat 16 r) v] ∧
    (0x200 ≤ c → c < 0x1600 → writeEvent k r c v = [.registerWrite (Fin.ofNat 48 k) (BitVec.ofNat 14 c) v]) ∧
    (c < 16 → writeEvent k r (0x1600 + 4 * c) v = [.crcfgWrite (Fin.ofNat 16 c) v]) ∧
    (c < 64 → writeEvent k r (0x1700 + 8 * c) v = [.gcfgWrite (Fin.ofNat 64 c) v] ∧
      writeEvent k r (0x1701 + 8 * c) v = [.gstepWrite (Fin.ofNat 64 c) v])) ∧
  ∀ (c : Ctx) (v : Word),
    (c.refuses 4 v = decide (c.vws < v.toNat ∨ v.toNat % 8 ≠ 0)) ∧ (c.refuses 6 v = decide (7 < v.toNat)) ∧
    (c.refuses 5 v = if c.rot = 0 then decide (v ≠ 0) else decide (c.rot ≤ v.toNat)) ∧
    ((c.putCtl 4 v).rot = v.toNat ∧ (c.putCtl 4 v).rrb = 0) ∧ (c.putCtl 7 v).lc = v ∧ (c.putCtl 1 v).masksel = v.setWidth 8

/-- The slots of the control pair (R154 to R158, R279). rfe returns from the handler: the pc at EPC, whose bits 1 and 0 it does not hold, TRAPC and TRAPI 0; thaw and rewind note their
action on the frozen context named and take effect 8 cycles later, and raise OPER 6 where the region is not frozen, the core is not the pair's, the
context has no record in the freeze, or its record has an action already (R384), whatever its KIND; swap notes the planes of its mask, complete
shadows all, for the notches or the hem; twin for the hem; bank changes power at c+2; taskdone satisfies the named edges the cycle
after the context's copies and spills end. -/
def Obligations.PairSlots : Prop :=
  (∀ s : State, isControl s.n = true → s.flying ≤ 96 → s.myCore.flips.getLsbD 4 = false →
    ∃ t : State, exec .rfe s = .next t ∧ t.next = s.next.returnEvent s.clus ∧
      t.turn.target = some ((s.view.pair s.clus).epc.toNat / 4 * 4)) ∧
  (∀ (a : SReg) (s : State) (r : FreezeRec), isControl s.n = true → readable s a = true → fits s → s.chkAct (s.rs a) = .ok r →
    ((s.rs a).toNat < 2 ^ 13 → r.kind = 1 → r.trapc.toNat ≠ cTWIN →
      exec (.thaw a) s = .next (s.actOn r (.thaw ((s.rs a).getLsbD 12)))) ∧
    ((s.rs a).toNat < 2 ^ 13 → r.kind ≠ 1 → raises (.thaw a) s (exc cOPER (s.info 6))) ∧
    ((s.rs a).toNat < 2 ^ 13 → r.kind = 1 → r.trapc.toNat = cTWIN → raises (.thaw a) s (exc cOPER (s.info 29))) ∧
    ((s.rs a).toNat < 2 ^ 12 → (s.next.ctx r.core r.ctx).rwf = false → exec (.rewind a) s = .next (s.actOn r .rewind)) ∧
    ((s.rs a).toNat < 2 ^ 12 → (s.next.ctx r.core r.ctx).rwf = true → raises (.rewind a) s (exc cOPER (s.info 27)))) ∧
  (∀ (a : SReg) (s : State) (v n x : Nat) (g : Region), isControl s.n = true → readable s a = true → v = (s.rs a).toNat → n = v % 2 ^ 9 →
    x = v / 2 ^ 9 % 8 → g = s.next.region (s.next.regionOf (clusOf n)) →
    (2 ^ 13 ≤ v → raises (.thaw a) s (exc cOPER (s.info 7))) ∧ (2 ^ 12 ≤ v → raises (.rewind a) s (exc cOPER (s.info 7))) ∧
    (384 ≤ n ∨ clusOf n ≠ s.clus ∨ g.frozen = false ∨ (∀ r ∈ g.recs, r.core ≠ n ∨ r.ctx ≠ x) ∨
        (∃ r : FreezeRec, g.recOf n x = some r ∧ r.act ≠ none) →
      (v < 2 ^ 13 → raises (.thaw a) s (exc cOPER (s.info 6))) ∧ (v < 2 ^ 12 → raises (.rewind a) s (exc cOPER (s.info 6)))) ∧
    ∀ r : FreezeRec, n < 384 → clusOf n = s.clus → g.frozen = true → g.recOf n x = some r → r.act = none → s.chkAct (s.rs a) = .ok r) ∧
  (∀ (d : SReg) (i : BitVec 14) (s : State) (mask : BitVec 6), isControl s.n = true → readable s d = true → mask = (s.rs d).setWidth 6 →
    (1 < (s.imm i).toNat → raises (.swap d i) s (exc cOPER (s.info 7))) ∧
    ((s.imm i).toNat ≤ 1 → s.next.incomplete s.clus mask = true → raises (.swap d i) s (exc cOPER (s.info 8))) ∧
    (s.imm i = 1 → s.next.incomplete s.clus mask = false → s.flying ≤ 96 →
      ∃ t : State, exec (.swap d i) s = .next t ∧ (t.next.cl s.clus).flips = (s.next.cl s.clus).flips ||| (mask &&& 0xF#6) ∧
        (t.next.core (384 + s.clus)).flips.getLsbD 4 = ((s.next.core (384 + s.clus)).flips.getLsbD 4 || mask.getLsbD 4)) ∧
    (s.imm i = 0 → s.next.incomplete s.clus mask = false → s.flying ≤ 96 →
      ∃ t : State, exec (.swap d i) s = .next t ∧ ∀ n : Nat, n < 384 → n / 8 = s.clus →
        (t.next.core n).flips = (s.next.core n).flips ||| (mask &&& 0xF#6))) ∧
  (∀ (d : SReg) (i : BitVec 14) (s : State), readable s d = true → fits s →
    (isControl s.n = true → (s.imm i).toNat ≤ 1 → (s.rs d).toNat < 4 →
      ((s.imm i = 1 → ∀ x : Nat, x < 8 → (s.next.ctx (8 * s.clus + 2 * (s.rs d).toNat + 1) x).task = none) →
        exec (.twin d i) s = .next (s.modMyCl fun c => { c with twinReq := c.twinReq ++ [((s.rs d).toNat, decide (s.imm i = 1))] })) ∧
      (s.imm i = 1 → (∃ x : Nat, x < 8 ∧ (s.next.ctx (8 * s.clus + 2 * (s.rs d).toNat + 1) x).task ≠ none) →
        raises (.twin d i) s (exc cOPER (s.info 9)))) ∧
    ((s.imm i).toNat ≤ 1 → fits (s.access 2 (.bank ((s.rs d).setWidth 8) (decide (s.imm i = 1)))) →
      exec (.bank d i) s = .next (s.access 2 (.bank ((s.rs d).setWidth 8) (decide (s.imm i = 1))))) ∧
    (1 < (s.imm i).toNat → raises (.bank d i) s (exc cOPER (s.info 7)))) ∧
  ∀ (a : SReg) (s : State), readable s a = true → fits s → (s.rs a).toNat < 256 → s.view.follows s.n = false →
    (s.spilling = false →
      (∀ j : Nat, j < 8 → (s.rs a).toNat.testBit j = true → ∃ f ∈ s.fps, f.j = j ∧ f.write = true) →
      exec (.taskdone a) s = .next (s.modMe fun c => { c with taskdone := c.taskdone ++ [{ issued := s.age, from_ := s.age + 1, mask := (s.rs a).toNat }] })) ∧
    ((∃ j : Nat, j < 8 ∧ (s.rs a).toNat.testBit j = true ∧ ∀ f ∈ s.fps, f.j = j → f.write = false) →
      raises (.taskdone a) s (exc cOPER (s.info 26)))

/-- Taking an exception (R373 to R378, R382). A region that freezes stops at the count found, and every context of it that holds a task gets a record:
KIND 1 with cause and word where a fault is charged to it, else KIND 2, complete 32 pair cycles later. A pair that takes an event saves
its pc in EPC, takes cause and word into TRAPC and TRAPI and the origin into EVO, and continues at HVEC 3 cycles later; the return goes
back to EPC. An event that finds 64 waiting is dropped and sets OVF. -/
def Obligations.ExceptionsTaken : Prop :=
  (∀ (m : Mach) (r : Nat) (fs : List (Nat × Nat × Exc × Bool)) (g : Region), g = (m.freeze r fs).region r →
    g.frozen = true ∧ g.fcyc = (m.region r).count ∧ g.recsAt = some (m.pclk + 31) ∧
    g.recs.map (fun q => (q.core, q.ctx)) = m.held r ∧ (∀ q ∈ g.recs, q.kind = 1 ∨ q.kind = 2) ∧
    (∀ q ∈ g.recs, q.kind = 2 → ∀ f ∈ fs, f.1 = q.core → f.2.1 ≠ q.ctx) ∧
    (∀ q ∈ g.recs, q.kind = 1 → ∃ f ∈ fs, f.1 = q.core ∧ f.2.1 = q.ctx ∧ q.trapc = BitVec.ofNat 8 f.2.2.1.cause ∧ q.trapi = f.2.2.1.info) ∧
    (m.freeze r fs).cores = m.cores ∧ (m.freeze r fs).clus = m.clus) ∧
  (∀ (m : Mach) (k : Nat) (e : Event) (c : Ctx) (p : Pair), c = (m.takeEvent k e).ctx (384 + k) 0 → p = (m.takeEvent k e).pair k →
    c.pc = (m.pair k).hvec ∧ c.trapc = BitVec.ofNat 8 e.cause ∧ c.trapi = e.info ∧ c.run = .at (m.pclk + 3) ∧
    p.epc = (m.ctx (384 + k) 0).pc ∧ p.handler = true ∧
    p.evo.toNat = bnat e.rwf * 2 ^ 21 + bnat e.frz * 2 ^ 20 + e.region % 16 * 2 ^ 16 + e.ctx % 8 * 2 ^ 9 + e.core % 512) ∧
  (∀ (m : Mach) (k : Nat), ((m.returnEvent k).ctx (384 + k) 0).pc.toNat = (m.pair k).epc.toNat / 4 * 4 ∧ ((m.returnEvent k).ctx (384 + k) 0).trapc = 0 ∧
    ((m.returnEvent k).ctx (384 + k) 0).trapi = 0 ∧ ((m.returnEvent k).pair k).handler = false) ∧
  ∀ (m : Mach) (k : Nat) (e : Event),
    ((m.pair k).evs.length < 64 → ((m.post k e).pair k).evs = (m.pair k).evs ++ [e] ∧ ((m.post k e).pair k).ovf = (m.pair k).ovf) ∧
    (64 ≤ (m.pair k).evs.length → ((m.post k e).pair k).evs = (m.pair k).evs ∧ ((m.post k e).pair k).ovf = true)

/-! ### what the machine does besides slots -/

/-- Registers with a rule of their own, as they are written (R41, R46, R54 to R56, R59, R299, R381, R400, R432): the save area, and nothing for a
value above 23; a hold limit within its bounds; a request to resynchronise; a gusset configured while it is off, and only turned off while it
is on; a fixed step but not under TRACK; a recovery unit, whose KIND stays 0 on source 0; the ring's registers while it is empty; the
spare, once; a kill, for a context of a frozen region only; PHASE, SLACK, HVEC, EPC. Model's choices: that a write to an enabled gusset can only
clear EN, which empties it, and with EN 1 does nothing (log 55); that the bounds of a hold limit are held against the whole word written (log 166). -/
def Obligations.RegistersWritten : Prop :=
  ∀ (k : ClusterId) (r : RegionId) (g : Fin 64) (u : SourceId) (v : Word) (s : State),
    (23 < fld v.toNat 17 5 → exec (.savebWrite k v) s = .next s) ∧
    (fld v.toNat 17 5 ≤ 23 → exec (.savebWrite k v) s = .next (s.mod fun m => m.modPair k.val fun p => { p with save := fld v.toNat 17 5 })) ∧
    exec (.holdtWrite r v) s = .next (s.mod fun m => m.modRegion r.val fun q => { q with
      holdt := if v.toNat = 0 then 1 else if 10000000 < v.toNat then 10000000 else v.toNat }) ∧
    exec (.rsync r) s = .next (s.mod fun m => m.modRegion r.val fun q => { q with rsync := true }) ∧
    (∃ t : State, exec (.gcfgWrite g v) s = .next t ∧
      ((s.next.gusset g.val).en = true → v.getLsbD 22 = true → t.next.gusset g.val = s.next.gusset g.val) ∧
      ((s.next.gusset g.val).en = true → v.getLsbD 22 = false → (t.next.gusset g.val).en = false ∧ (t.next.gusset g.val).ents = []) ∧
      ((s.next.gusset g.val).en = false → v.getLsbD 22 = false →
        (t.next.gusset g.val).en = false ∧ (t.next.gusset g.val).cfg.toNat = v.toNat % 2 ^ 22) ∧
      ((s.next.gusset g.val).en = false → v.getLsbD 22 = true → ∀ d : Nat, d = (if fld v.toNat 1 6 = 0 then 64 else fld v.toNat 1 6) →
        (16 ≤ d → 1 ≤ fld v.toNat 7 6 → fld v.toNat 7 6 < d → fld v.toNat 13 4 ≠ fld v.toNat 17 4 →
          (t.next.gusset g.val).en = true ∧ (t.next.gusset g.val).err = false ∧ (t.next.gusset g.val).ents = []) ∧
        (d < 16 ∨ fld v.toNat 7 6 = 0 ∨ d ≤ fld v.toNat 7 6 ∨ fld v.toNat 13 4 = fld v.toNat 17 4 →
          (t.next.gusset g.val).en = false ∧ (t.next.gusset g.val).err = true))) ∧
    ((s.next.gusset g.val).cfg.getLsbD 21 = false → exec (.gstepWrite g v) s = .next s) ∧
    ((s.next.gusset g.val).cfg.getLsbD 21 = true →
      exec (.gstepWrite g v) s = .next (s.mod fun m => m.modGusset g.val fun q => { q with gstep := v.setWidth 40 })) ∧
    (∃ t : State, exec (.crcfgWrite u v) s = .next t ∧ (t.next.source u.val).sbytes = fld v.toNat 8 10 ∧
      (t.next.source u.val).port = fld v.toNat 4 4 ∧ (t.next.source u.val).eport = fld v.toNat 18 4 ∧
      (t.next.source u.val).lbw = fld v.toNat 2 2 ∧
      (t.next.source u.val).kind = if u.val = 0 then (s.next.source u.val).kind else fld v.toNat 0 2) ∧
    (∀ c : Bool, ((s.next.cl k.val).ringCount ≠ 0 → exec (.dringConfigWrite k c v) s = .next s) ∧
      ((s.next.cl k.val).ringCount = 0 → ∃ t : State, exec (.dringConfigWrite k c v) s = .next t ∧ (t.next.cl k.val).ringHead = 0 ∧
        (c = true → (rd (t.next.cl k.val).regs 0x111).toNat = v.toNat % 2 ^ 24) ∧
        (c = false → (rd (t.next.cl k.val).regs 0x110).toNat = v.toNat % 2 ^ 57 - v.toNat % 2 ^ 12))) ∧
    (∃ t : State, exec (.spare k v) s = .next t ∧ ((s.next.region (s.next.regionOf k.val)).pre = false →
      (v.getLsbD 8 = true → (s.next.cl k.val).spareUsed = false → (s.next.cl k.val).spareReq = none →
        (t.next.cl k.val).spareReq = some (v.toNat % 8)) ∧
      (v.getLsbD 8 = true → (s.next.cl k.val).spareUsed = true ∨ (s.next.cl k.val).spareReq ≠ none →
        (t.next.cl k.val).spare.getLsbD 10 = true ∧ (t.next.cl k.val).spareReq = (s.next.cl k.val).spareReq))) ∧
    ((s.next.region (s.next.regionOf k.val)).frozen = false → exec (.killWrite k v) s = .next s) ∧
    (∀ q : FreezeRec, fld v.toNat 0 9 < 384 → clusOf (fld v.toNat 0 9) = k.val → (s.next.region (s.next.regionOf k.val)).frozen = true →
      (s.next.region (s.next.regionOf k.val)).recOf (fld v.toNat 0 9) (fld v.toNat 9 3) = some q →
      exec (.killWrite k v) s =
        .next (s.later 6 [.freezeActionEffect (Fin.ofNat 384 (fld v.toNat 0 9)) (Fin.ofNat 8 (fld v.toNat 9 3)) (.kill (v.getLsbD 12))])) ∧
    exec (.registerWrite k 0x22 v) s =
      .next (s.mod fun m => m.modRegion (s.next.regionOf k.val) fun q => { q with phase := v.toNat % 2 ^ 24 }) ∧
    exec (.registerWrite k 0x24 v) s =
      .next (s.mod fun m => m.modRegion (s.next.regionOf k.val) fun q => { q with slack := v.toNat % 2 ^ 24 }) ∧
    exec (.registerWrite k 0x102 v) s = .next (s.mod fun m => m.modPair k.val fun p => { p with hvec := (v.setWidth 16) &&& 0xFFFC#16 }) ∧
    exec (.registerWrite k 0x103 v) s = .next (s.mod fun m => m.modPair k.val fun p => { p with epc := v.setWidth 16 })

/-- What a clear clears, and nothing else: every other counter reads as before (R41, R46, R54, R56, R308, R357, R443), PEND of a class becoming
the count of the posts that come into force only in the cycle in which the clear is taken; and the host's window (R413 to R416): the ring's
registers while no command is pending, the window of BAR2 at a multiple of its size, a stream's tail, a doorbell below CRSIZE; none while the
link is fenced (R420). A tail or a doorbell stays behind the host's writes and reads that came before it and still wait for a slot (R414 to
R416). That HSTAIL lies at 0x2000 + 64h + 16 is the model's choice (log 46), and so is when an access takes its slot (log 158). -/
def Obligations.ClearsAndWindow : Prop :=
  (∀ (k : ClusterId) (c : Fin 8) (s : State),
    exec (.tagTableClear k) s = .next (s.mod fun m => m.modCl k.val fun q => { q with tags := [] }) ∧
    (∀ new : Nat, new = (((s.next.cl k.val).posts.filter fun p => p.cls == c.val && p.due == s.next.now p.core &&
        (isControl p.core || (s.next.region (s.next.regionOf k.val)).runs)).map ExpPost.count).sum →
      exec (.clrpend k c) s = .next (s.mod fun m => m.modCl k.val fun q => { q with
        cpend := wr q.cpend c.val new, cdebt := wr q.cdebt c.val 0 })) ∧
    exec (.clrlate k) s = .next (s.mod fun m => m.modCl k.val fun q => { q with cnt := wr q.cnt 0 0 }) ∧
    exec (.clrloss k) s = .next (s.mod fun m => m.modCl k.val fun q => { q with cnt := wr q.cnt 1 0 }) ∧
    exec (.clrdig k) s = .next (s.mod fun m => m.modCl k.val fun q => { q with cnt := wr q.cnt 2 0 }) ∧
    exec (.clrnov k) s = .next (s.mod fun m => m.modCl k.val fun q => { q with cnt := wr q.cnt 3 0 }) ∧
    exec (.clrcrc k) s = .next (s.mod fun m => m.modCl k.val fun q => { q with cnt := wr q.cnt 4 0 })) ∧
  (∀ (k : ClusterId) (num : BitVec 14) (s : State) (n r : Nat), n = num.toNat → r = s.next.regionOf k.val →
    ∃ t : State, exec (.counterClear k num) s = .next t ∧ t.next.cores = s.next.cores ∧ t.next.pairs = s.next.pairs ∧
      (n = 0x25 → (t.next.region r).slipc = 0) ∧ (n = 0x26 → (t.next.region r).skipc = 0) ∧
      (∀ q : Nat, q ≠ r ∨ n ≠ 0x25 → (t.next.region q).slipc = (s.next.region q).slipc) ∧
      (∀ q : Nat, q ≠ r ∨ n ≠ 0x26 → (t.next.region q).skipc = (s.next.region q).skipc) ∧
      (∀ q : Nat, (t.next.cl q).cpend = (s.next.cl q).cpend ∧ (t.next.cl q).cnt = (s.next.cl q).cnt) ∧
      (∀ j : Nat, n = fleetNumber j → rd (t.next.cl k.val).fleet j = 0) ∧
      (∀ q j : Nat, q ≠ k.val ∨ n ≠ fleetNumber j → rd (t.next.cl q).fleet j = rd (s.next.cl q).fleet j) ∧
      (n ∈ [0x172, 0x173, 0x174] ∨ 0x180 ≤ n ∧ n < 0x1C0 → rd t.next.pack.counters n = 0) ∧
      (∀ j : Nat, n ≠ j → rd t.next.pack.counters j = rd s.next.pack.counters j) ∧
      (∀ u : Nat, u < 16 → (n = 0x1602 + 4 * u → (t.next.source u).err = 0) ∧
        (n ≠ 0x1602 + 4 * u → (t.next.source u).err = (s.next.source u).err)) ∧
      (∀ g : Nat, g < 64 → (n = 0x1703 + 8 * g → (t.next.gusset g).ovrc = 0) ∧
        (n ≠ 0x1703 + 8 * g → (t.next.gusset g).ovrc = (s.next.gusset g).ovrc) ∧
        (n = 0x1704 + 8 * g → (t.next.gusset g).undc = 0) ∧
        (n ≠ 0x1704 + 8 * g → (t.next.gusset g).undc = (s.next.gusset g).undc))) ∧
  ∀ (z : Bool) (h : Fin 16) (v : Word) (s : State),
    (s.next.pack.fenced = true → exec (.cringConfigWrite z v) s = .next s ∧ exec (.bar2winWrite v) s = .next s ∧
      exec (.hstailWrite h v) s = .next s ∧ exec (.doorbell v) s = .next s) ∧
    (s.next.pack.fenced = false →
      (s.next.crHead = s.next.crTail → exec (.cringConfigWrite true v) s = .next (s.mod fun m => m.setWindow 0x1008 (keepBits v 0 16)) ∧
        exec (.cringConfigWrite false v) s = .next (s.mod fun m => m.setWindow 0x1000 (keepBits v 6 33))) ∧
      (s.next.crHead ≠ s.next.crTail → exec (.cringConfigWrite z v) s = .next s) ∧
      (fld v.toNat 30 9 % 2 ^ (Config.bar2Log % 10) = 0 →
        exec (.bar2winWrite v) s = .next (s.mod fun m => m.setWindow 0x100 (keepBits v 30 9))) ∧
      (s.next.pack.hostq = [] →
        exec (.hstailWrite h v) s = .next (s.mod fun m => m.setWindow (0x2000 + 64 * h.val + 16) (keepBits v 0 16)) ∧
        (v.toNat % 2 ^ 16 < s.next.crSize →
          exec (.doorbell v) s = .next (s.mod fun m => m.setWindow 0x1018 (BitVec.ofNat 64 (v.toNat % 2 ^ 16)))) ∧
        (s.next.crSize ≤ v.toNat % 2 ^ 16 →
          exec (.doorbell v) s = .next (s.mod fun m => m.modPack fun p => { p with dberr := true }))) ∧
      ∀ (o : HostOp) (os : List HostOp), s.next.pack.hostq = o :: os → s.next.noSlot o = false →
        exec (.hstailWrite h v) s = .next (s.mod fun m => m.modPack fun p => { p with hostq := p.hostq ++ [.hstail h.val v] }) ∧
        exec (.doorbell v) s = .next (s.mod fun m => m.modPack fun p => { p with hostq := p.hostq ++ [.doorbell (v.toNat % 2 ^ 16)] }))

/-- Sources (R38 to R42, R61, R412, R416). A source tick is counted, and the samples of a source that a region uses are numbered upward; a payload
reaches its ticked sample, cut to SBYTES, or waits; a PDU whose VSF field is clear does nothing, and one of a wrong length is counted in
CRERR; a unit of a KIND other than 1, one without PTM responses for 10 ms, and one whose stream is off (HSSIZE 0, R413) take no record, and one that is
due moves the stream on; PTM asks, times out and answers. -/
def Obligations.SourcesTick : Prop :=
  (∀ (u : SourceId) (time : Nat) (obs : LoopObs) (s : State), ∃ t : State, exec (.sourceTick u time obs) s = .next t ∧
    (t.next.source u.val).ticks = (s.next.source u.val).ticks + 1 ∧ (t.next.source u.val).lastAt = s.next.pclk ∧
    t.next.cores = s.next.cores ∧ t.next.clus = s.next.clus ∧
    ∀ l : Nat, (s.next.source u.val).last = some l → ∃ l' : Nat, (t.next.source u.val).last = some l' ∧ l ≤ l') ∧
  (∀ (u : SourceId) (n : Nat) (data : VWord) (gap : Bool) (s : State),
    ∃ t : State, exec (.samplePayloadArrival u n data gap) s = .next t ∧
      ((s.next.source u.val).samples = [] → (t.next.source u.val).waiting = (s.next.source u.val).waiting ++
        [(n, if gap then 0 else BitVec.ofNat 6144 (data.toNat % 2 ^ (8 * (s.next.source u.val).sbytes)), gap)]) ∧
      ∀ q : Sample, (s.next.source u.val).samples = [q] → q.arrived = false → q.n = n →
        (t.next.source u.val).samples = [{ q with
          val := if gap then 0 else BitVec.ofNat 6144 (data.toNat % 2 ^ (8 * (s.next.source u.val).sbytes)), gap := gap, arrived := true }]) ∧
  (∀ (port gap : Bool) (id : Word) (seq : PduInfo) (len : BitVec 16) (data : VWord) (s : State),
    exec (.mediaPduIngress port id false seq gap len data) s = .next s ∧
    ∃ t : State, exec (.mediaPduIngress port id true seq gap len data) s = .next t ∧
      ∀ u : Nat, u < 16 → (s.next.source u).kind ∈ [2, 3] → (s.next.source u).port ∈ s.next.mediaFor port id →
        (len.toNat ≠ (s.next.source u).sbytes → (t.next.source u).err = satInc (s.next.source u).err 1) ∧
        (len.toNat = (s.next.source u).sbytes → (t.next.source u).err = (s.next.source u).err)) ∧
  (∀ (u : SourceId) (obs : LoopObs) (s : State),
    ((s.next.source u.val).kind ≠ 1 ∨ (s.next.source u.val).noPtm = true ∨ s.next.hs (s.next.source u.val).port 1 = 0 →
      exec (.hostRecordTick u obs) s = .next s) ∧
    ((s.next.source u.val).kind = 1 → (s.next.source u.val).noPtm = false → s.next.hs (s.next.source u.val).port 1 ≠ 0 →
      (s.next.source u.val).hsNext ≠ s.next.hs (s.next.source u.val).port 2 →
      ∃ t : State, exec (.hostRecordTick u obs) s = .next t ∧
        (t.next.source u.val).hsNext = ((s.next.source u.val).hsNext + 1) % s.next.hs (s.next.source u.val).port 1 ∧
        (t.next.source u.val).ticks = (s.next.source u.val).ticks + 1)) ∧
  ∀ (u : SourceId) (w : Word) (s : State),
    exec .ptmRequest s = .next (s.mod fun m => m.modPack fun p => { p with out := p.out ++ [.ptmRequest] }) ∧
    exec (.ptmTimeout u) s = .next (s.mod fun m => m.modSource u.val fun g => { g with noPtm := true }) ∧
    ∃ t : State, exec (.ptmResponse w) s = .next t ∧ t.next.pack.ptm = w ∧ t.next.pack.ptmLast = s.next.pclk ∧
      ∀ q ∈ t.next.pack.sources, q.2.noPtm = false

/-- The states of a region (R25, R48, R49, R60, R62, R299, R300): IDLE 0, ACQUIRE 1, RUN 2, HOLDOVER 3, PARKED 4. A start that passes acquires, and one that does
not sets CADERR; acquisition enters RUN with the counts at 0; the loss of ticks holds over; the limit parks a region other than 0 at its next hem, where a
relock comes first (R69); 64 good ticks relock, at the hem from HOLDOVER; a request to resynchronise stops a region at its hem until it restarts; a restart takes its tick's sample index and goes on where the count stands, without slip debt; a stop, but of region 0 or one with a job,
idles. A tick counts a sample, a hem a period. Model's choices: that a restart goes on with the count where its hem left it (log 143); that after
a trip or a link loss a start does nothing until a reset (log 176); that a resynchronisation stops and restarts region 0 as well (log 186). -/
def Obligations.RegionStates : Prop :=
  ∀ (r : RegionId) (n : Nat) (s : State) (g : Region), g = s.next.region r.val →
    (g.state ≠ 1 → exec (.acquireComplete r) s = .next s) ∧
    (g.state = 1 → ∃ (t : State) (h : Region), exec (.acquireComplete r) s = .next t ∧ h = t.next.region r.val ∧ h.state = 2 ∧ h.count = 0 ∧
      h.scnt = 0 ∧ h.hemc = 0 ∧ h.caderr = false ∧ h.ingress = 0 ∧ h.ingGap = true) ∧
    (g.state ≠ 2 → exec (.tickLoss r) s = .next s) ∧
    (g.state = 2 → ∃ t : State, exec (.tickLoss r) s = .next t ∧ (t.next.region r.val).state = 3 ∧
      (t.next.region r.val).count = g.count) ∧
    (g.state ≠ 3 ∨ r.val = 0 → exec (.holdtExpiry r) s = .next s) ∧
    (g.state = 3 → r.val ≠ 0 → exec (.holdtExpiry r) s = .next (s.mod fun m => m.modRegion r.val fun q => { q with wantPark := true })) ∧
    (g.state = 3 → exec (.relock r) s = .next (s.mod fun m => m.modRegion r.val fun q => { q with wantRelock := true })) ∧
    (g.state = 4 → g.pre = false → g.stopped = false → g.restart = false →
      ∃ t : State, exec (.relock r) s = .next t ∧ (t.next.region r.val).state = 2) ∧
    (g.state = 0 ∨ g.state = 1 ∨ g.state = 2 → exec (.relock r) s = .next s) ∧
    (g.state = 4 → g.restart = true → ∃ (t : State) (h : Region), exec (.patternRestart r n) s = .next t ∧ h = t.next.region r.val ∧
      h.state = 2 ∧ h.scnt = n ∧ h.count = g.count ∧ h.sd = 0 ∧ h.perr = 0 ∧ h.restart = false) ∧
    (g.state ≠ 4 ∨ g.restart = false → exec (.patternRestart r n) s = .next s) ∧
    (g.state ≠ 2 → g.state ≠ 3 → exec (.regionTick r) s = .next s) ∧
    (g.state = 2 ∨ g.state = 3 → ∃ t : State, exec (.regionTick r) s = .next t ∧ (t.next.region r.val).scnt = g.scnt + 1 ∧
      (g.state = 3 → (t.next.region r.val).ingress = 0 ∧ (t.next.region r.val).ingGap = true)) ∧
    (∃ t : State, exec (.hem r) s = .next t ∧ (t.next.region r.val).hemc = g.hemc + 1 ∧
      (g.wantStop = true → (t.next.region r.val).state = 4 ∧ (t.next.region r.val).stopped = true) ∧
      (g.wantStop = false → g.wantPre = true → (t.next.region r.val).state = 4 ∧ (t.next.region r.val).pre = true) ∧
      (g.wantStop = false → g.wantPre = false → g.rsync = true → (t.next.region r.val).state = 4 ∧ (t.next.region r.val).restart = true) ∧
      (g.wantStop = false → g.wantPre = false → g.rsync = false → g.state = 3 →
        (g.wantRelock = true → (t.next.region r.val).state = 2 ∧ (t.next.region r.val).wantPark = false) ∧
        (g.wantRelock = false → g.wantPark = true → (t.next.region r.val).state = 4) ∧
        (g.wantRelock = false → g.wantPark = false → (t.next.region r.val).state = 3)) ∧
      (g.wantStop = false → g.wantPre = false → g.rsync = false → g.state = 2 → (t.next.region r.val).state = 2)) ∧
    (s.next.pack.halted = true → exec (.regionStart r) s = .next s) ∧
    (r.val ≠ 0 → g.state = 0 → s.next.pack.halted = false → ∃ t : State, exec (.regionStart r) s = .next t ∧
      (s.next.canStart r.val = true → (t.next.region r.val).state = 1 ∧ (t.next.region r.val).caderr = false) ∧
      (s.next.canStart r.val = false → (t.next.region r.val).state = 0 ∧ (t.next.region r.val).caderr = true)) ∧
    (r.val = 0 ∨ g.state ≠ 0 → exec (.regionStart r) s = .next s) ∧
    (r.val = 0 ∨ g.job ≠ none → exec (.regionStop r) s = .next s) ∧
    (r.val ≠ 0 → g.job = none → ∃ t : State, exec (.regionStop r) s = .next t ∧ (t.next.region r.val).state = 0 ∧
      (t.next.region r.val).cadl = g.cadl ∧ (t.next.region r.val).mask = g.mask)

/-- Freezes, charges and the ends of work (R27, R158, R251, R256, R263, R269, R297, R301, R374, R382 to R385, R438). The records of a freeze are complete once, and
each KIND 1 record posts its event, of which the queue holds one for each context (that an older one gives way is the model's choice, log 185); a pair takes a freeze event before any other and neither in its handler; a thaw that waits for nothing more
resumes the region; a skip of slip debt advances the count; budget and signatures charge their context; the mismatch of a pair's twinned
control cores halts it; a copy, a bmset, a stage, a send, a bank's wake and an expansion end. -/
def Obligations.FreezesAndEnds : Prop :=
  (∀ (r : RegionId) (k : ClusterId) (s : State),
    ((∀ t : Nat, (s.next.region r.val).recsAt = some t → s.next.pclk < t) → (s.next.region r.val).late = [] →
      exec (.freezeRecordsComplete r) s = .next s) ∧
    (∀ p : Nat, (s.next.region r.val).recsAt = some p → p ≤ s.next.pclk → (s.next.region r.val).late = [] →
      ∃ t : State, exec (.freezeRecordsComplete r) s = .next t ∧ (t.next.region r.val).recsAt = none ∧ (t.next.region r.val).late = [] ∧
      (t.next.region r.val).frozen = (s.next.region r.val).frozen ∧ t.next.cores = s.next.cores ∧
      (∀ q ∈ (s.next.region r.val).recs, q.kind = 1 → clusOf q.core = k.val →
        ∃ e ∈ (t.next.pair k.val).frzs, e.core = q.core ∧ e.ctx = q.ctx ∧ e.frz = true) ∧
      (∀ e ∈ (s.next.pair k.val).frzs, (∀ q ∈ (s.next.region r.val).recs, ¬(q.core = e.core ∧ q.ctx = e.ctx)) → e ∈ (t.next.pair k.val).frzs) ∧
      (((s.next.pair k.val).frzs.map fun e => (e.core, e.ctx)).Nodup → ((t.next.pair k.val).frzs.map fun e => (e.core, e.ctx)).Nodup)) ∧
    ((s.next.pair k.val).dead = true ∨ (s.next.pair k.val).handler = true → exec (.eventTake k) s = .next s) ∧
    (∀ (e : Event) (es : List Event), (s.next.pair k.val).dead = false → (s.next.pair k.val).handler = false →
      ((s.next.pair k.val).frzs = e :: es → exec (.eventTake k) s =
        .next (s.mod fun m => (m.takeEvent k.val e).modPair k.val fun p => { p with frzs := es })) ∧
      ((s.next.pair k.val).frzs = [] → (s.next.pair k.val).evs = e :: es → exec (.eventTake k) s =
        .next (s.mod fun m => (m.takeEvent k.val e).modPair k.val fun p => { p with evs := es }))) ∧
    (∃ t : State, exec (.controlTwinMismatch k) s = .next t ∧ ∃ w : Word, t.next = s.next.haltPair k.val (exc cTWIN w)) ∧
    (s.next.skipBy r.val = 0 → exec (.slipDebtSkip r) s = .next s) ∧
    (s.next.skipBy r.val ≠ 0 → ∃ t : State, exec (.slipDebtSkip r) s = .next t ∧
      (t.next.region r.val).count = (s.next.region r.val).count + s.next.skipBy r.val ∧
      (t.next.region r.val).sd = (s.next.region r.val).sd - s.next.skipBy r.val ∧ s.next.skipBy r.val ≤ (s.next.region r.val).sd ∧
      (t.next.region r.val).perr = (s.next.region r.val).perr - s.next.skipBy r.val)) ∧
  (∀ (n : CoreId) (x : CtxId) (s : State) (r : Nat) (q : FreezeRec), r = s.next.regionOf (clusOf n.val) →
    (s.next.region r).recs = [q] → q.core = n.val → q.ctx = x.val → q.done = false → q.kind = 1 → q.trapc.toNat ≠ cDEADLINE →
    q.act ≠ some .rewind → (s.next.region r).frozen = true →
    ∃ t : State, exec (.freezeActionEffect n x (.thaw false)) s = .next t ∧ (t.next.region r).frozen = false ∧
      (t.next.region r).recs = [] ∧ t.next.cores = s.next.cores) ∧
  (∀ (n : CoreId) (x : CtxId) (act : FreezeAct) (s : State), (s.next.region (s.next.regionOf (clusOf n.val))).recOf n.val x.val = none →
    exec (.freezeActionEffect n x act) s = .next s) ∧
  (∀ (n : CoreId) (x : CtxId) (s : State), exec (.runBudgetExpiry n x) s = .next (s.modTurn fun t => { t with faults := t.faults ++
    [(n.val, x.val, exc cDEADLINE (BitVec.ofNat 64 (0xFFFFFFFE * 2 ^ 32 + (((s.next.ctx n.val x.val).task.map Task.budget).getD 0) % 2 ^ 32)), false)] })) ∧
  (∀ (k : ClusterId) (j : Fin 4) (x : Nat) (s : State), s.next.charged (8 * k.val + 2 * j.val) = some x →
    (s.next.mismatch k.val j.val = 0 → (s.next.core (8 * k.val + 2 * j.val)).parted = 0 → exec (.twinCompare k j) s = .next s) ∧
    (s.next.mismatch k.val j.val ≠ 0 → ∃ t : State, exec (.twinCompare k j) s = .next t ∧
      t.turn = { s.turn with faults := s.turn.faults ++ [(8 * k.val + 2 * j.val, x, exc cTWIN (s.next.mismatch k.val j.val), false)] } ∧
      t.next.clus = s.next.clus ∧ t.next.pack = s.next.pack ∧ (t.next.core (8 * k.val + 2 * j.val)).parted = 0 ∧
      ((s.next.core (8 * k.val + 2 * j.val)).parted = 0 → t.next = s.next))) ∧
  (∀ (n : CoreId) (e : EngineId) (s : State) (cs : List Copy), cs = (rd (s.next.core n.val).eng e.val).copies →
    ((∀ c ∈ cs, c.done (s.next.now n.val) = false) → exec (.copyComplete n e) s = .next s) ∧
    (∀ c : Copy, cs = [c] → c.done (s.next.now n.val) = true → ∃ t : State, exec (.copyComplete n e) s = .next t ∧
      (rd (t.next.core n.val).eng e.val).copies = [] ∧ ∀ a ∈ (t.next.ctx n.val c.ctx).armed, c.serial ∉ a.copies) ∧
    (∀ (c : Copy) (b pa : Nat), cs = [c] → (s.next.core n.val).copies = [c] → c.kind = .bmset b → b < 8 → c.eta ≤ s.next.now n.val → s.next.mute n.val c.ctx = false →
      (c.iters.headD default).src.toNat = pa →
      ∃ t : State, exec (.bmsetBitSet n e) s = .next t ∧ (rd (t.next.core n.val).eng e.val).copies = [] ∧
        t.next.pack.dev.byte pa = s.next.pack.dev.byte pa ||| BitVec.ofNat 8 (2 ^ b))) ∧
  (∀ (k : ClusterId) (s : State), ((s.next.cl k.val).stages = [] → exec (.stageComplete k) s = .next s) ∧
    ∀ (g : Stage) (gs : List Stage), (s.next.cl k.val).stages = g :: gs →
      (g.done < g.len → exec (.stageComplete k) s = .next s) ∧
      (g.len ≤ g.done → g.bad = none →
        exec (.stageComplete k) s = .next (s.mod fun m => (m.modCl k.val fun c => { c with stages := gs }).setBit g.bitPa g.bit))) ∧
  (∀ (n src : CoreId) (ch : Fin 8) (data : VWord) (s : State), ∃ t : State, exec (.sendArrival n ch src data) s = .next t ∧
    (rd (t.next.core n.val).chan ch.val).val = data ∧ (rd (t.next.core n.val).chan ch.val).new = true ∧
    rd (t.next.cl (clusOf n.val)).cnt 3 = if (rd (s.next.core n.val).chan ch.val).new then satInc (rd (s.next.cl (clusOf n.val)).cnt 3) 1
      else rd (s.next.cl (clusOf n.val)).cnt 3) ∧
  (∀ (k : ClusterId) (b : Fin 8) (s : State), (rd (s.next.cl k.val).banks b.val ≠ 2 → exec (.bankWakeComplete k b) s = .next s) ∧
    (rd (s.next.cl k.val).banks b.val = 2 → (s.next.cl k.val).spad.wf = true → ∃ t : State, exec (.bankWakeComplete k b) s = .next t ∧
      rd (t.next.cl k.val).banks b.val = 0 ∧
      ∀ a : Nat, (t.next.cl k.val).spad.byte a = if bankOf a = b.val then 0 else (s.next.cl k.val).spad.byte a)) ∧
  ∀ (n : CoreId) (x : CtxId) (s : State),
    ((s.next.ctx n.val x.val).segbuf = none → exec (.segmentExpansionComplete n x) s = .next s) ∧
    ∀ (b : SegBuf) (g : Segment), (s.next.ctx n.val x.val).segbuf = some b → b.ptr ≠ 0xFFFF → b.other = none → b.cur = some g →
      exec (.segmentExpansionComplete n x) s = .next (s.mod fun m => m.modCtx n.val x.val fun c =>
        { c with segbuf := some { b with other := some (expandSegment ((s.next.core n.val).planeOf 0).imem b.ptr) } })

/-- The dispatcher and the fabric (R29, R271, R342, R345, R347, R348, R398 to R405, R410, R433, R434, R441). Admission judges each level in turn: a level
without a task is passed; a head that fits has the lowest ranges and its preload begins; one that does not stays; one whose type breaks a limit is held; a preload that ends makes its task resident; a task that has waited 64 counted notches joins the level above; a
completion bit is read; ring records return; duplicates are compared; DHOLD clears HELD, kills, or kills the job; the blocked spill is retried; a
job without tasks ends. A fragment is judged; at a close every message due goes to the tail of its class's queue, in order, rebuilt or LOST; a drained group is freed; a path goes down, retrains and comes back; a row
is copied and waits for the hem. Model's choices: the path that a value of LGRT names (log 50), the controller and row that a value of PPR
names (log 51), and the legs that a fragment from a port still takes (log 131). -/
def Obligations.DispatcherAndFabric : Prop :=
  (∀ (n : CoreId) (s : State), exec (.admission n) s = .next (s.mod fun m => (((m.letIn n.val 0).letIn n.val 1).letIn n.val 2).letIn n.val 3)) ∧
  (∀ (m : Mach) (n l : Nat), m.head n l = none → m.letIn n l = m) ∧
  (∀ (m : Mach) (n l e : Nat) (q : QEnt) (fits : Nat → Nat → Nat → Nat → Prop), m.head n l = some q →
    e = (m.cl (clusOf n)).type (recType (headOf q.words)) →
    (∀ kind total len v : Nat, fits kind total len v ↔ Claims.lowestFit ((m.cl (clusOf n)).inUse kind n (m.pair (clusOf n)).save) total len v) →
    (∀ x v u w : Nat, m.freeCtx n = some x → fits 0 64 (fld e 64 4) v → fits 1 768 (fld e 80 10) u → fits 2 256 (fld e 96 9) w →
      (typeBad e = false → (m.letIn n l).cores = m.cores ∧
        ((m.letIn n l).cl (clusOf n)).allots = (m.cl (clusOf n)).allots ++ Claims.taken n q.uid e v u w ∧
        ((m.letIn n l).cl (clusOf n)).queue = (m.cl (clusOf n)).queue.map (fun p => if p.uid = q.uid then { p with
          state := .preloading n x, fps := (m.cl (clusOf n)).footprints (recCard (headOf q.words))
          sset := (m.cl (clusOf n)).card (recCard (headOf q.words)) 1, entry := e } else p) ∧
        ∃ due : Nat, (m.region (m.regionOf (clusOf n))).age ≤ due ∧ (m.letIn n l).owed = m.owed ++
          [(.age (m.regionOf (clusOf n)) due, .preloadComplete (Fin.ofNat 384 n) (Fin.ofNat 8 x))]) ∧
      (typeBad e = true → m.letIn n l = (m.modCl (clusOf n) fun c => c.modQ q.uid fun p => { p with held := true }).postEv (clusOf n) cOPER
        (BitVec.ofNat 64 (q.slot * 2 ^ 16 + recType (headOf q.words) * 2 ^ 8 + 31)))) ∧
    (fld e 80 10 ≤ 736 → fld e 96 9 ≤ 256 →
      (m.freeCtx n = none ∨ (∀ v : Nat, ¬fits 0 64 (fld e 64 4) v) ∨ (∀ v : Nat, ¬fits 1 768 (fld e 80 10) v) ∨ (∀ v : Nat, ¬fits 2 256 (fld e 96 9) v)) →
      m.letIn n l = m)) ∧
  (∀ (n : CoreId) (x : CtxId) (s : State),
    ((∀ q ∈ (s.next.cl (clusOf n.val)).queue, q.state ≠ .preloading n.val x.val) → exec (.preloadComplete n x) s = .next s) ∧
    ∀ (q : QEnt) (xs : List Xlat), (s.next.cl (clusOf n.val)).queue = [q] → q.state = .preloading n.val x.val →
      s.next.preload (clusOf n.val) (recJob (headOf q.words)) q.uid q.fps (s.next.cl (clusOf n.val)).freeXlats [] = .ok xs →
      ∃ (t : State) (k : Task), exec (.preloadComplete n x) s = .next t ∧ (t.next.ctx n.val x.val).task = some k ∧ k.uid = q.uid ∧
        k.job = recJob (headOf q.words) ∧ (t.next.cl (clusOf n.val)).queue.map QEnt.state = [.resident n.val x.val]) ∧
  (∀ (k : ClusterId) (s : State), ∃ t : State, exec (.taskAging k) s = .next t ∧
    ∀ q : QEnt, (s.next.cl k.val).queue = [q] → (t.next.cl k.val).queue =
      [if q.state = .queued ∧ 0 < q.level then
        (if q.waited < 63 then { q with waited := q.waited + 1 } else { q with level := q.level - 1, waited := 0 }) else q]) ∧
  (∀ (k : ClusterId) (e : Fin 256) (s : State),
    ((s.next.cl k.val).queue = [] → exec (.completionBitTest k e) s = .next s) ∧
    ∀ (q : QEnt) (pa bit : Nat), (s.next.cl k.val).queue = [q] → q.state = .queued → q.slot = e.val → q.wb = some (pa, bit) →
      (s.next.testsBit k.val q = false → exec (.completionBitTest k e) s = .next s) ∧
      (s.next.testsBit k.val q = true → ∃ t : State, exec (.completionBitTest k e) s = .next t ∧
        (t.next.cl k.val).queue = [{ q with wbSet := (s.next.pack.dev.byte pa).getLsbD bit, tested := (s.next.region 0).count / 8 / 256 + 1 }])) ∧
  (∀ (k : ClusterId) (s : State), exec (.ringReturn k) s = .next (s.mod fun m => m.fromRing k.val) ∧
    ((s.next.cl k.val).blocked = false → exec (.dretry k) s = .next s) ∧
    (∀ q : QEnt, (s.next.cl k.val).queue.filter (fun q => q.slot == 255) = [q] →
      exec (.dretry k) s = .next (s.mod fun m => m.spillRecord k.val q)) ∧
    ∀ e : Byte, (∃ t : State, exec (.dhold k e) s = .next t ∧
        ∀ q : QEnt, (s.next.cl k.val).queue = [q] → q.slot = e.toNat → q.state = .queued → (t.next.cl k.val).queue = [{ q with held := false }]) ∧
      ((s.next.cl k.val).entry e.toNat = none → exec (.dholdKill k e) s = .next s ∧ exec (.dholdKillJob k e) s = .next s) ∧
      ∀ q : QEnt, (s.next.cl k.val).entry e.toNat = some q →
        exec (.dholdKillJob k e) s = .next (s.mod fun m => m.killJob (recJob (headOf q.words))) ∧
        (q.dup = 0 → exec (.dholdKill k e) s = .next (s.mod fun m => m.killQueued k.val q))) ∧
  (∀ (k : ClusterId) (pair : Nat) (s : State), ((s.next.cl k.val).dups = [] → exec (.dupCompare k pair) s = .next s) ∧
    ∀ (d : Dup) (a b : Word), (s.next.cl k.val).dups = [d] → d.a = pair → d.sa = some a → d.sb = some b → a = b →
      ∃ t : State, exec (.dupCompare k pair) s = .next t ∧ (t.next.cl k.val).dups = [] ∧ ∀ e ∈ (t.next.cl k.val).edges, e.src ≠ pair) ∧
  (∀ (job : Byte) (s : State) (b : Job), s.next.job job.toNat = some b → s.next.live job.toNat = false → (s.next.pair 0).dead = false → b.num = job.toNat →
    ∃ t : State, exec (.jobEnd job) s = .next t ∧ ∀ c ∈ t.next.pack.jobs, c.num ≠ job.toNat) ∧
  (∀ (k : ClusterId) (f : Fragment) (s : State),
    (f.port = none → exec (.fragmentArrival k f) s = .next (s.mod fun m => m.modCl k.val fun c => c.judge f (m.region 0).count (m.region 0).age)) ∧
    (∀ q : Fin 16, f.port = some q → ∃ (t : State) (g : Transit), exec (.fragmentArrival k f) s = .next t ∧ t.next.clus = s.next.clus ∧
      t.next.pack.transit = s.next.pack.transit ++ [g] ∧ g.frag = { f with port := none } ∧ g.clus = k.val ∧
      g.legs.getLast? = some (bulkLeg (hops (12 * (k.val / 12) + q.val % 4) k.val) f.body.length)) ∧
    (f.crc ≠ fragCrc f → ∀ (c : Cluster) (x a : Nat), rd (c.judge f x a).cnt 4 = satInc (rd c.cnt 4) 1 ∧ (c.judge f x a).inc = c.inc)) ∧
  (∀ (k : ClusterId) (g : BitVec 12) (s : State), ∃ t : State, exec (.groupDrainEnd k g) s = .next t ∧
    ∀ u : Group, (s.next.cl k.val).group g = some u → u.draining = true → (t.next.cl k.val).group g = none ∧
      ∀ i ∈ (t.next.cl k.val).inc, i.group ≠ g) ∧
  (∀ (k : ClusterId) (s : State), ∃ t : State, exec (.messageClose k) s = .next t ∧
    ((s.next.cl k.val).inc = [] → (s.next.cl k.val).groups = [] → (t.next.cl k.val).queues = (s.next.cl k.val).queues) ∧
    ∀ is : List Incoming, is = sortOn Incoming.order ((s.next.cl k.val).inc.filter fun i => !i.closed && decide (i.close ≤ (s.next.region 0).count)) →
      (∀ cls : Nat, rd (t.next.cl k.val).queues cls =
        rd (s.next.cl k.val).queues cls ++ (is.filter fun i => !i.dig && i.cls == cls).map Claims.closedAs) ∧
      rd (t.next.cl k.val).cnt 1 = satInc (rd (s.next.cl k.val).cnt 1) (is.filter fun i => !i.dig && (Claims.closedAs i).lost).length ∧
      ∀ i ∈ (t.next.cl k.val).inc, i.closed = false → (s.next.region 0).count < i.close) ∧
  (∀ (n len : Nat) (frags : List (Nat × List Byte)) (bs : Nat → List Byte),
    (∀ i : Nat, i < n → (frags.find? fun q => q.1 == i) = some (i, bs i) ∧ (bs i).length = fragLen len n) →
    rebuild n len frags = ((List.range n).flatMap bs).take len) ∧
  ∀ (p : PathId) (c : Fin 16) (v : Word) (s : State),
    (∃ t : State, exec (.fragmentExpiry p) s = .next t ∧
      ∀ u ∈ t.next.pack.transit, u ∈ s.next.pack.transit ∧ (u.path = some p → (s.next.region 0).age < u.at_ + 2 ^ 23)) ∧
    (∃ t : State, exec (.pathDown p) s = .next t ∧ p ∈ t.next.pack.downs ∧
      ((s.next.pair 0).evs.length < 64 → ∃ e : Event, (t.next.pair 0).evs = (s.next.pair 0).evs ++ [e])) ∧
    (∃ t : State, exec (.laneRetrainComplete p) s = .next t ∧ p ∉ t.next.pack.downs ∧ p ∉ t.next.pack.retrain) ∧
    (∃ t : State, exec (.lgrt v) s = .next t ∧ lgrtPath v ∈ t.next.pack.retrain) ∧
    (∃ t : State, exec (.ppr v) s = .next t ∧ t.next.pack.pprReq =
      if Config.spareRows (v.toNat % 16) ≤ s.next.pack.rowsUsed (v.toNat % 16) then s.next.pack.pprReq
      else s.next.pack.pprReq ++ [(v.toNat % 16, v.toNat / 16 % 2 ^ 32)]) ∧
    (∃ t : State, exec (.pprCopyComplete c) s = .next t ∧ ∀ row : Nat, s.next.pack.pprReq = [(c.val, row)] →
      t.next.pack.pprReq = [] ∧ t.next.pack.pprWait = s.next.pack.pprWait ++ [(c.val, row)])

/-- The command processor (R43 to R48, R291, R300, R311, R341, R390, R393, R394, R409, R410, R419, R428, R429, R437). A command completes at the ring's head with
STATUS and DONE; an operand out of range gives 1, a job that is not there 4. Cards, types, wheel maps, range entries and code rates take the values
that pass their checks; a region takes its cadence and mask; a job occupies its regions; a sanitise under a job gives 2, and else begins; its end
leaves no byte. The loader starts once, and when it is idle does nothing. Model's choices: STATUS 1 of a PREEMPT of region 0's job (log 58); device
memory as it was when a sanitise begins (log 64). -/
def Obligations.CommandsComplete : Prop :=
  (∀ (m : Mach) (st a : Nat), m.pending = true → m.pack.fenced = false → a = m.crBase + 64 * m.crHead →
    (m.complete st).crHead = (m.crHead + 1) % m.crSize % 2 ^ 64 ∧
    (m.complete st).pack.dev = m.pack.dev.store a (leBytes 8 (m.pack.dev.nat a 4 + st % 2 ^ 16 * 2 ^ 32 +
      m.pack.dev.nat a 8 / 2 ^ 48 % 2 ^ 15 * 2 ^ 48 + 2 ^ 63)) false) ∧
  (∀ (m : Mach) (st : Nat), m.pending = false → m.complete st = m) ∧
  (∀ (m : Mach) (st : Nat) (j : Option Nat),
    (m.unsettled j = false → m.completeAfter st j = m.complete st) ∧
    (m.unsettled j = true → m.pending = true → m.completeAfter st j = m.modPack fun p => { p with ending := some (st, j) })) ∧
  (∀ (s : State) (st : Nat) (j : Option Nat), s.next.pack.ending = some (st, j) →
    s.settled = .next (s.mod fun m => (m.modPack fun p => { p with ending := none }).complete st)) ∧
  (∀ (w1 w2 w3 : Word) (s : State), 256 < fld w2.toNat 0 8 + fld w2.toNat 8 8 →
    exec (.cards w1 w2 w3) s = .next (s.mod fun m => m.complete 1)) ∧
  (∀ (w1 w2 w3 : Word) (s : State), fld w2.toNat 0 8 + fld w2.toNat 8 8 ≤ 256 → w1.toNat + 144 * fld w2.toNat 8 8 ≤ 0x7800000000 →
    s.next.pack.dev.isBad w1.toNat (144 * fld w2.toNat 8 8) = false →
    exec (.cards w1 w2 w3) s = .next (s.mod fun m => ((m.devMeets w1.toNat (144 * fld w2.toNat 8 8)).fill w3 (0x400 + 18 * fld w2.toNat 0 8)
      (wordsOfBytes (m.pack.dev.bytes w1.toNat (144 * fld w2.toNat 8 8)))).complete 0)) ∧
  (∀ (w1 w2 w3 : Word) (s : State), fld w2.toNat 0 6 + fld w2.toNat 8 8 ≤ 64 → w1.toNat + 32 * fld w2.toNat 8 8 ≤ 0x7800000000 →
    s.next.pack.dev.isBad w1.toNat (32 * fld w2.toNat 8 8) = false →
    exec (.ttypes w1 w2 w3) s = .next (s.mod fun m => ((m.devMeets w1.toNat (32 * fld w2.toNat 8 8)).fill w3 (0x200 + 4 * fld w2.toNat 0 6)
      (wordsOfBytes (m.pack.dev.bytes w1.toNat (32 * fld w2.toNat 8 8)))).complete 0)) ∧
  (∀ (w1 w2 w3 : Word) (s : State),
    (40 < w1.toNat → exec (.wheel w1 w2) s = .next (s.mod fun m => m.complete 1)) ∧
    (3 < w1.toNat ∨ 127 < w2.toNat → exec (.range w1 w2 w3) s = .next (s.mod fun m => m.complete 1)) ∧
    (7 < w1.toNat → exec (.crate w1 w2) s = .next (s.mod fun m => m.complete 1)) ∧
    (∀ (bs : List Byte) (sh : SMap (BitVec 8)), 16 ≤ w1.toNat → w1.toNat ≤ 40 → w2.toNat + 256 ≤ 0x7800000000 →
      s.next.pack.dev.isBad w2.toNat 256 = false → bs = s.next.pack.dev.bytes w2.toNat 256 → (∀ b ∈ bs, b.getLsbD 6 = false) →
      sh = bs.zipIdx.map (fun (b, i) => (i, b)) →
      exec (.wheel w1 w2) s = .next (s.mod fun m => ((m.devMeets w2.toNat 256).modPack fun p => { p with
        wheels := up p.wheels w1.toNat fun w => { w with shadow := some sh } }).complete 0)) ∧
    (∀ c : BitVec 28, w1.toNat ≤ 7 → fld w2.toNat 0 3 ≤ 4 → fld w2.toNat 4 3 ≤ 4 → kOf (fld w2.toNat 0 3) + fld w2.toNat 4 3 ≤ 20 →
      fld w2.toNat 12 16 ≠ 0 → c = BitVec.ofNat 28 (fld w2.toNat 0 3 + fld w2.toNat 4 3 * 2 ^ 4 + fld w2.toNat 12 16 * 2 ^ 12) →
      exec (.crate w1 w2) s = .next (s.mod fun m => (m.modPack fun p => { p with crate := wr p.crate w1.toNat c }).complete 0)) ∧
    (∀ e : Nat, w1.toNat ≤ 3 → w2.toNat ≤ 127 → w3.toNat + 32 ≤ 0x7800000000 → s.next.pack.dev.isBad w3.toNat 32 = false →
      e = s.next.pack.dev.nat w3.toNat 32 → rangeBad e = false →
      exec (.range w1 w2 w3) s = .next (s.mod fun m => ((m.devMeets w3.toNat 32).modPack fun p => { p with
        ranges := wr p.ranges (w1.toNat * 128 + w2.toNat) (rangeBits e) }).complete 0))) ∧
  (∀ (w1 w2 w3 w4 w5 w6 : Word) (s : State), (15 < w1.toNat → exec (.region w1 w2 w3 w4 w5 w6) s = .next (s.mod fun m => m.complete 1)) ∧
    (w6 = 0 → w1.toNat ≤ 15 → w1 ≠ 0 → w2.toNat < 2 ^ 25 → w3.toNat < 2 ^ 13 → w4.toNat ≤ 31 → w5.toNat < 2 ^ 48 →
      (s.next.region w1.toNat).job = none → s.next.taken w1.toNat (w5.setWidth 48) = false →
      exec (.region w1 w2 w3 w4 w5 w6) s = .next (s.mod fun m => ((m.modRegion w1.toNat fun g =>
        { g with cadl := w2.toNat, cadd := w3.toNat, mode := fld w4.toNat 4 1, src := fld w4.toNat 0 4 }).setMask w1.toNat
          (w5.setWidth 48)).complete 0))) ∧
  (∀ (job : Byte) (w1 w2 w3 w4 w5 w6 w7 : Word) (s : State),
    (s.next.job job.toNat = none → exec (.preempt job) s = .next (s.mod fun m => m.complete 4) ∧
      exec (.resume job) s = .next (s.mod fun m => m.complete 4) ∧ exec (.kill job) s = .next (s.mod fun m => m.complete 4)) ∧
    (∀ b : Job, s.next.job job.toNat = some b → exec (.kill job) s = .next (s.mod fun m => (m.killJob job.toNat).completeAfter 0 (some job.toNat)) ∧
      (b.pattern = false →
        exec (.preempt job) s = .next (s.mod fun m =>
          ((m.modJob job.toNat fun b => { b with pree := true }).askTasks (b.clusters m) job.toNat true).complete 0) ∧
        exec (.resume job) s = .next (s.mod fun m =>
          ((m.modJob job.toNat fun b => { b with pree := false }).askTasks (b.clusters m) job.toNat false).complete 0)) ∧
      (b.pattern = true → b.regions.getLsbD 0 = true → exec (.preempt job) s = .next (s.mod fun m => m.complete 1))) ∧
    (1 < w6.toNat → exec (.submit job w1 w2 w3 w4 w5 w6 w7) s = .next (s.mod fun m => m.complete 1)) ∧
    (w2 = 2 → w4 = 0 → w5 = 0 → w6 = 0 → w7.toNat + 64 ≤ 0x7800000000 → w3.toNat ≤ 0x7800000000 → s.next.job job.toNat = none →
      (s.next.region 1).job = none → (s.next.region 1).state ≠ 0 → (s.next.region 1).mode = 0 →
      ∃ t : State, exec (.submit job w1 w2 w3 w4 w5 w6 w7) s = .next t ∧ (t.next.region 1).job = some job.toNat ∧
        (∃ b ∈ t.next.pack.jobs, b.num = job.toNat ∧ b.root = w1.toNat ∧ b.status = w7.toNat))) ∧
  (∀ s : State, (s.next.pack.jobs ≠ [] → exec .sanitise s = .next (s.mod fun m => m.complete 2)) ∧
    (s.next.pack.jobs = [] → ∃ t : State, exec .sanitise s = .next t ∧ t.next.pack.sanit = true ∧ t.next.pack.dev = s.next.pack.dev) ∧
    (∃ t : State, exec .sanitiseComplete s = .next t ∧ t.next.pack.sanit = false ∧ t.next.pack.ranges = [] ∧ t.next.pack.cxl = default ∧
      (∀ k : Nat, (t.next.cl k).spad.cells = []) ∧
      (s.next.pack.cmdBusy = false → t.next.pack.dev = default)) ∧
    (s.next.pack.ldbusy = true → exec .ldgo s = .next s) ∧
    (s.next.pack.ldbusy = false → ∃ t : State, exec .ldgo s = .next t ∧ t.next.pack.ldbusy = true ∧
      t.next.pack.ldcur = s.next.pack.ldlist.toNat ∧ t.next.pack.ldstat = BitVec.ofNat 64 (2 ^ 63)) ∧
    (s.next.pack.ldbusy = false ∨ s.next.pack.ldover = false → exec .loadListComplete s = .next s) ∧
    (s.next.pack.ldbusy = true → s.next.pack.ldover = true → (∀ q : Nat × Nat, s.next.pack.lderr = some q → q.2 < 2 ^ 32) → ∃ t : State, exec .loadListComplete s = .next t ∧ t.next.pack.ldbusy = false ∧
      t.next.pack.ldstat.getLsbD 63 = false))

/-- The host, the sideband, resets and trips (R293, R383, R414, R417 to R422, R426, R427, R431, R433, R442, R443, R446). An access
through BAR2 stands behind those that came before it, and reads device memory at its window, all ones where it is inert or beyond, or writes there; a reset leaves one machine at the beginning of a cycle, device memory as
it was but after power-up, when every stack is zero; the loss of the link fences it and stops every region, as a trip does; the sideband's answers
leave the cores and memories as they are; an anti-rollback counter never falls, and advances to the version of a signed record that no image running is older than; a
scrub marks what it cannot correct, and what it can waits to be written back; refresh and
recalibration change nothing. Model's choices: the codes 0x900 to 0x902 of the reports (log 9), the layout of a freeze dump (log 18), device
memory zero after a cold reset (log 66), region 0's start at a multiple of 90 cycles (log 157), and when an access through BAR2 takes its slot, one
that no slot is given to without (log 158). -/
def Obligations.HostAndSideband : Prop :=
  (∀ (off len : Nat) (data : List Byte) (bad : Bool) (s : State) (a : Nat), a = s.next.window 0x100 + off →
    (s.next.pack.inert = true → exec (.bar2Read off len) s = .next (s.mod fun m => m.hostDo (.read a len)) ∧
      exec (.bar2Write off data bad) s = .next s) ∧
    (s.next.pack.inert = false → exec (.bar2Read off len) s = .next (s.mod fun m => m.hostSends (.read a len)) ∧
      exec (.bar2Write off data bad) s = .next (s.mod fun m => m.hostSends (.write a data bad)))) ∧
  (∀ (m : Mach) (a len t : Nat) (data : List Byte) (bad : Bool) (o q : HostOp) (qs : List HostOp),
    ((m.hostDo (.read a len)).pack.dev = m.pack.dev ∧ (m.hostDo (.read a len)).cores = m.cores ∧
      ∃ bs : List Byte, .readData bs (!m.pack.inert && m.pack.dev.isBad a len) ∈ (m.hostDo (.read a len)).pack.out ∧ bs.length = len ∧
        ∀ i : Nat, i < len → bs[i]? = some (if m.pack.inert || decide (0x7800000000 ≤ a + i) then 0xFF#8 else m.pack.dev.byte (a + i))) ∧
    (m.pack.inert = false → a + data.length ≤ 0x7800000000 → (m.hostDo (.write a data bad)).pack.dev = m.pack.dev.store a data bad ∧
      (m.hostDo (.write a data bad)).cores = m.cores ∧ (m.hostDo (.write a data bad)).clus = m.clus) ∧
    (m.pack.hostq = [] → m.noSlot o = true → m.hostSends o = m.hostDo o) ∧
    (m.pack.hostq = [] → m.noSlot o = false → m.hostSends o = m.modPack fun p => { p with hostq := [o] }) ∧
    (m.pack.hostq = q :: qs → m.noSlot q = false →
      m.hostSends o = (m.modPack fun p => { p with hostq := p.hostq ++ [o] }) ∧
      (m.turn56 q.ctrls t = false → m.hostCycle t = m) ∧
      (m.turn56 q.ctrls t = true → m.hostCycle t = ((m.use56 q.ctrls t).hostDo q).hostFlows qs))) ∧
  (∀ (failing : List (Fin 16 × Nat)) (s : State),
    (∃ t : State, exec .flr s = .next t ∧ t.arch = t.next ∧ t.view = t.next ∧ t.turn = default ∧ (∀ n : Nat, n < 384 → t.next.core n = Mach.init.core n) ∧ t.next.pclk % 90 = 0 ∧
      t.next.pack.dev = s.next.pack.dev ∧ t.next.pack.thermo = s.next.pack.thermo) ∧
    exec .warmReset s = exec .flr s ∧
    (∃ t : State, exec .coldReset s = .next t ∧ t.arch = t.next ∧ t.next.pack.dev = default ∧ t.next.pack.thermo = s.next.pack.thermo) ∧
    (∃ t : State, exec (.coldPowerUp failing) s = .next t ∧ t.arch = t.next ∧ t.next.pack.dev = default ∧ ∀ n : Nat, n < 384 → t.next.core n = Mach.init.core n)) ∧
  (∀ s : State,
    (∃ t : State, exec .surpriseLinkLoss s = .next t ∧ t.next.pack.fenced = true ∧ t.next.pack.lloss = true ∧ t.next.cores = s.next.cores ∧
      ∀ q ∈ t.next.pack.regions, q.2.state ≠ 0 → q.2.state ≠ 4 → q.2.wantStop = true) ∧
    (∃ t : State, exec .thermalWarning s = .next t ∧ t.next.cores = s.next.cores ∧ t.next.clus = s.next.clus ∧
      t.next.pack.regions = s.next.pack.regions ∧ .report 0x900 0 ∈ t.next.pack.out) ∧
    (∃ t : State, exec .thermalTrip s = .next t ∧ .report 0x901 0 ∈ t.next.pack.out ∧
      ∀ q ∈ t.next.pack.regions, q.2.state ≠ 0 → q.2.state ≠ 4 → q.2.wantStop = true) ∧
    (∃ t : State, exec .powerTrip s = .next t ∧ .report 0x902 0 ∈ t.next.pack.out ∧
      ∀ q ∈ t.next.pack.regions, q.2.state = 4 → q.2.stopped = true)) ∧
  (∀ (k : ClusterId) (c : Fin 2) (v : BitVec 32) (key sig nonce : List Byte) (slot : Fin 2) (img : Image) (s : State),
    (s.next.core 384).flips.getLsbD 5 = false →
    exec .telemetry s = .next (s.mod fun m => m.modPack fun p => { p with out := p.out ++ [.telemetry m.counters] }) ∧
    (∃ t : State, exec (.freezeDump k) s = .next t ∧ t.next.cores = s.next.cores ∧ t.next.clus = s.next.clus ∧
      .dump k.val ((s.next.cl k.val).spad.bytes ((s.next.pair k.val).save * 131072) 131072)
        ((s.next.pair k.val).frzs ++ (s.next.pair k.val).evs) ∈ t.next.pack.out) ∧
    (∃ t : State, exec (.counterAdvance c v key sig) s = .next t ∧
      (rd s.next.pack.thermo c.val).toNat ≤ (rd t.next.pack.thermo c.val).toNat ∧
      (sha384 key ≠ Config.rooth → t.next.pack.thermo = s.next.pack.thermo) ∧
      (∀ (good : Bool) (j : Nat), good = (sha384 key == Config.rooth && verifies key sig (sha384 (Config.recordBytes c.val v)) && decide (v.toNat ≤ 64) &&
          (if c = 0 then List.range 48 else [48]).all fun i => match rd s.next.pack.running i with
            | none => false
            | some w => decide (v.toNat ≤ w.toNat)) →
        (rd t.next.pack.thermo j).toNat =
          if good && j == c.val then max (rd s.next.pack.thermo j).toNat v.toNat else (rd s.next.pack.thermo j).toNat)) ∧
    exec (.getMeasurements nonce) s = .next (s.mod fun m => m.modPack fun p => { p with
      out := p.out ++ [.measurements nonce [rd p.mrs 0, rd p.mrs 1, rd p.mrs 2, rd p.mrs 3]
        (deviceSig nonce [rd p.mrs 0, rd p.mrs 1, rd p.mrs 2, rd p.mrs 3])] }) ∧
    exec (.pldmFirmwareUpdate slot img) s = .next (s.mod fun m => m.modPack fun p => { p with
      slots := wr p.slots (2 * img.cls.val + slot.val) (some img) })) ∧
  ∀ (c : Fin 16) (block bad : Nat) (p : PathId) (s : State),
    exec (.hbmRefresh c) s = .next s ∧ exec (.phyRecalibration p) s = .next s ∧
    (∃ t : State, exec (.hbmScrub c block bad) s = .next t ∧ (∀ a : Nat, t.next.pack.dev.byte a = s.next.pack.dev.byte a) ∧
      (∀ w : Nat, w = (rd s.next.pack.weak (blockPa c.val block / 64)).val + bad → blockPa c.val block < 0x7800000000 →
        (2 < w → t.next.pack.dev.isBad (blockPa c.val block) 64 = true ∧
          rd t.next.pack.counters 0x173 = satInc (rd s.next.pack.counters 0x173) 1) ∧
        (0 < w → w ≤ 2 → s.next.pack.dev.isBad (blockPa c.val block) 64 = false → t.next.pack.dev = s.next.pack.dev ∧
          rd t.next.pack.counters 0x172 = satInc (rd s.next.pack.counters 0x172) 1 ∧
          (rd t.next.pack.weak (blockPa c.val block / 64)).val = w ∧ ∃ q ∈ t.next.pack.scrub, q.1 = blockPa c.val block / 64)) ∧
      (bad = 0 → s.next.pack.clean = true → t = s))
end

