-- ==== Sys2Proof/Laws/Maps.lean ====
section
/-! SUPPORT. Indexed state: what a read finds after a write, and what a write leaves as it was. -/

namespace Sys2Proof.Machine

@[simp] theorem rd_nil {α : Type} [Inhabited α] (k : Nat) : rd ([] : SMap α) k = default := rfl

theorem rd_cons {α : Type} [Inhabited α] (j : Nat) (v : α) (m : SMap α) (k : Nat) :
    rd ((j, v) :: m) k = if j = k then v else rd m k := rfl

/-- A read of the index written finds the value. -/
@[simp] theorem rd_wr_self {α : Type} [Inhabited α] (m : SMap α) (k : Nat) (v : α) : rd (wr m k v) k = v := by
  induction m with
  | nil => simp [wr, rd_cons]
  | cons q m ih =>
    obtain ⟨j, w⟩ := q
    unfold wr
    split
    · simp [rd_cons]
    · split
      · simp [rd_cons]
      · rename_i h _
        simp [rd_cons, h, ih]

/-- A write leaves every other index as it was. -/
theorem rd_wr_ne {α : Type} [Inhabited α] (m : SMap α) {k j : Nat} (v : α) (h : j ≠ k) : rd (wr m k v) j = rd m j := by
  induction m with
  | nil => simp [wr, rd_cons, Ne.symm h]
  | cons q m ih =>
    obtain ⟨i, w⟩ := q
    unfold wr
    split
    · rename_i e
      subst e
      simp [rd_cons, Ne.symm h]
    · split
      · simp [rd_cons, Ne.symm h]
      · simp only [rd_cons, ih]

@[simp] theorem rd_up_self {α : Type} [Inhabited α] (m : SMap α) (k : Nat) (f : α → α) : rd (up m k f) k = f (rd m k) := by
  simp [up]

theorem rd_up_ne {α : Type} [Inhabited α] (m : SMap α) {k j : Nat} (f : α → α) (h : j ≠ k) : rd (up m k f) j = rd m j := by
  simp [up, rd_wr_ne _ _ h]

/-- A read after a change of one index, in one equation. -/
theorem rd_up {α : Type} [Inhabited α] (m : SMap α) (k j : Nat) (f : α → α) :
    rd (up m k f) j = if j = k then f (rd m j) else rd m j := by
  split
  · rename_i h
    subst h
    simp
  · rename_i h
    exact rd_up_ne m f h

theorem rd_wr {α : Type} [Inhabited α] (m : SMap α) (k j : Nat) (v : α) : rd (wr m k v) j = if j = k then v else rd m j := by
  split
  · rename_i h
    subst h
    simp
  · rename_i h
    exact rd_wr_ne m v h

end Sys2Proof.Machine
end

