-- ==== Sys2Proof/Laws/Memory.lean ====
section
/-! SUPPORT. Memories: a read after a write, the bytes that a write leaves alone, and the canonical form, which every memory operation
keeps. -/

namespace Sys2Proof.Machine

/-! ### one byte -/

theorem cellAt_below (cs : List Host.Cell) {lo a : Nat} (h : cellsWf lo cs = true) (ha : a < lo) : cellAt cs a = 0 := by
  cases cs with
  | nil => rfl
  | cons q cs =>
    obtain ⟨b, w⟩ := q
    simp only [cellsWf, Bool.and_eq_true, decide_eq_true_eq] at h
    have hb : b ≠ a := by omega
    have hab : a < b := by omega
    simp [cellAt, hb, hab]

theorem cellsWf_mono {cs : List Host.Cell} {lo hi : Nat} (h : cellsWf hi cs = true) (hl : lo ≤ hi) : cellsWf lo cs = true := by
  cases cs with
  | nil => rfl
  | cons q cs =>
    obtain ⟨b, w⟩ := q
    simp only [cellsWf, Bool.and_eq_true, decide_eq_true_eq] at h ⊢
    exact ⟨⟨by omega, h.1.2⟩, h.2⟩

theorem cellsWf_cons (lo b : Nat) (w : Byte) (cs : List Host.Cell) :
    cellsWf lo ((b, w) :: cs) = true ↔ (lo ≤ b ∧ w ≠ 0) ∧ cellsWf (b + 1) cs = true := by
  simp only [cellsWf, Bool.and_eq_true, decide_eq_true_eq]

/-- Setting a byte keeps the canonical form. -/
theorem putCell_wf {cs : List Host.Cell} {lo a : Nat} (v : Byte) (h : cellsWf lo cs = true) (ha : lo ≤ a) :
    cellsWf lo (putCell cs a v) = true := by
  induction cs generalizing lo with
  | nil =>
    unfold putCell
    split
    · rfl
    · rename_i hv
      exact (cellsWf_cons ..).2 ⟨⟨ha, hv⟩, rfl⟩
  | cons q cs ih =>
    obtain ⟨b, w⟩ := q
    have hq := (cellsWf_cons ..).1 h
    unfold putCell
    split
    · rename_i e
      subst e
      split
      · exact cellsWf_mono hq.2 (by omega)
      · rename_i hv
        exact (cellsWf_cons ..).2 ⟨⟨ha, hv⟩, hq.2⟩
    · split
      · split
        · exact h
        · rename_i hv
          exact (cellsWf_cons ..).2 ⟨⟨ha, hv⟩, (cellsWf_cons ..).2 ⟨⟨by omega, hq.1.2⟩, hq.2⟩⟩
      · exact (cellsWf_cons ..).2 ⟨hq.1, ih hq.2 (by omega)⟩

/-- The byte set is the byte read. -/
theorem cellAt_putCell_self {cs : List Host.Cell} {lo : Nat} (a : Nat) (v : Byte) (h : cellsWf lo cs = true) :
    cellAt (putCell cs a v) a = v := by
  induction cs generalizing lo with
  | nil =>
    unfold putCell
    split
    · rename_i hv
      simp [cellAt, hv]
    · simp [cellAt]
  | cons q cs ih =>
    obtain ⟨b, w⟩ := q
    simp only [cellsWf, Bool.and_eq_true, decide_eq_true_eq] at h
    unfold putCell
    split
    · rename_i e
      subst e
      split
      · rename_i hv
        rw [cellAt_below cs h.2 (by omega), hv]
      · simp [cellAt]
    · rename_i hne
      split
      · rename_i hab
        split
        · rename_i hv
          simp [cellAt, hne, hab, hv]
        · simp [cellAt]
      · rename_i hab
        simp only [cellAt, hne, hab, if_false]
        exact ih h.2

/-- Every other byte reads as before. -/
theorem cellAt_putCell_ne {cs : List Host.Cell} {lo : Nat} {a j : Nat} (v : Byte) (h : cellsWf lo cs = true) (hj : j ≠ a) :
    cellAt (putCell cs a v) j = cellAt cs j := by
  induction cs generalizing lo with
  | nil =>
    unfold putCell
    split
    · rfl
    · simp [cellAt, Ne.symm hj]
  | cons q cs ih =>
    obtain ⟨b, w⟩ := q
    simp only [cellsWf, Bool.and_eq_true, decide_eq_true_eq] at h
    unfold putCell
    split
    · rename_i e
      subst e
      split
      · by_cases hlt : j < b
        · rw [cellAt_below cs h.2 (by omega)]
          simp [cellAt, Ne.symm hj, hlt]
        · simp [cellAt, Ne.symm hj, hlt]
      · simp [cellAt, Ne.symm hj]
    · rename_i hne
      split
      · rename_i hab
        split
        · rfl
        · by_cases hlt : j < a
          · have : j < b := by omega
            have hb : b ≠ j := by omega
            simp [cellAt, Ne.symm hj, hlt, this, hb]
          · simp [cellAt, Ne.symm hj, hlt]
      · simp only [cellAt, ih h.2]

/-! ### the operations of a memory -/

theorem Memory.wf_empty : (default : Memory).wf = true := rfl

theorem Memory.wf_put {m : Memory} (a : Nat) (v : Byte) (h : m.wf = true) : (m.put a v).wf = true := putCell_wf v h (Nat.zero_le _)

theorem Memory.byte_put_self {m : Memory} (a : Nat) (v : Byte) (h : m.wf = true) : (m.put a v).byte a = v := cellAt_putCell_self a v h

theorem Memory.byte_put_ne {m : Memory} {a j : Nat} (v : Byte) (h : m.wf = true) (hj : j ≠ a) : (m.put a v).byte j = m.byte j :=
  cellAt_putCell_ne v h hj

theorem Memory.wf_putBytes {m : Memory} (a : Nat) (bs : List Byte) (h : m.wf = true) : (m.putBytes a bs).wf = true := by
  induction bs generalizing m a with
  | nil => exact h
  | cons b bs ih => exact ih _ (Memory.wf_put a b h)

/-- A byte outside those written reads as before. -/
theorem Memory.byte_putBytes_out {m : Memory} {a j : Nat} (bs : List Byte) (h : m.wf = true) (hj : j < a ∨ a + bs.length ≤ j) :
    (m.putBytes a bs).byte j = m.byte j := by
  induction bs generalizing m a with
  | nil => rfl
  | cons b bs ih =>
    simp only [List.length_cons] at hj
    show ((m.put a b).putBytes (a + 1) bs).byte j = m.byte j
    rw [ih (Memory.wf_put a b h) (by omega), Memory.byte_put_ne b h (by omega)]

/-- A byte written reads as written. -/
theorem Memory.byte_putBytes_in {m : Memory} {a i : Nat} (bs : List Byte) (h : m.wf = true) (hi : i < bs.length) :
    (m.putBytes a bs).byte (a + i) = bs[i] := by
  induction bs generalizing m a i with
  | nil => simp at hi
  | cons b bs ih =>
    show ((m.put a b).putBytes (a + 1) bs).byte (a + i) = _
    cases i with
    | zero =>
      rw [Memory.byte_putBytes_out bs (Memory.wf_put a b h) (by omega)]
      exact Memory.byte_put_self a b h
    | succ i =>
      have := ih (m := m.put a b) (a := a + 1) (i := i) (Memory.wf_put a b h) (by simpa using hi)
      rw [show a + (i + 1) = a + 1 + i by omega]
      simpa using this

@[simp] theorem Memory.wf_mark (m : Memory) (a n : Nat) : (m.mark a n).wf = m.wf := rfl
@[simp] theorem Memory.wf_clean (m : Memory) (a n : Nat) : (m.clean a n).wf = m.wf := rfl
@[simp] theorem Memory.wf_correct (m : Memory) (w : Nat) : (m.correct w).wf = m.wf := rfl
@[simp] theorem Memory.byte_mark (m : Memory) (a n j : Nat) : (m.mark a n).byte j = m.byte j := rfl
@[simp] theorem Memory.byte_clean (m : Memory) (a n j : Nat) : (m.clean a n).byte j = m.byte j := rfl
@[simp] theorem Memory.byte_correct (m : Memory) (w j : Nat) : (m.correct w).byte j = m.byte j := rfl

theorem Memory.byte_store (m : Memory) (a : Nat) (bs : List Byte) (bad : Bool) (j : Nat) :
    (m.store a bs bad).byte j = (m.putBytes a bs).byte j := by
  unfold Memory.store
  cases bad <;> rfl

theorem Memory.wf_store {m : Memory} (a : Nat) (bs : List Byte) (bad : Bool) (h : m.wf = true) : (m.store a bs bad).wf = true := by
  have := Memory.wf_putBytes a bs h
  unfold Memory.store
  cases bad <;> simpa using this

theorem Memory.wf_storeMask {m : Memory} (a : Nat) (v : VWord) (mask : ByteMask) (bad : Bool) (h : m.wf = true) :
    (m.storeMask a v mask bad).wf = true := by
  have puts : ∀ (w : Nat) (js : List Nat) (m : Memory), m.wf = true →
      (js.foldl (fun m j => m.put (a + 8 * w + j) (BitVec.ofNat 8 (v.toNat / 2 ^ (64 * w + 8 * j)))) m).wf = true := by
    intro w js
    induction js with
    | nil => intro m h; exact h
    | cons j js ih => intro m h; exact ih _ (Memory.wf_put _ _ h)
  have words : ∀ (ws : List Nat) (m : Memory), m.wf = true →
      (ws.foldl (fun m w =>
        let sel := (List.range 8).filter fun j => mask.getLsbD (8 * w + j)
        if sel.isEmpty then m
        else
          let m' := sel.foldl (fun m j => m.put (a + 8 * w + j) (BitVec.ofNat 8 (v.toNat / 2 ^ (64 * w + 8 * j)))) m
          if bad then m'.mark (a + 8 * w) 8 else if sel.length = 8 then m'.clean (a + 8 * w) 8 else m') m).wf = true := by
    intro ws
    induction ws with
    | nil => intro m h; exact h
    | cons w ws ih =>
      intro m h
      refine ih _ ?_
      have hp := puts w ((List.range 8).filter fun j => mask.getLsbD (8 * w + j)) m h
      dsimp only
      split
      · exact h
      · split
        · simpa using hp
        · split
          · simpa using hp
          · exact hp
  unfold Memory.storeMask
  split
  · exact Memory.wf_store _ _ _ h
  · exact words _ _ h

/-- Removing the cells of some addresses keeps the canonical form. -/
theorem cellsWf_filter {cs : List Host.Cell} {lo : Nat} (f : Host.Cell → Bool) (h : cellsWf lo cs = true) :
    cellsWf lo (cs.filter f) = true := by
  induction cs generalizing lo with
  | nil => rfl
  | cons q cs ih =>
    obtain ⟨b, w⟩ := q
    simp only [cellsWf, Bool.and_eq_true, decide_eq_true_eq] at h
    simp only [List.filter_cons]
    split
    · simp only [cellsWf, Bool.and_eq_true, decide_eq_true_eq]
      exact ⟨h.1, ih h.2⟩
    · exact cellsWf_mono (ih h.2) (by omega)

end Sys2Proof.Machine
end

