-- ==== Sys2Proof/Laws/State.lean ====
section
/-! SUPPORT. One lemma for each field under each update of the state and of the machine, so that no proof unfolds an update. -/

namespace Sys2Proof.Machine

/-! ### updates of the state -/

@[simp] theorem State.mod_arch (s : State) (f : Mach → Mach) : (s.mod f).arch = s.arch := rfl
@[simp] theorem State.mod_view (s : State) (f : Mach → Mach) : (s.mod f).view = s.view := rfl
@[simp] theorem State.mod_next (s : State) (f : Mach → Mach) : (s.mod f).next = f s.next := rfl
@[simp] theorem State.mod_turn (s : State) (f : Mach → Mach) : (s.mod f).turn = s.turn := rfl
@[simp] theorem State.mod_todo (s : State) (f : Mach → Mach) : (s.mod f).todo = s.todo := rfl
@[simp] theorem State.mod_agenda (s : State) (f : Mach → Mach) : (s.mod f).agenda = s.agenda := rfl
@[simp] theorem State.mod_plan (s : State) (f : Mach → Mach) : (s.mod f).plan = s.plan := rfl
@[simp] theorem State.mod_draws (s : State) (f : Mach → Mach) : (s.mod f).draws = s.draws := rfl

@[simp] theorem State.modTurn_arch (s : State) (f : Turn → Turn) : (s.modTurn f).arch = s.arch := rfl
@[simp] theorem State.modTurn_view (s : State) (f : Turn → Turn) : (s.modTurn f).view = s.view := rfl
@[simp] theorem State.modTurn_next (s : State) (f : Turn → Turn) : (s.modTurn f).next = s.next := rfl
@[simp] theorem State.modTurn_turn (s : State) (f : Turn → Turn) : (s.modTurn f).turn = f s.turn := rfl
@[simp] theorem State.modTurn_todo (s : State) (f : Turn → Turn) : (s.modTurn f).todo = s.todo := rfl
@[simp] theorem State.modTurn_agenda (s : State) (f : Turn → Turn) : (s.modTurn f).agenda = s.agenda := rfl
@[simp] theorem State.modTurn_plan (s : State) (f : Turn → Turn) : (s.modTurn f).plan = s.plan := rfl
@[simp] theorem State.modTurn_draws (s : State) (f : Turn → Turn) : (s.modTurn f).draws = s.draws := rfl

@[simp] theorem State.modMe_arch (s : State) (f : Ctx → Ctx) : (s.modMe f).arch = s.arch := rfl
@[simp] theorem State.modMe_view (s : State) (f : Ctx → Ctx) : (s.modMe f).view = s.view := rfl
@[simp] theorem State.modMe_next (s : State) (f : Ctx → Ctx) : (s.modMe f).next = s.next.modCtx s.n s.x f := rfl
@[simp] theorem State.modMe_turn (s : State) (f : Ctx → Ctx) : (s.modMe f).turn = s.turn := rfl
@[simp] theorem State.modMe_todo (s : State) (f : Ctx → Ctx) : (s.modMe f).todo = s.todo := rfl
@[simp] theorem State.modMe_agenda (s : State) (f : Ctx → Ctx) : (s.modMe f).agenda = s.agenda := rfl
@[simp] theorem State.modMe_plan (s : State) (f : Ctx → Ctx) : (s.modMe f).plan = s.plan := rfl
@[simp] theorem State.modMe_draws (s : State) (f : Ctx → Ctx) : (s.modMe f).draws = s.draws := rfl

@[simp] theorem State.modMyCore_arch (s : State) (f : Core → Core) : (s.modMyCore f).arch = s.arch := rfl
@[simp] theorem State.modMyCore_view (s : State) (f : Core → Core) : (s.modMyCore f).view = s.view := rfl
@[simp] theorem State.modMyCore_next (s : State) (f : Core → Core) : (s.modMyCore f).next = s.next.modCore s.n f := rfl
@[simp] theorem State.modMyCore_turn (s : State) (f : Core → Core) : (s.modMyCore f).turn = s.turn := rfl
@[simp] theorem State.modMyCore_todo (s : State) (f : Core → Core) : (s.modMyCore f).todo = s.todo := rfl
@[simp] theorem State.modMyCore_agenda (s : State) (f : Core → Core) : (s.modMyCore f).agenda = s.agenda := rfl
@[simp] theorem State.modMyCore_plan (s : State) (f : Core → Core) : (s.modMyCore f).plan = s.plan := rfl
@[simp] theorem State.modMyCore_draws (s : State) (f : Core → Core) : (s.modMyCore f).draws = s.draws := rfl

@[simp] theorem State.modMyCl_arch (s : State) (f : Cluster → Cluster) : (s.modMyCl f).arch = s.arch := rfl
@[simp] theorem State.modMyCl_view (s : State) (f : Cluster → Cluster) : (s.modMyCl f).view = s.view := rfl
@[simp] theorem State.modMyCl_next (s : State) (f : Cluster → Cluster) : (s.modMyCl f).next = s.next.modCl s.clus f := rfl
@[simp] theorem State.modMyCl_turn (s : State) (f : Cluster → Cluster) : (s.modMyCl f).turn = s.turn := rfl
@[simp] theorem State.modMyCl_todo (s : State) (f : Cluster → Cluster) : (s.modMyCl f).todo = s.todo := rfl
@[simp] theorem State.modMyCl_agenda (s : State) (f : Cluster → Cluster) : (s.modMyCl f).agenda = s.agenda := rfl
@[simp] theorem State.modMyCl_plan (s : State) (f : Cluster → Cluster) : (s.modMyCl f).plan = s.plan := rfl
@[simp] theorem State.modMyCl_draws (s : State) (f : Cluster → Cluster) : (s.modMyCl f).draws = s.draws := rfl

@[simp] theorem State.raise_arch (s : State) (e : Exc) : (s.raise e).arch = s.arch := rfl
@[simp] theorem State.raise_view (s : State) (e : Exc) : (s.raise e).view = s.view := rfl
@[simp] theorem State.raise_next (s : State) (e : Exc) : (s.raise e).next = s.next := rfl
@[simp] theorem State.raise_turn (s : State) (e : Exc) : (s.raise e).turn = s.turn.note (100 + s.turn.pos) e := rfl
@[simp] theorem State.raise_todo (s : State) (e : Exc) : (s.raise e).todo = s.todo := rfl
@[simp] theorem State.raise_agenda (s : State) (e : Exc) : (s.raise e).agenda = s.agenda := rfl
@[simp] theorem State.raise_plan (s : State) (e : Exc) : (s.raise e).plan = s.plan := rfl
@[simp] theorem State.raise_draws (s : State) (e : Exc) : (s.raise e).draws = s.draws := rfl

@[simp] theorem State.land_arch (s : State) (lat : Nat) (w : Landing) (b : Bool) : (s.land lat w b).arch = s.arch := rfl
@[simp] theorem State.land_view (s : State) (lat : Nat) (w : Landing) (b : Bool) : (s.land lat w b).view = s.view := rfl
@[simp] theorem State.land_next (s : State) (lat : Nat) (w : Landing) (b : Bool) : (s.land lat w b).next = s.next.modCtx s.n s.x fun c => c.fly { due := s.age + lat, ord := s.ord, what := w, poison := b } := rfl
@[simp] theorem State.land_turn (s : State) (lat : Nat) (w : Landing) (b : Bool) : (s.land lat w b).turn = s.turn := rfl
@[simp] theorem State.land_todo (s : State) (lat : Nat) (w : Landing) (b : Bool) : (s.land lat w b).todo = s.todo := rfl
@[simp] theorem State.land_agenda (s : State) (lat : Nat) (w : Landing) (b : Bool) : (s.land lat w b).agenda = s.agenda := rfl
@[simp] theorem State.land_plan (s : State) (lat : Nat) (w : Landing) (b : Bool) : (s.land lat w b).plan = s.plan := rfl
@[simp] theorem State.land_draws (s : State) (lat : Nat) (w : Landing) (b : Bool) : (s.land lat w b).draws = s.draws := rfl

/-! ### what the issuing slot reads does not move with what it writes -/

@[simp] theorem State.mod_n (s : State) (f : Mach → Mach) : (s.mod f).n = s.n := rfl
@[simp] theorem State.mod_x (s : State) (f : Mach → Mach) : (s.mod f).x = s.x := rfl
@[simp] theorem State.mod_clus (s : State) (f : Mach → Mach) : (s.mod f).clus = s.clus := rfl
@[simp] theorem State.mod_me (s : State) (f : Mach → Mach) : (s.mod f).me = s.me := rfl
@[simp] theorem State.mod_myCore (s : State) (f : Mach → Mach) : (s.mod f).myCore = s.myCore := rfl
@[simp] theorem State.mod_myCl (s : State) (f : Mach → Mach) : (s.mod f).myCl = s.myCl := rfl
@[simp] theorem State.mod_myRegion (s : State) (f : Mach → Mach) : (s.mod f).myRegion = s.myRegion := rfl
@[simp] theorem State.mod_age (s : State) (f : Mach → Mach) : (s.mod f).age = s.age := rfl
@[simp] theorem State.mod_ord (s : State) (f : Mach → Mach) : (s.mod f).ord = s.ord := rfl
@[simp] theorem State.mod_cyc (s : State) (f : Mach → Mach) : (s.mod f).cyc = s.cyc := rfl

@[simp] theorem State.modMe_n (s : State) (f : Ctx → Ctx) : (s.modMe f).n = s.n := rfl
@[simp] theorem State.modMe_x (s : State) (f : Ctx → Ctx) : (s.modMe f).x = s.x := rfl
@[simp] theorem State.modMe_clus (s : State) (f : Ctx → Ctx) : (s.modMe f).clus = s.clus := rfl
@[simp] theorem State.modMe_me (s : State) (f : Ctx → Ctx) : (s.modMe f).me = s.me := rfl
@[simp] theorem State.modMe_myCore (s : State) (f : Ctx → Ctx) : (s.modMe f).myCore = s.myCore := rfl
@[simp] theorem State.modMe_myCl (s : State) (f : Ctx → Ctx) : (s.modMe f).myCl = s.myCl := rfl
@[simp] theorem State.modMe_myRegion (s : State) (f : Ctx → Ctx) : (s.modMe f).myRegion = s.myRegion := rfl
@[simp] theorem State.modMe_age (s : State) (f : Ctx → Ctx) : (s.modMe f).age = s.age := rfl
@[simp] theorem State.modMe_ord (s : State) (f : Ctx → Ctx) : (s.modMe f).ord = s.ord := rfl
@[simp] theorem State.modMe_cyc (s : State) (f : Ctx → Ctx) : (s.modMe f).cyc = s.cyc := rfl

@[simp] theorem State.modMyCore_n (s : State) (f : Core → Core) : (s.modMyCore f).n = s.n := rfl
@[simp] theorem State.modMyCore_x (s : State) (f : Core → Core) : (s.modMyCore f).x = s.x := rfl
@[simp] theorem State.modMyCore_clus (s : State) (f : Core → Core) : (s.modMyCore f).clus = s.clus := rfl
@[simp] theorem State.modMyCore_me (s : State) (f : Core → Core) : (s.modMyCore f).me = s.me := rfl
@[simp] theorem State.modMyCore_myCore (s : State) (f : Core → Core) : (s.modMyCore f).myCore = s.myCore := rfl
@[simp] theorem State.modMyCore_myCl (s : State) (f : Core → Core) : (s.modMyCore f).myCl = s.myCl := rfl
@[simp] theorem State.modMyCore_myRegion (s : State) (f : Core → Core) : (s.modMyCore f).myRegion = s.myRegion := rfl
@[simp] theorem State.modMyCore_age (s : State) (f : Core → Core) : (s.modMyCore f).age = s.age := rfl
@[simp] theorem State.modMyCore_ord (s : State) (f : Core → Core) : (s.modMyCore f).ord = s.ord := rfl
@[simp] theorem State.modMyCore_cyc (s : State) (f : Core → Core) : (s.modMyCore f).cyc = s.cyc := rfl

@[simp] theorem State.modMyCl_n (s : State) (f : Cluster → Cluster) : (s.modMyCl f).n = s.n := rfl
@[simp] theorem State.modMyCl_x (s : State) (f : Cluster → Cluster) : (s.modMyCl f).x = s.x := rfl
@[simp] theorem State.modMyCl_clus (s : State) (f : Cluster → Cluster) : (s.modMyCl f).clus = s.clus := rfl
@[simp] theorem State.modMyCl_me (s : State) (f : Cluster → Cluster) : (s.modMyCl f).me = s.me := rfl
@[simp] theorem State.modMyCl_myCore (s : State) (f : Cluster → Cluster) : (s.modMyCl f).myCore = s.myCore := rfl
@[simp] theorem State.modMyCl_myCl (s : State) (f : Cluster → Cluster) : (s.modMyCl f).myCl = s.myCl := rfl
@[simp] theorem State.modMyCl_myRegion (s : State) (f : Cluster → Cluster) : (s.modMyCl f).myRegion = s.myRegion := rfl
@[simp] theorem State.modMyCl_age (s : State) (f : Cluster → Cluster) : (s.modMyCl f).age = s.age := rfl
@[simp] theorem State.modMyCl_ord (s : State) (f : Cluster → Cluster) : (s.modMyCl f).ord = s.ord := rfl
@[simp] theorem State.modMyCl_cyc (s : State) (f : Cluster → Cluster) : (s.modMyCl f).cyc = s.cyc := rfl

@[simp] theorem State.land_n (s : State) (lat : Nat) (w : Landing) (b : Bool) : (s.land lat w b).n = s.n := rfl
@[simp] theorem State.land_x (s : State) (lat : Nat) (w : Landing) (b : Bool) : (s.land lat w b).x = s.x := rfl
@[simp] theorem State.land_clus (s : State) (lat : Nat) (w : Landing) (b : Bool) : (s.land lat w b).clus = s.clus := rfl
@[simp] theorem State.land_me (s : State) (lat : Nat) (w : Landing) (b : Bool) : (s.land lat w b).me = s.me := rfl
@[simp] theorem State.land_myCore (s : State) (lat : Nat) (w : Landing) (b : Bool) : (s.land lat w b).myCore = s.myCore := rfl
@[simp] theorem State.land_myCl (s : State) (lat : Nat) (w : Landing) (b : Bool) : (s.land lat w b).myCl = s.myCl := rfl
@[simp] theorem State.land_myRegion (s : State) (lat : Nat) (w : Landing) (b : Bool) : (s.land lat w b).myRegion = s.myRegion := rfl
@[simp] theorem State.land_age (s : State) (lat : Nat) (w : Landing) (b : Bool) : (s.land lat w b).age = s.age := rfl
@[simp] theorem State.land_ord (s : State) (lat : Nat) (w : Landing) (b : Bool) : (s.land lat w b).ord = s.ord := rfl
@[simp] theorem State.land_cyc (s : State) (lat : Nat) (w : Landing) (b : Bool) : (s.land lat w b).cyc = s.cyc := rfl

/-! ### updates of the machine -/

@[simp] theorem Mach.modCore_tile (m : Mach) (n : Nat) (f : Core → Core) : (m.modCore n f).tile = m.tile := rfl
@[simp] theorem Mach.modCore_clus (m : Mach) (n : Nat) (f : Core → Core) : (m.modCore n f).clus = m.clus := rfl
@[simp] theorem Mach.modCore_pairs (m : Mach) (n : Nat) (f : Core → Core) : (m.modCore n f).pairs = m.pairs := rfl
@[simp] theorem Mach.modCore_pack (m : Mach) (n : Nat) (f : Core → Core) : (m.modCore n f).pack = m.pack := rfl
@[simp] theorem Mach.modCore_pclk (m : Mach) (n : Nat) (f : Core → Core) : (m.modCore n f).pclk = m.pclk := rfl
@[simp] theorem Mach.modCore_owed (m : Mach) (n : Nat) (f : Core → Core) : (m.modCore n f).owed = m.owed := rfl

@[simp] theorem Mach.modCtx_tile (m : Mach) (n x : Nat) (f : Ctx → Ctx) : (m.modCtx n x f).tile = m.tile := rfl
@[simp] theorem Mach.modCtx_clus (m : Mach) (n x : Nat) (f : Ctx → Ctx) : (m.modCtx n x f).clus = m.clus := rfl
@[simp] theorem Mach.modCtx_pairs (m : Mach) (n x : Nat) (f : Ctx → Ctx) : (m.modCtx n x f).pairs = m.pairs := rfl
@[simp] theorem Mach.modCtx_pack (m : Mach) (n x : Nat) (f : Ctx → Ctx) : (m.modCtx n x f).pack = m.pack := rfl
@[simp] theorem Mach.modCtx_pclk (m : Mach) (n x : Nat) (f : Ctx → Ctx) : (m.modCtx n x f).pclk = m.pclk := rfl
@[simp] theorem Mach.modCtx_owed (m : Mach) (n x : Nat) (f : Ctx → Ctx) : (m.modCtx n x f).owed = m.owed := rfl

@[simp] theorem Mach.modEng_tile (m : Mach) (n e : Nat) (f : Engine → Engine) : (m.modEng n e f).tile = m.tile := rfl
@[simp] theorem Mach.modEng_clus (m : Mach) (n e : Nat) (f : Engine → Engine) : (m.modEng n e f).clus = m.clus := rfl
@[simp] theorem Mach.modEng_pairs (m : Mach) (n e : Nat) (f : Engine → Engine) : (m.modEng n e f).pairs = m.pairs := rfl
@[simp] theorem Mach.modEng_pack (m : Mach) (n e : Nat) (f : Engine → Engine) : (m.modEng n e f).pack = m.pack := rfl
@[simp] theorem Mach.modEng_pclk (m : Mach) (n e : Nat) (f : Engine → Engine) : (m.modEng n e f).pclk = m.pclk := rfl
@[simp] theorem Mach.modEng_owed (m : Mach) (n e : Nat) (f : Engine → Engine) : (m.modEng n e f).owed = m.owed := rfl

@[simp] theorem Mach.modBob_tile (m : Mach) (n b : Nat) (f : Bobbin → Bobbin) : (m.modBob n b f).tile = m.tile := rfl
@[simp] theorem Mach.modBob_clus (m : Mach) (n b : Nat) (f : Bobbin → Bobbin) : (m.modBob n b f).clus = m.clus := rfl
@[simp] theorem Mach.modBob_pairs (m : Mach) (n b : Nat) (f : Bobbin → Bobbin) : (m.modBob n b f).pairs = m.pairs := rfl
@[simp] theorem Mach.modBob_pack (m : Mach) (n b : Nat) (f : Bobbin → Bobbin) : (m.modBob n b f).pack = m.pack := rfl
@[simp] theorem Mach.modBob_pclk (m : Mach) (n b : Nat) (f : Bobbin → Bobbin) : (m.modBob n b f).pclk = m.pclk := rfl
@[simp] theorem Mach.modBob_owed (m : Mach) (n b : Nat) (f : Bobbin → Bobbin) : (m.modBob n b f).owed = m.owed := rfl

@[simp] theorem Mach.modMx_tile (m : Mach) (n : Nat) (f : Matrix → Matrix) : (m.modMx n f).tile = m.tile := rfl
@[simp] theorem Mach.modMx_clus (m : Mach) (n : Nat) (f : Matrix → Matrix) : (m.modMx n f).clus = m.clus := rfl
@[simp] theorem Mach.modMx_pairs (m : Mach) (n : Nat) (f : Matrix → Matrix) : (m.modMx n f).pairs = m.pairs := rfl
@[simp] theorem Mach.modMx_pack (m : Mach) (n : Nat) (f : Matrix → Matrix) : (m.modMx n f).pack = m.pack := rfl
@[simp] theorem Mach.modMx_pclk (m : Mach) (n : Nat) (f : Matrix → Matrix) : (m.modMx n f).pclk = m.pclk := rfl
@[simp] theorem Mach.modMx_owed (m : Mach) (n : Nat) (f : Matrix → Matrix) : (m.modMx n f).owed = m.owed := rfl

@[simp] theorem Mach.modCl_cores (m : Mach) (k : Nat) (f : Cluster → Cluster) : (m.modCl k f).cores = m.cores := rfl
@[simp] theorem Mach.modCl_tile (m : Mach) (k : Nat) (f : Cluster → Cluster) : (m.modCl k f).tile = m.tile := rfl
@[simp] theorem Mach.modCl_pairs (m : Mach) (k : Nat) (f : Cluster → Cluster) : (m.modCl k f).pairs = m.pairs := rfl
@[simp] theorem Mach.modCl_pack (m : Mach) (k : Nat) (f : Cluster → Cluster) : (m.modCl k f).pack = m.pack := rfl
@[simp] theorem Mach.modCl_pclk (m : Mach) (k : Nat) (f : Cluster → Cluster) : (m.modCl k f).pclk = m.pclk := rfl
@[simp] theorem Mach.modCl_owed (m : Mach) (k : Nat) (f : Cluster → Cluster) : (m.modCl k f).owed = m.owed := rfl

@[simp] theorem Mach.modPair_cores (m : Mach) (k : Nat) (f : Pair → Pair) : (m.modPair k f).cores = m.cores := rfl
@[simp] theorem Mach.modPair_tile (m : Mach) (k : Nat) (f : Pair → Pair) : (m.modPair k f).tile = m.tile := rfl
@[simp] theorem Mach.modPair_clus (m : Mach) (k : Nat) (f : Pair → Pair) : (m.modPair k f).clus = m.clus := rfl
@[simp] theorem Mach.modPair_pack (m : Mach) (k : Nat) (f : Pair → Pair) : (m.modPair k f).pack = m.pack := rfl
@[simp] theorem Mach.modPair_pclk (m : Mach) (k : Nat) (f : Pair → Pair) : (m.modPair k f).pclk = m.pclk := rfl
@[simp] theorem Mach.modPair_owed (m : Mach) (k : Nat) (f : Pair → Pair) : (m.modPair k f).owed = m.owed := rfl

@[simp] theorem Mach.modPack_cores (m : Mach) (f : Pack → Pack) : (m.modPack f).cores = m.cores := rfl
@[simp] theorem Mach.modPack_tile (m : Mach) (f : Pack → Pack) : (m.modPack f).tile = m.tile := rfl
@[simp] theorem Mach.modPack_clus (m : Mach) (f : Pack → Pack) : (m.modPack f).clus = m.clus := rfl
@[simp] theorem Mach.modPack_pairs (m : Mach) (f : Pack → Pack) : (m.modPack f).pairs = m.pairs := rfl
@[simp] theorem Mach.modPack_pclk (m : Mach) (f : Pack → Pack) : (m.modPack f).pclk = m.pclk := rfl
@[simp] theorem Mach.modPack_owed (m : Mach) (f : Pack → Pack) : (m.modPack f).owed = m.owed := rfl

@[simp] theorem Mach.modRegion_cores (m : Mach) (r : Nat) (f : Region → Region) : (m.modRegion r f).cores = m.cores := rfl
@[simp] theorem Mach.modRegion_tile (m : Mach) (r : Nat) (f : Region → Region) : (m.modRegion r f).tile = m.tile := rfl
@[simp] theorem Mach.modRegion_clus (m : Mach) (r : Nat) (f : Region → Region) : (m.modRegion r f).clus = m.clus := rfl
@[simp] theorem Mach.modRegion_pairs (m : Mach) (r : Nat) (f : Region → Region) : (m.modRegion r f).pairs = m.pairs := rfl
@[simp] theorem Mach.modRegion_pclk (m : Mach) (r : Nat) (f : Region → Region) : (m.modRegion r f).pclk = m.pclk := rfl
@[simp] theorem Mach.modRegion_owed (m : Mach) (r : Nat) (f : Region → Region) : (m.modRegion r f).owed = m.owed := rfl

@[simp] theorem Mach.modSource_cores (m : Mach) (u : Nat) (f : Source → Source) : (m.modSource u f).cores = m.cores := rfl
@[simp] theorem Mach.modSource_tile (m : Mach) (u : Nat) (f : Source → Source) : (m.modSource u f).tile = m.tile := rfl
@[simp] theorem Mach.modSource_clus (m : Mach) (u : Nat) (f : Source → Source) : (m.modSource u f).clus = m.clus := rfl
@[simp] theorem Mach.modSource_pairs (m : Mach) (u : Nat) (f : Source → Source) : (m.modSource u f).pairs = m.pairs := rfl
@[simp] theorem Mach.modSource_pclk (m : Mach) (u : Nat) (f : Source → Source) : (m.modSource u f).pclk = m.pclk := rfl
@[simp] theorem Mach.modSource_owed (m : Mach) (u : Nat) (f : Source → Source) : (m.modSource u f).owed = m.owed := rfl

@[simp] theorem Mach.modGusset_cores (m : Mach) (g : Nat) (f : Gusset → Gusset) : (m.modGusset g f).cores = m.cores := rfl
@[simp] theorem Mach.modGusset_tile (m : Mach) (g : Nat) (f : Gusset → Gusset) : (m.modGusset g f).tile = m.tile := rfl
@[simp] theorem Mach.modGusset_clus (m : Mach) (g : Nat) (f : Gusset → Gusset) : (m.modGusset g f).clus = m.clus := rfl
@[simp] theorem Mach.modGusset_pairs (m : Mach) (g : Nat) (f : Gusset → Gusset) : (m.modGusset g f).pairs = m.pairs := rfl
@[simp] theorem Mach.modGusset_pclk (m : Mach) (g : Nat) (f : Gusset → Gusset) : (m.modGusset g f).pclk = m.pclk := rfl
@[simp] theorem Mach.modGusset_owed (m : Mach) (g : Nat) (f : Gusset → Gusset) : (m.modGusset g f).owed = m.owed := rfl

@[simp] theorem Mach.modCore_cl_kept (m : Mach) (n : Nat) (f : Core → Core) (j : Nat) : (m.modCore n f).cl j = m.cl j := rfl
@[simp] theorem Mach.modCore_pair_kept (m : Mach) (n : Nat) (f : Core → Core) (j : Nat) : (m.modCore n f).pair j = m.pair j := rfl
@[simp] theorem Mach.modCore_region_kept (m : Mach) (n : Nat) (f : Core → Core) (j : Nat) : (m.modCore n f).region j = m.region j := rfl
@[simp] theorem Mach.modCore_source_kept (m : Mach) (n : Nat) (f : Core → Core) (j : Nat) : (m.modCore n f).source j = m.source j := rfl
@[simp] theorem Mach.modCore_gusset_kept (m : Mach) (n : Nat) (f : Core → Core) (j : Nat) : (m.modCore n f).gusset j = m.gusset j := rfl
@[simp] theorem Mach.modCore_regionOf_kept (m : Mach) (n : Nat) (f : Core → Core) (j : Nat) : (m.modCore n f).regionOf j = m.regionOf j := rfl
@[simp] theorem Mach.modCtx_cl_kept (m : Mach) (n x : Nat) (f : Ctx → Ctx) (j : Nat) : (m.modCtx n x f).cl j = m.cl j := rfl
@[simp] theorem Mach.modCtx_pair_kept (m : Mach) (n x : Nat) (f : Ctx → Ctx) (j : Nat) : (m.modCtx n x f).pair j = m.pair j := rfl
@[simp] theorem Mach.modCtx_region_kept (m : Mach) (n x : Nat) (f : Ctx → Ctx) (j : Nat) : (m.modCtx n x f).region j = m.region j := rfl
@[simp] theorem Mach.modCtx_source_kept (m : Mach) (n x : Nat) (f : Ctx → Ctx) (j : Nat) : (m.modCtx n x f).source j = m.source j := rfl
@[simp] theorem Mach.modCtx_gusset_kept (m : Mach) (n x : Nat) (f : Ctx → Ctx) (j : Nat) : (m.modCtx n x f).gusset j = m.gusset j := rfl
@[simp] theorem Mach.modCtx_regionOf_kept (m : Mach) (n x : Nat) (f : Ctx → Ctx) (j : Nat) : (m.modCtx n x f).regionOf j = m.regionOf j := rfl
@[simp] theorem Mach.modEng_cl_kept (m : Mach) (n e : Nat) (f : Engine → Engine) (j : Nat) : (m.modEng n e f).cl j = m.cl j := rfl
@[simp] theorem Mach.modEng_pair_kept (m : Mach) (n e : Nat) (f : Engine → Engine) (j : Nat) : (m.modEng n e f).pair j = m.pair j := rfl
@[simp] theorem Mach.modEng_region_kept (m : Mach) (n e : Nat) (f : Engine → Engine) (j : Nat) : (m.modEng n e f).region j = m.region j := rfl
@[simp] theorem Mach.modEng_source_kept (m : Mach) (n e : Nat) (f : Engine → Engine) (j : Nat) : (m.modEng n e f).source j = m.source j := rfl
@[simp] theorem Mach.modEng_gusset_kept (m : Mach) (n e : Nat) (f : Engine → Engine) (j : Nat) : (m.modEng n e f).gusset j = m.gusset j := rfl
@[simp] theorem Mach.modEng_regionOf_kept (m : Mach) (n e : Nat) (f : Engine → Engine) (j : Nat) : (m.modEng n e f).regionOf j = m.regionOf j := rfl
@[simp] theorem Mach.modBob_cl_kept (m : Mach) (n b : Nat) (f : Bobbin → Bobbin) (j : Nat) : (m.modBob n b f).cl j = m.cl j := rfl
@[simp] theorem Mach.modBob_pair_kept (m : Mach) (n b : Nat) (f : Bobbin → Bobbin) (j : Nat) : (m.modBob n b f).pair j = m.pair j := rfl
@[simp] theorem Mach.modBob_region_kept (m : Mach) (n b : Nat) (f : Bobbin → Bobbin) (j : Nat) : (m.modBob n b f).region j = m.region j := rfl
@[simp] theorem Mach.modBob_source_kept (m : Mach) (n b : Nat) (f : Bobbin → Bobbin) (j : Nat) : (m.modBob n b f).source j = m.source j := rfl
@[simp] theorem Mach.modBob_gusset_kept (m : Mach) (n b : Nat) (f : Bobbin → Bobbin) (j : Nat) : (m.modBob n b f).gusset j = m.gusset j := rfl
@[simp] theorem Mach.modBob_regionOf_kept (m : Mach) (n b : Nat) (f : Bobbin → Bobbin) (j : Nat) : (m.modBob n b f).regionOf j = m.regionOf j := rfl
@[simp] theorem Mach.modMx_cl_kept (m : Mach) (n : Nat) (f : Matrix → Matrix) (j : Nat) : (m.modMx n f).cl j = m.cl j := rfl
@[simp] theorem Mach.modMx_pair_kept (m : Mach) (n : Nat) (f : Matrix → Matrix) (j : Nat) : (m.modMx n f).pair j = m.pair j := rfl
@[simp] theorem Mach.modMx_region_kept (m : Mach) (n : Nat) (f : Matrix → Matrix) (j : Nat) : (m.modMx n f).region j = m.region j := rfl
@[simp] theorem Mach.modMx_source_kept (m : Mach) (n : Nat) (f : Matrix → Matrix) (j : Nat) : (m.modMx n f).source j = m.source j := rfl
@[simp] theorem Mach.modMx_gusset_kept (m : Mach) (n : Nat) (f : Matrix → Matrix) (j : Nat) : (m.modMx n f).gusset j = m.gusset j := rfl
@[simp] theorem Mach.modMx_regionOf_kept (m : Mach) (n : Nat) (f : Matrix → Matrix) (j : Nat) : (m.modMx n f).regionOf j = m.regionOf j := rfl
@[simp] theorem Mach.modCl_core_kept (m : Mach) (k : Nat) (f : Cluster → Cluster) (j : Nat) : (m.modCl k f).core j = m.core j := rfl
@[simp] theorem Mach.modCl_ctx_kept (m : Mach) (k : Nat) (f : Cluster → Cluster) (i j : Nat) : (m.modCl k f).ctx i j = m.ctx i j := rfl
@[simp] theorem Mach.modCl_pair_kept (m : Mach) (k : Nat) (f : Cluster → Cluster) (j : Nat) : (m.modCl k f).pair j = m.pair j := rfl
@[simp] theorem Mach.modCl_region_kept (m : Mach) (k : Nat) (f : Cluster → Cluster) (j : Nat) : (m.modCl k f).region j = m.region j := rfl
@[simp] theorem Mach.modCl_source_kept (m : Mach) (k : Nat) (f : Cluster → Cluster) (j : Nat) : (m.modCl k f).source j = m.source j := rfl
@[simp] theorem Mach.modCl_gusset_kept (m : Mach) (k : Nat) (f : Cluster → Cluster) (j : Nat) : (m.modCl k f).gusset j = m.gusset j := rfl
@[simp] theorem Mach.modCl_regionOf_kept (m : Mach) (k : Nat) (f : Cluster → Cluster) (j : Nat) : (m.modCl k f).regionOf j = m.regionOf j := rfl
@[simp] theorem Mach.modPair_core_kept (m : Mach) (k : Nat) (f : Pair → Pair) (j : Nat) : (m.modPair k f).core j = m.core j := rfl
@[simp] theorem Mach.modPair_ctx_kept (m : Mach) (k : Nat) (f : Pair → Pair) (i j : Nat) : (m.modPair k f).ctx i j = m.ctx i j := rfl
@[simp] theorem Mach.modPair_cl_kept (m : Mach) (k : Nat) (f : Pair → Pair) (j : Nat) : (m.modPair k f).cl j = m.cl j := rfl
@[simp] theorem Mach.modPair_region_kept (m : Mach) (k : Nat) (f : Pair → Pair) (j : Nat) : (m.modPair k f).region j = m.region j := rfl
@[simp] theorem Mach.modPair_source_kept (m : Mach) (k : Nat) (f : Pair → Pair) (j : Nat) : (m.modPair k f).source j = m.source j := rfl
@[simp] theorem Mach.modPair_gusset_kept (m : Mach) (k : Nat) (f : Pair → Pair) (j : Nat) : (m.modPair k f).gusset j = m.gusset j := rfl
@[simp] theorem Mach.modPair_regionOf_kept (m : Mach) (k : Nat) (f : Pair → Pair) (j : Nat) : (m.modPair k f).regionOf j = m.regionOf j := rfl
@[simp] theorem Mach.modPack_core_kept (m : Mach) (f : Pack → Pack) (j : Nat) : (m.modPack f).core j = m.core j := rfl
@[simp] theorem Mach.modRegion_core_kept (m : Mach) (r : Nat) (f : Region → Region) (j : Nat) : (m.modRegion r f).core j = m.core j := rfl
@[simp] theorem Mach.modSource_core_kept (m : Mach) (u : Nat) (f : Source → Source) (j : Nat) : (m.modSource u f).core j = m.core j := rfl
@[simp] theorem Mach.modGusset_core_kept (m : Mach) (g : Nat) (f : Gusset → Gusset) (j : Nat) : (m.modGusset g f).core j = m.core j := rfl
@[simp] theorem Mach.modPack_ctx_kept (m : Mach) (f : Pack → Pack) (i j : Nat) : (m.modPack f).ctx i j = m.ctx i j := rfl
@[simp] theorem Mach.modRegion_ctx_kept (m : Mach) (r : Nat) (f : Region → Region) (i j : Nat) : (m.modRegion r f).ctx i j = m.ctx i j := rfl
@[simp] theorem Mach.modSource_ctx_kept (m : Mach) (u : Nat) (f : Source → Source) (i j : Nat) : (m.modSource u f).ctx i j = m.ctx i j := rfl
@[simp] theorem Mach.modGusset_ctx_kept (m : Mach) (g : Nat) (f : Gusset → Gusset) (i j : Nat) : (m.modGusset g f).ctx i j = m.ctx i j := rfl
@[simp] theorem Mach.modPack_cl_kept (m : Mach) (f : Pack → Pack) (j : Nat) : (m.modPack f).cl j = m.cl j := rfl
@[simp] theorem Mach.modRegion_cl_kept (m : Mach) (r : Nat) (f : Region → Region) (j : Nat) : (m.modRegion r f).cl j = m.cl j := rfl
@[simp] theorem Mach.modSource_cl_kept (m : Mach) (u : Nat) (f : Source → Source) (j : Nat) : (m.modSource u f).cl j = m.cl j := rfl
@[simp] theorem Mach.modGusset_cl_kept (m : Mach) (g : Nat) (f : Gusset → Gusset) (j : Nat) : (m.modGusset g f).cl j = m.cl j := rfl
@[simp] theorem Mach.modPack_pair_kept (m : Mach) (f : Pack → Pack) (j : Nat) : (m.modPack f).pair j = m.pair j := rfl
@[simp] theorem Mach.modRegion_pair_kept (m : Mach) (r : Nat) (f : Region → Region) (j : Nat) : (m.modRegion r f).pair j = m.pair j := rfl
@[simp] theorem Mach.modSource_pair_kept (m : Mach) (u : Nat) (f : Source → Source) (j : Nat) : (m.modSource u f).pair j = m.pair j := rfl
@[simp] theorem Mach.modGusset_pair_kept (m : Mach) (g : Nat) (f : Gusset → Gusset) (j : Nat) : (m.modGusset g f).pair j = m.pair j := rfl
@[simp] theorem Mach.modRegion_source_kept (m : Mach) (r : Nat) (f : Region → Region) (j : Nat) : (m.modRegion r f).source j = m.source j := rfl
@[simp] theorem Mach.modRegion_gusset_kept (m : Mach) (r : Nat) (f : Region → Region) (j : Nat) : (m.modRegion r f).gusset j = m.gusset j := rfl
@[simp] theorem Mach.modSource_region_kept (m : Mach) (u : Nat) (f : Source → Source) (j : Nat) : (m.modSource u f).region j = m.region j := rfl
@[simp] theorem Mach.modSource_gusset_kept (m : Mach) (u : Nat) (f : Source → Source) (j : Nat) : (m.modSource u f).gusset j = m.gusset j := rfl
@[simp] theorem Mach.modSource_regionOf_kept (m : Mach) (u : Nat) (f : Source → Source) (j : Nat) : (m.modSource u f).regionOf j = m.regionOf j := rfl
@[simp] theorem Mach.modGusset_region_kept (m : Mach) (g : Nat) (f : Gusset → Gusset) (j : Nat) : (m.modGusset g f).region j = m.region j := rfl
@[simp] theorem Mach.modGusset_source_kept (m : Mach) (g : Nat) (f : Gusset → Gusset) (j : Nat) : (m.modGusset g f).source j = m.source j := rfl
@[simp] theorem Mach.modGusset_regionOf_kept (m : Mach) (g : Nat) (f : Gusset → Gusset) (j : Nat) : (m.modGusset g f).regionOf j = m.regionOf j := rfl

/-! ### an indexed part after its own update -/

theorem Mach.modCore_core (m : Mach) (n j : Nat) (f : Core → Core) : (m.modCore n f).core j = if j = n then f (m.core j) else m.core j :=
  rd_up _ _ _ _

theorem Mach.modCl_cl (m : Mach) (k j : Nat) (f : Cluster → Cluster) : (m.modCl k f).cl j = if j = k then f (m.cl j) else m.cl j :=
  rd_up _ _ _ _

theorem Mach.modPair_pair (m : Mach) (k j : Nat) (f : Pair → Pair) : (m.modPair k f).pair j = if j = k then f (m.pair j) else m.pair j :=
  rd_up _ _ _ _

theorem Mach.modRegion_region (m : Mach) (r j : Nat) (f : Region → Region) :
    (m.modRegion r f).region j = if j = r then f (m.region j) else m.region j :=
  rd_up _ _ _ _

theorem Mach.modSource_source (m : Mach) (u j : Nat) (f : Source → Source) :
    (m.modSource u f).source j = if j = u then f (m.source j) else m.source j :=
  rd_up _ _ _ _

theorem Mach.modGusset_gusset (m : Mach) (g j : Nat) (f : Gusset → Gusset) :
    (m.modGusset g f).gusset j = if j = g then f (m.gusset j) else m.gusset j :=
  rd_up _ _ _ _

@[simp] theorem Mach.modCore_core_self (m : Mach) (n : Nat) (f : Core → Core) : (m.modCore n f).core n = f (m.core n) := rd_up_self _ _ _
@[simp] theorem Mach.modCl_cl_self (m : Mach) (k : Nat) (f : Cluster → Cluster) : (m.modCl k f).cl k = f (m.cl k) := rd_up_self _ _ _
@[simp] theorem Mach.modPair_pair_self (m : Mach) (k : Nat) (f : Pair → Pair) : (m.modPair k f).pair k = f (m.pair k) := rd_up_self _ _ _
@[simp] theorem Mach.modRegion_region_self (m : Mach) (r : Nat) (f : Region → Region) : (m.modRegion r f).region r = f (m.region r) :=
  rd_up_self _ _ _
@[simp] theorem Mach.modSource_source_self (m : Mach) (u : Nat) (f : Source → Source) : (m.modSource u f).source u = f (m.source u) :=
  rd_up_self _ _ _
@[simp] theorem Mach.modGusset_gusset_self (m : Mach) (g : Nat) (f : Gusset → Gusset) : (m.modGusset g f).gusset g = f (m.gusset g) :=
  rd_up_self _ _ _

/-- The core of a changed context: everything but its contexts is as it was. -/
@[simp] theorem Mach.modCtx_core_self (m : Mach) (n x : Nat) (f : Ctx → Ctx) :
    (m.modCtx n x f).core n = { m.core n with ctxs := up (m.core n).ctxs x f } := by
  unfold Mach.modCtx
  rw [Mach.modCore_core_self]

theorem Mach.modCtx_core_ne (m : Mach) {n j : Nat} (x : Nat) (f : Ctx → Ctx) (h : j ≠ n) : (m.modCtx n x f).core j = m.core j := by
  unfold Mach.modCtx
  rw [Mach.modCore_core, if_neg h]

/-- A context after the change of one. -/
theorem Mach.modCtx_ctx (m : Mach) (n x i j : Nat) (f : Ctx → Ctx) :
    (m.modCtx n x f).ctx i j = if i = n ∧ j = x then f (m.ctx i j) else m.ctx i j := by
  unfold Mach.ctx
  by_cases hi : i = n
  · subst hi
    rw [Mach.modCtx_core_self]
    by_cases hj : j = x
    · subst hj
      simp [rd_up_self]
    · simp [hj, rd_up_ne _ _ hj]
  · rw [Mach.modCtx_core_ne _ _ _ hi]
    simp [hi]

@[simp] theorem Mach.modCtx_ctx_self (m : Mach) (n x : Nat) (f : Ctx → Ctx) : (m.modCtx n x f).ctx n x = f (m.ctx n x) := by
  simp [Mach.modCtx_ctx]

/-- A change of a core that leaves its contexts. -/
theorem Mach.modCore_ctx (m : Mach) (n i j : Nat) (f : Core → Core) (h : (f (m.core n)).ctxs = (m.core n).ctxs) :
    (m.modCore n f).ctx i j = m.ctx i j := by
  unfold Mach.ctx
  rw [Mach.modCore_core]
  split
  · rename_i e
    subst e
    rw [h]
  · rfl

end Sys2Proof.Machine
end

