-- ==== Sys2Proof/Laws/Slots.lean ====
section
/-! SUPPORT. What the shared operations of slots do: checks that pass and fail, what `issue` answers, results put in flight. -/

namespace Sys2Proof.Machine

/-! ### answers -/

theorem issue_error (s : State) (e : Exc) : issue s (.error e) = .next (s.raise e) := rfl

theorem issue_ok (s t : State) (h : t.flying ≤ 96) : issue s (.ok t) = .next t := by
  simp [issue, Nat.not_lt.mpr h]

theorem issue_full (s t : State) (h : 96 < t.flying) : issue s (.ok t) = .next (s.raise (s.oper 28)) := by
  simp [issue, h]

/-- A slot answers a next state: its effect, a fault of its own, or OPER 28. -/
theorem issue_cases (s t : State) (r : Except Exc State) (h : issue s r = .next t) :
    (r = .ok t ∧ t.flying ≤ 96) ∨ (∃ e, r = .error e ∧ t = s.raise e) ∨ t = s.raise (s.oper 28) := by
  cases r with
  | error e => exact .inr (.inl ⟨e, rfl, by simpa [issue, eq_comm] using h⟩)
  | ok u =>
    by_cases hf : 96 < u.flying
    · exact .inr (.inr (by simpa [issue, hf, eq_comm] using h))
    · have : u = t := by simpa [issue, hf] using h
      exact .inl ⟨by rw [this], this ▸ Nat.not_lt.mp hf⟩

/-- No slot ends in a fault of the model or a refusal. -/
theorem issue_next (s : State) (r : Except Exc State) : ∃ t, issue s r = .next t := by
  cases r with
  | error e => exact ⟨_, rfl⟩
  | ok u => by_cases h : 96 < u.flying <;> simp [issue, h]

/-! ### the do-notation of checks -/

@[simp] theorem ok_bind {α β : Type} (a : α) (f : α → Except Exc β) : (Except.ok a >>= f) = f a := rfl
@[simp] theorem error_bind {α β : Type} (e : Exc) (f : α → Except Exc β) : ((Except.error e : Except Exc α) >>= f) = .error e := rfl
@[simp] theorem pure_ok {α : Type} (a : α) : (pure a : Except Exc α) = .ok a := rfl

@[simp] theorem when_true (e : Exc) : when true e = .error e := rfl
@[simp] theorem when_false (e : Exc) : when false e = .ok () := rfl

theorem when_ok (c : Bool) (e : Exc) (h : c = false) : when c e = .ok () := by simp [h]
theorem when_error (c : Bool) (e : Exc) (h : c = true) : when c e = .error e := by simp [h]

/-! ### operand checks (R119, R161) -/

theorem chkS_ok (s : State) (rs : List SReg)
    (h : ∀ r ∈ rs, r ≠ 0 → s.me.filling 1 r.toNat = false ∧ (rd s.me.s r.toNat).poison = false) : s.chkS rs = .ok () := by
  have h1 : (rs.any fun r => r != 0 && s.me.filling 1 r.toNat) = false := by
    simp only [List.any_eq_false, Bool.and_eq_true, bne_iff_ne]
    exact fun r hr ⟨h0, hf⟩ => by simp [(h r hr h0).1] at hf
  have h2 : (rs.any fun r => r != 0 && (rd s.me.s r.toNat).poison) = false := by
    simp only [List.any_eq_false, Bool.and_eq_true, bne_iff_ne]
    exact fun r hr ⟨h0, hf⟩ => by simp [(h r hr h0).2] at hf
  unfold State.chkS
  rw [when_ok _ _ h1, ok_bind, when_ok _ _ h2]

theorem chkS_early (s : State) (rs : List SReg) (h : ∃ r ∈ rs, r ≠ 0 ∧ s.me.filling 1 r.toNat = true) :
    s.chkS rs = .error (exc cEARLY (s.info 0)) := by
  have h1 : (rs.any fun r => r != 0 && s.me.filling 1 r.toNat) = true := by
    obtain ⟨r, hr, h0, hf⟩ := h
    simp only [List.any_eq_true, Bool.and_eq_true, bne_iff_ne]
    exact ⟨r, hr, h0, hf⟩
  unfold State.chkS
  rw [when_error _ _ h1]; rfl

theorem chkS_poison (s : State) (rs : List SReg) (h1 : ∀ r ∈ rs, r ≠ 0 → s.me.filling 1 r.toNat = false)
    (h2 : ∃ r ∈ rs, r ≠ 0 ∧ (rd s.me.s r.toNat).poison = true) : s.chkS rs = .error (exc cPOISON (s.info 0)) := by
  have h3 : (rs.any fun r => r != 0 && s.me.filling 1 r.toNat) = false := by
    simp only [List.any_eq_false, Bool.and_eq_true, bne_iff_ne]
    exact fun r hr ⟨h0, hf⟩ => by simp [h1 r hr h0] at hf
  have h4 : (rs.any fun r => r != 0 && (rd s.me.s r.toNat).poison) = true := by
    obtain ⟨r, hr, h0, hf⟩ := h2
    simp only [List.any_eq_true, Bool.and_eq_true, bne_iff_ne]
    exact ⟨r, hr, h0, hf⟩
  unfold State.chkS
  rw [when_ok _ _ h3, ok_bind, when_error _ _ h4]; rfl

theorem chkV_ok (s : State) (vs : List VCode) (ps : List PReg) (np : Bool)
    (hv : ∀ v ∈ vs, v.toNat < 120 → s.me.filling 0 (s.me.phys v.toNat) = false ∧
      (np = false → (rd s.myCore.v (s.me.phys v.toNat)).poison = false))
    (hp : ∀ p ∈ ps, p ≠ 0 → s.me.filling 2 (s.me.physP p.toNat) = false) : s.chkV vs ps np = .ok () := by
  have h1 : (((vs.filter fun v => decide (v.toNat < 120)).any fun v => s.me.filling 0 (s.me.phys v.toNat)) ||
      ps.any fun p => p != 0 && s.me.filling 2 (s.me.physP p.toNat)) = false := by
    simp only [Bool.or_eq_false_iff, List.any_eq_false, List.mem_filter, decide_eq_true_eq, Bool.and_eq_true, bne_iff_ne]
    refine ⟨fun v ⟨hm, hl⟩ => by simp [(hv v hm hl).1], fun p hm ⟨h0, hf⟩ => by simp [hp p hm h0] at hf⟩
  have h2 : (!np && (vs.filter fun v => decide (v.toNat < 120)).any fun v => (rd s.myCore.v (s.me.phys v.toNat)).poison) = false := by
    cases np with
    | true => rfl
    | false =>
      simp only [Bool.not_false, Bool.true_and, List.any_eq_false, List.mem_filter, decide_eq_true_eq]
      exact fun v ⟨hm, hl⟩ => by simp [(hv v hm hl).2 rfl]
  unfold State.chkV
  simp only [h1, h2, when_false, ok_bind]

theorem chkV_early (s : State) (vs : List VCode) (ps : List PReg) (np : Bool)
    (h : (∃ v ∈ vs, v.toNat < 120 ∧ s.me.filling 0 (s.me.phys v.toNat) = true) ∨
      ∃ p ∈ ps, p ≠ 0 ∧ s.me.filling 2 (s.me.physP p.toNat) = true) : s.chkV vs ps np = .error (exc cEARLY (s.info 0)) := by
  have h1 : (((vs.filter fun v => decide (v.toNat < 120)).any fun v => s.me.filling 0 (s.me.phys v.toNat)) ||
      ps.any fun p => p != 0 && s.me.filling 2 (s.me.physP p.toNat)) = true := by
    simp only [Bool.or_eq_true, List.any_eq_true, List.mem_filter, decide_eq_true_eq, Bool.and_eq_true, bne_iff_ne]
    rcases h with ⟨v, hm, hl, hf⟩ | ⟨p, hm, h0, hf⟩
    · exact .inl ⟨v, ⟨hm, hl⟩, hf⟩
    · exact .inr ⟨p, hm, h0, hf⟩
  unfold State.chkV
  simp only [h1, when_true, error_bind]; rfl

theorem chkV_poison (s : State) (vs : List VCode) (ps : List PReg)
    (hv : ∀ v ∈ vs, v.toNat < 120 → s.me.filling 0 (s.me.phys v.toNat) = false)
    (hp : ∀ p ∈ ps, p ≠ 0 → s.me.filling 2 (s.me.physP p.toNat) = false)
    (h : ∃ v ∈ vs, v.toNat < 120 ∧ (rd s.myCore.v (s.me.phys v.toNat)).poison = true) :
    s.chkV vs ps false = .error (exc cPOISON (s.info 0)) := by
  have h1 : (((vs.filter fun v => decide (v.toNat < 120)).any fun v => s.me.filling 0 (s.me.phys v.toNat)) ||
      ps.any fun p => p != 0 && s.me.filling 2 (s.me.physP p.toNat)) = false := by
    simp only [Bool.or_eq_false_iff, List.any_eq_false, List.mem_filter, decide_eq_true_eq, Bool.and_eq_true, bne_iff_ne]
    refine ⟨fun v ⟨hm, hl⟩ => by simp [hv v hm hl], fun p hm ⟨h0, hf⟩ => by simp [hp p hm h0] at hf⟩
  have h2 : (!false && (vs.filter fun v => decide (v.toNat < 120)).any fun v => (rd s.myCore.v (s.me.phys v.toNat)).poison) = true := by
    obtain ⟨v, hm, hl, hf⟩ := h
    simp only [Bool.not_false, Bool.true_and, List.any_eq_true, List.mem_filter, decide_eq_true_eq]
    exact ⟨v, ⟨hm, hl⟩, hf⟩
  unfold State.chkV
  simp only [h1, h2, when_false, ok_bind, when_true]; rfl

theorem chkPriv_compute (s : State) (h : isControl s.n = false) : s.chkPriv = .error (exc cPRIV (s.info 0)) := by
  simp [State.chkPriv, h, State.plain, exc]

theorem chkPriv_control (s : State) (h : isControl s.n = true) : s.chkPriv = .ok () := by
  simp [State.chkPriv, h]

/-! ### addresses (R130) -/

theorem chkAddr_ok (ea : Word) (size : Nat) (h1 : ea.toNat < spadEnd) (h2 : ea.toNat % size = 0) : chkAddr ea size = .ok () := by
  have : ¬ spadEnd ≤ ea.toNat := by omega
  simp [chkAddr, this, h2]

theorem chkAddr_bounds (ea : Word) (size : Nat) (h : spadEnd ≤ ea.toNat) : chkAddr ea size = .error (exc cBOUNDS ea) := by
  simp [chkAddr, h]

theorem chkAddr_align (ea : Word) (size : Nat) (h1 : ea.toNat < spadEnd) (h2 : ea.toNat % size ≠ 0) :
    chkAddr ea size = .error (exc cALIGN ea) := by
  have : ¬ spadEnd ≤ ea.toNat := by omega
  simp [chkAddr, this, h2]

/-! ### results in flight (R71, R89) -/

/-- Turn changes leave the results in flight. -/
@[simp] theorem flying_modTurn (s : State) (f : Turn → Turn) (hc : (f s.turn).core = s.turn.core) (hx : (f s.turn).ctx = s.turn.ctx) :
    (s.modTurn f).flying = s.flying := by
  simp [State.flying, State.modTurn, State.n, State.x, hc, hx]

/-- A result for s0, k0 or p0 is discarded. -/
@[simp] theorem putS_zero (s : State) (v : Word) (l : Nat) : s.putS 0 v l = s := rfl
@[simp] theorem putK_zero (s : State) (v : Bool) (l : Nat) : s.putK 0 v l = s := rfl
@[simp] theorem putP_zero (s : State) (v : Pred) (l : Nat) : s.putP 0 v l = s := rfl

/-- Putting results in flight and noting accesses changes the next machine alone. -/
theorem land_frame (s : State) (l : Nat) (w : Landing) (b : Bool) :
    (s.land l w b).arch = s.arch ∧ (s.land l w b).view = s.view ∧ (s.land l w b).turn = s.turn ∧ (s.land l w b).todo = s.todo ∧
      (s.land l w b).agenda = s.agenda ∧ (s.land l w b).plan = s.plan ∧ (s.land l w b).draws = s.draws := ⟨rfl, rfl, rfl, rfl, rfl, rfl, rfl⟩

theorem access_frame (s : State) (w : Nat) (a : Access) :
    (s.access w a).arch = s.arch ∧ (s.access w a).view = s.view ∧ (s.access w a).turn = s.turn ∧ (s.access w a).next.cores = s.next.cores ∧
      (s.access w a).next.pack = s.next.pack := ⟨rfl, rfl, rfl, rfl, rfl⟩

/-- An access joins the cluster's accesses, after those already there. -/
theorem access_pend (s : State) (w : Nat) (a : Access) :
    ((s.access w a).next.cl s.clus).pend = (s.next.cl s.clus).pend ++
      [{ core := s.n, ctx := s.x, uid := s.me.task.map Task.uid, ord := s.ord, due := s.age + w, acc := a }] := by
  simp [State.access, State.modMyCl, State.mod]

/-- A raised fault changes the turn alone. -/
theorem raise_frame (s : State) (e : Exc) : (s.raise e).next = s.next ∧ (s.raise e).arch = s.arch ∧ (s.raise e).view = s.view := ⟨rfl, rfl, rfl⟩

end Sys2Proof.Machine
end

