-- ==== Sys2Proof/Laws/Updates.lean ====
section
/-! SUPPORT. One lemma for each field under the updates that stand beside the machine's meanings, and what the posts of a decode class, a push
of a gusset, freeze events, device memory's blocks and register marks come to. -/

namespace Sys2Proof.Machine

/-! ### updates -/

@[simp] theorem Ctx.emptied_task (c : Ctx) : c.emptied.task = none := rfl
@[simp] theorem Ctx.emptied_run (c : Ctx) : c.emptied.run = .none := rfl
@[simp] theorem Ctx.emptied_vwb (c : Ctx) : c.emptied.vwb = 0 := rfl
@[simp] theorem Ctx.emptied_vws (c : Ctx) : c.emptied.vws = 0 := rfl
@[simp] theorem Ctx.emptied_seam (c : Ctx) : c.emptied.seam = none := rfl
@[simp] theorem Ctx.emptied_segbuf (c : Ctx) : c.emptied.segbuf = none := rfl
@[simp] theorem Ctx.emptied_s (c : Ctx) : c.emptied.s = c.s := rfl
@[simp] theorem Ctx.emptied_k (c : Ctx) : c.emptied.k = c.k := rfl
@[simp] theorem Ctx.emptied_p (c : Ctx) : c.emptied.p = c.p := rfl
@[simp] theorem Ctx.emptied_pc (c : Ctx) : c.emptied.pc = c.pc := rfl
@[simp] theorem Ctx.emptied_inflight (c : Ctx) : c.emptied.inflight = c.inflight := rfl
@[simp] theorem Ctx.emptied_trapc (c : Ctx) : c.emptied.trapc = c.trapc := rfl

@[simp] theorem Mach.serial_cores (m : Mach) : m.serial.cores = m.cores := rfl
@[simp] theorem Mach.serial_tile (m : Mach) : m.serial.tile = m.tile := rfl
@[simp] theorem Mach.serial_clus (m : Mach) : m.serial.clus = m.clus := rfl
@[simp] theorem Mach.serial_pairs (m : Mach) : m.serial.pairs = m.pairs := rfl
@[simp] theorem Mach.serial_pack (m : Mach) : m.serial.pack = { m.pack with serial := m.pack.serial + 1 } := rfl
@[simp] theorem Mach.serial_pclk (m : Mach) : m.serial.pclk = m.pclk := rfl
@[simp] theorem Mach.serial_owed (m : Mach) : m.serial.owed = m.owed := rfl

@[simp] theorem Mach.owe_cores (m : Mach) (w : Nat) (o : Owed) : (m.owe w o).cores = m.cores := rfl
@[simp] theorem Mach.owe_tile (m : Mach) (w : Nat) (o : Owed) : (m.owe w o).tile = m.tile := rfl
@[simp] theorem Mach.owe_clus (m : Mach) (w : Nat) (o : Owed) : (m.owe w o).clus = m.clus := rfl
@[simp] theorem Mach.owe_pairs (m : Mach) (w : Nat) (o : Owed) : (m.owe w o).pairs = m.pairs := rfl
@[simp] theorem Mach.owe_pack (m : Mach) (w : Nat) (o : Owed) : (m.owe w o).pack = m.pack := rfl
@[simp] theorem Mach.owe_pclk (m : Mach) (w : Nat) (o : Owed) : (m.owe w o).pclk = m.pclk := rfl
@[simp] theorem Mach.owe_owed (m : Mach) (w : Nat) (o : Owed) : (m.owe w o).owed = m.owed ++ [(.pair (m.pclk + w), o)] := rfl

@[simp] theorem Mach.modJob_cores (m : Mach) (j : Nat) (f : Job → Job) : (m.modJob j f).cores = m.cores := rfl
@[simp] theorem Mach.modJob_tile (m : Mach) (j : Nat) (f : Job → Job) : (m.modJob j f).tile = m.tile := rfl
@[simp] theorem Mach.modJob_clus (m : Mach) (j : Nat) (f : Job → Job) : (m.modJob j f).clus = m.clus := rfl
@[simp] theorem Mach.modJob_pairs (m : Mach) (j : Nat) (f : Job → Job) : (m.modJob j f).pairs = m.pairs := rfl
@[simp] theorem Mach.modJob_pclk (m : Mach) (j : Nat) (f : Job → Job) : (m.modJob j f).pclk = m.pclk := rfl
@[simp] theorem Mach.modJob_owed (m : Mach) (j : Nat) (f : Job → Job) : (m.modJob j f).owed = m.owed := rfl
@[simp] theorem Mach.modJob_region (m : Mach) (j : Nat) (f : Job → Job) (r : Nat) : (m.modJob j f).region r = m.region r := rfl
@[simp] theorem Mach.modJob_core (m : Mach) (j : Nat) (f : Job → Job) (n : Nat) : (m.modJob j f).core n = m.core n := rfl
@[simp] theorem Mach.modJob_cl (m : Mach) (j : Nat) (f : Job → Job) (k : Nat) : (m.modJob j f).cl k = m.cl k := rfl

@[simp] theorem Mach.modTile_tile (m : Mach) (n : Nat) (f : Memory → Memory) : (m.modTile n f).tile = m.tile := rfl
@[simp] theorem Mach.modTile_clus (m : Mach) (n : Nat) (f : Memory → Memory) : (m.modTile n f).clus = m.clus := rfl
@[simp] theorem Mach.modTile_pairs (m : Mach) (n : Nat) (f : Memory → Memory) : (m.modTile n f).pairs = m.pairs := rfl
@[simp] theorem Mach.modTile_pack (m : Mach) (n : Nat) (f : Memory → Memory) : (m.modTile n f).pack = m.pack := rfl
@[simp] theorem Mach.modTile_pclk (m : Mach) (n : Nat) (f : Memory → Memory) : (m.modTile n f).pclk = m.pclk := rfl
@[simp] theorem Mach.modTile_owed (m : Mach) (n : Nat) (f : Memory → Memory) : (m.modTile n f).owed = m.owed := rfl
@[simp] theorem Mach.modTile_core_self (m : Mach) (n : Nat) (f : Memory → Memory) :
    (m.modTile n f).core n = { m.core n with tile := f (m.core n).tile } := by
  unfold Mach.modTile
  rw [Mach.modCore_core_self]

@[simp] theorem State.modTodo_arch (s : State) (f : Mach → Mach × List Owed) : (s.modTodo f).arch = s.arch := rfl
@[simp] theorem State.modTodo_view (s : State) (f : Mach → Mach × List Owed) : (s.modTodo f).view = s.view := rfl
@[simp] theorem State.modTodo_next (s : State) (f : Mach → Mach × List Owed) : (s.modTodo f).next = (f s.next).1 := rfl
@[simp] theorem State.modTodo_turn (s : State) (f : Mach → Mach × List Owed) : (s.modTodo f).turn = s.turn := rfl
@[simp] theorem State.modTodo_todo (s : State) (f : Mach → Mach × List Owed) : (s.modTodo f).todo = (f s.next).2 ++ s.todo := rfl
@[simp] theorem State.modTodo_agenda (s : State) (f : Mach → Mach × List Owed) : (s.modTodo f).agenda = s.agenda := rfl
@[simp] theorem State.modTodo_plan (s : State) (f : Mach → Mach × List Owed) : (s.modTodo f).plan = s.plan := rfl
@[simp] theorem State.modTodo_draws (s : State) (f : Mach → Mach × List Owed) : (s.modTodo f).draws = s.draws := rfl

@[simp] theorem Mach.devMeets_cores (m : Mach) (a n : Nat) : (m.devMeets a n).cores = m.cores := rfl
@[simp] theorem Mach.devMeets_tile (m : Mach) (a n : Nat) : (m.devMeets a n).tile = m.tile := rfl
@[simp] theorem Mach.devMeets_clus (m : Mach) (a n : Nat) : (m.devMeets a n).clus = m.clus := rfl
@[simp] theorem Mach.devMeets_pairs (m : Mach) (a n : Nat) : (m.devMeets a n).pairs = m.pairs := rfl
@[simp] theorem Mach.devMeets_pclk (m : Mach) (a n : Nat) : (m.devMeets a n).pclk = m.pclk := rfl
@[simp] theorem Mach.devMeets_owed (m : Mach) (a n : Nat) : (m.devMeets a n).owed = m.owed := rfl

@[simp] theorem Mach.measure_cores (m : Mach) (r : Nat) (v : BitVec 48) : (m.measure r v).cores = m.cores := rfl
@[simp] theorem Mach.measure_tile (m : Mach) (r : Nat) (v : BitVec 48) : (m.measure r v).tile = m.tile := rfl
@[simp] theorem Mach.measure_clus (m : Mach) (r : Nat) (v : BitVec 48) : (m.measure r v).clus = m.clus := rfl
@[simp] theorem Mach.measure_pairs (m : Mach) (r : Nat) (v : BitVec 48) : (m.measure r v).pairs = m.pairs := rfl
@[simp] theorem Mach.measure_pclk (m : Mach) (r : Nat) (v : BitVec 48) : (m.measure r v).pclk = m.pclk := rfl
@[simp] theorem Mach.measure_owed (m : Mach) (r : Nat) (v : BitVec 48) : (m.measure r v).owed = m.owed := rfl

@[simp] theorem Mach.loaderEnds_cores (m : Mach) (e : Option (Nat × Nat)) : (m.loaderEnds e).cores = m.cores := rfl
@[simp] theorem Mach.loaderEnds_tile (m : Mach) (e : Option (Nat × Nat)) : (m.loaderEnds e).tile = m.tile := rfl
@[simp] theorem Mach.loaderEnds_clus (m : Mach) (e : Option (Nat × Nat)) : (m.loaderEnds e).clus = m.clus := rfl
@[simp] theorem Mach.loaderEnds_pairs (m : Mach) (e : Option (Nat × Nat)) : (m.loaderEnds e).pairs = m.pairs := rfl
@[simp] theorem Mach.loaderEnds_pclk (m : Mach) (e : Option (Nat × Nat)) : (m.loaderEnds e).pclk = m.pclk := rfl

@[simp] theorem Mach.expandBy_tile (m : Mach) (n x hdr due : Nat) : (m.expandBy n x hdr due).tile = m.tile := rfl
@[simp] theorem Mach.expandBy_clus (m : Mach) (n x hdr due : Nat) : (m.expandBy n x hdr due).clus = m.clus := rfl
@[simp] theorem Mach.expandBy_pairs (m : Mach) (n x hdr due : Nat) : (m.expandBy n x hdr due).pairs = m.pairs := rfl
@[simp] theorem Mach.expandBy_pack (m : Mach) (n x hdr due : Nat) : (m.expandBy n x hdr due).pack = m.pack := rfl
@[simp] theorem Mach.expandBy_pclk (m : Mach) (n x hdr due : Nat) : (m.expandBy n x hdr due).pclk = m.pclk := rfl
@[simp] theorem Mach.noExpansion_cores (m : Mach) (n x : Nat) : (m.noExpansion n x).cores = m.cores := rfl
@[simp] theorem Mach.noExpansion_tile (m : Mach) (n x : Nat) : (m.noExpansion n x).tile = m.tile := rfl
@[simp] theorem Mach.noExpansion_clus (m : Mach) (n x : Nat) : (m.noExpansion n x).clus = m.clus := rfl
@[simp] theorem Mach.noExpansion_pairs (m : Mach) (n x : Nat) : (m.noExpansion n x).pairs = m.pairs := rfl
@[simp] theorem Mach.noExpansion_pack (m : Mach) (n x : Nat) : (m.noExpansion n x).pack = m.pack := rfl
@[simp] theorem Mach.noExpansion_pclk (m : Mach) (n x : Nat) : (m.noExpansion n x).pclk = m.pclk := rfl

@[simp] theorem Cluster.wipeTags_spad (c : Cluster) : c.wipeTags.spad = c.spad := rfl
@[simp] theorem Cluster.wipeTags_pend (c : Cluster) : c.wipeTags.pend = c.pend := rfl
@[simp] theorem Cluster.wipeTags_banks (c : Cluster) : c.wipeTags.banks = c.banks := rfl
@[simp] theorem Cluster.wipeTags_queue (c : Cluster) : c.wipeTags.queue = c.queue := rfl
@[simp] theorem Cluster.wipeTags_groups (c : Cluster) : c.wipeTags.groups = c.groups := rfl
@[simp] theorem Cluster.wipeTags_tags (c : Cluster) : c.wipeTags.tags = [] := rfl

@[simp] theorem Pack.devStore_counters (p : Pack) (a : Nat) (bs : List Byte) (bad : Bool) : (p.devStore a bs bad).counters = p.counters := rfl
@[simp] theorem Pack.devStore_regs (p : Pack) (a : Nat) (bs : List Byte) (bad : Bool) : (p.devStore a bs bad).regs = p.regs := rfl
@[simp] theorem Pack.devStore_out (p : Pack) (a : Nat) (bs : List Byte) (bad : Bool) : (p.devStore a bs bad).out = p.out := rfl
@[simp] theorem Pack.devStore_hostq (p : Pack) (a : Nat) (bs : List Byte) (bad : Bool) : (p.devStore a bs bad).hostq = p.hostq := rfl
@[simp] theorem Pack.devStore_wheels (p : Pack) (a : Nat) (bs : List Byte) (bad : Bool) : (p.devStore a bs bad).wheels = p.wheels := rfl
@[simp] theorem Pack.devStore_dev (p : Pack) (a : Nat) (bs : List Byte) (bad : Bool) : (p.devStore a bs bad).dev = p.dev.store a bs bad := rfl

/-! ### device memory as its controllers keep it (R442, R443, R447) -/

/-- Reading never changes device memory. -/
@[simp] theorem Pack.meets_dev (p old : Pack) (bs : List Nat) : (p.meets old bs).dev = p.dev := by
  unfold Pack.meets
  split <;> rfl

/-- Of a device memory without errors a read leaves everything as it was. -/
theorem Pack.meets_clean (p : Pack) {old : Pack} (bs : List Nat) (h : old.clean = true) : p.meets old bs = p := by
  simp [Pack.meets, h]

/-- A write-back touches device memory's bytes and uncorrectable marks as little as a read does. -/
@[simp] theorem Pack.scrubCloses_dev (p : Pack) : p.scrubCloses.dev = p.dev := rfl
@[simp] theorem Pack.scrubOpens_dev (p : Pack) (f : Nat → Bool) : (p.scrubOpens f).dev = p.dev := rfl

/-- Symbols that go bad change no byte. -/
theorem Pack.upset_byte (p : Pack) (b n j : Nat) : (p.upset b n).dev.byte j = p.dev.byte j := by
  unfold Pack.upset
  dsimp only
  split
  · rfl
  · split <;> rfl

/-- What waits to be written back after a write is what waited before it. -/
theorem Pack.devWrite_scrub (p : Pack) (a n : Nat) (f : Memory → Memory) : ∀ q ∈ (p.devWrite a n f).scrub, q ∈ p.scrub := by
  intro q h
  unfold Pack.devWrite at h
  simp only at h
  split at h
  · cases h
  · exact (List.mem_filter.1 h).1

/-! ### posts of a decode class (R273, R281, R282) -/

/-- The count of a class less what later posts owe it. -/
def Cluster.balance (c : Cluster) (cls : Nat) : Int := ((rd c.cpend cls : Nat) : Int) - ((rd c.cdebt cls : Nat) : Int)

/-- A post adds its count, whether it raises the pending count or pays what is owed. -/
theorem Cluster.expects_balance (c : Cluster) (cls n : Nat) : (c.expects cls n).balance cls = c.balance cls + n := by
  unfold Cluster.balance Cluster.expects
  by_cases h : min (rd c.cdebt cls) n = 0
  · simp only [if_pos h, rd_up_self]
    omega
  · simp only [if_neg h, rd_up_self]
    omega

/-- A rewind takes its count back, whether or not the messages have opened. -/
theorem Cluster.takesBack_balance (c : Cluster) (cls n : Nat) : (c.takesBack cls n).balance cls = c.balance cls - n := by
  unfold Cluster.balance Cluster.takesBack
  by_cases h : n = min (rd c.cpend cls) n
  · simp only [if_pos h, rd_up_self]
    omega
  · simp only [if_neg h, rd_up_self]
    omega

/-- Posts that are taken back and made again count once. -/
theorem Cluster.expects_takesBack_balance (c : Cluster) (cls n : Nat) : ((c.takesBack cls n).expects cls n).balance cls = c.balance cls := by
  rw [Cluster.expects_balance, Cluster.takesBack_balance]
  omega

/-! ### a full gusset (R58, R69) -/

/-- A push never shortens a gusset, and moves neither its consumer's view nor its output. -/
theorem Gusset.push_ents (g : Gusset) (e : GusEnt) :
    (g.push e).ents = g.ents ∨ (g.push e).ents = g.ents ++ [e] ∧ g.ents.length < g.depth := by
  unfold Gusset.push
  split
  · exact .inl rfl
  · split
    · exact .inl rfl
    · rename_i h
      exact .inr ⟨rfl, Nat.lt_of_not_le h⟩

/-- A push lands, or waits behind those that wait. -/
theorem Gusset.pushed_cases (g : Gusset) (runs : Bool) (e : GusEnt) :
    g.pushed runs e = g.push e ∨ g.pushed runs e = { g with late := g.late ++ [e] } := by
  unfold Gusset.pushed
  split
  · exact .inr rfl
  · exact .inl rfl

/-! ### freeze events (R382) -/

@[simp] theorem Pair.posts_evs (p : Pair) (e : Event) : (p.posts e).evs = p.evs := rfl
@[simp] theorem Pair.posts_ovf (p : Pair) (e : Event) : (p.posts e).ovf = p.ovf := rfl
@[simp] theorem Pair.posts_handler (p : Pair) (e : Event) : (p.posts e).handler = p.handler := rfl
@[simp] theorem Pair.posts_epc (p : Pair) (e : Event) : (p.posts e).epc = p.epc := rfl
@[simp] theorem Pair.posts_dead (p : Pair) (e : Event) : (p.posts e).dead = p.dead := rfl

/-- Of a context the queue then holds the event posted and no other. -/
theorem Pair.posts_of_ctx (p : Pair) (e : Event) :
    (p.posts e).frzs.filter (fun q => q.core == e.core && q.ctx == e.ctx) = [e] := by
  simp [Pair.posts, List.filter_append, List.filter_filter]

/-! ### device memory (R442, R447) -/

@[simp] theorem Pack.devWrite_dev (p : Pack) (a n : Nat) (f : Memory → Memory) : (p.devWrite a n f).dev = f p.dev := rfl
@[simp] theorem Pack.devWrite_cxl (p : Pack) (a n : Nat) (f : Memory → Memory) : (p.devWrite a n f).cxl = p.cxl := rfl
@[simp] theorem Pack.devWrite_host (p : Pack) (a n : Nat) (f : Memory → Memory) : (p.devWrite a n f).host = p.host := rfl
@[simp] theorem Pack.devWrite_counters (p : Pack) (a n : Nat) (f : Memory → Memory) : (p.devWrite a n f).counters = p.counters := rfl
@[simp] theorem Pack.devWrite_jobs (p : Pack) (a n : Nat) (f : Memory → Memory) : (p.devWrite a n f).jobs = p.jobs := rfl
@[simp] theorem Pack.devWrite_regions (p : Pack) (a n : Nat) (f : Memory → Memory) : (p.devWrite a n f).regions = p.regions := rfl
@[simp] theorem Pack.devWrite_wheels (p : Pack) (a n : Nat) (f : Memory → Memory) : (p.devWrite a n f).wheels = p.wheels := rfl
@[simp] theorem Pack.scrubOpens_weak (p : Pack) (g : Nat → Bool) : (p.scrubOpens g).weak = p.weak := rfl

/-! ### register files (R443) -/

/-- A result that is whole takes its register's error mark with it, and touches nothing but the marks. -/
theorem Mach.renewed_cases (m : Mach) (n x : Nat) (w : Landing) :
    m.renewed n x w = m ∨
      m.renewed n x w = m.modCore n fun c => { c with soft := c.soft.filter fun q => w.whole x != some q } := by
  unfold Mach.renewed
  split
  · exact .inl rfl
  · exact .inr rfl

@[simp] theorem Mach.renewed_clus (m : Mach) (n x : Nat) (w : Landing) : (m.renewed n x w).clus = m.clus := by
  rcases m.renewed_cases n x w with h | h <;> rw [h] <;> rfl
@[simp] theorem Mach.renewed_pairs (m : Mach) (n x : Nat) (w : Landing) : (m.renewed n x w).pairs = m.pairs := by
  rcases m.renewed_cases n x w with h | h <;> rw [h] <;> rfl
@[simp] theorem Mach.renewed_pack (m : Mach) (n x : Nat) (w : Landing) : (m.renewed n x w).pack = m.pack := by
  rcases m.renewed_cases n x w with h | h <;> rw [h] <;> rfl
@[simp] theorem Mach.renewed_pclk (m : Mach) (n x : Nat) (w : Landing) : (m.renewed n x w).pclk = m.pclk := by
  rcases m.renewed_cases n x w with h | h <;> rw [h] <;> rfl

/-- The correction of what a bundle reads leaves the turn, the machine that the cycle found and the one that its slots read. -/
theorem State.correctRegs_rest (s : State) :
    s.correctRegs.turn = s.turn ∧ s.correctRegs.arch = s.arch ∧ s.correctRegs.view = s.view ∧ s.correctRegs.todo = s.todo := by
  simp only [State.correctRegs]
  split <;> exact ⟨rfl, rfl, rfl, rfl⟩

/-! ### own digests (R356) -/

/-- A digest that is already among those sent is owed no more: a rewind that sends it again adds no comparison. -/
theorem Group.owes_of_own (g : Group) (n seq : Nat) (v : Word) (c : Nat) (h : (n, seq, v, c) ∈ g.own) : g.owes n seq = false := by
  unfold Group.owes
  have : (g.own.any fun q => q.1 == n && q.2.1 == seq) = true :=
    List.any_eq_true.mpr ⟨_, h, by simp⟩
  simp [this]

end Sys2Proof.Machine
end

