-- ==== Sys2Proof/Tests/Slice0.lean ====
section
/-! SUPPORT. Tests: ill-formed terms and refused words, words of spec/ decoded, single steps, and states that meet the hypotheses of
the statements. -/

namespace Sys2Proof.Tests

open Sys2Proof.Machine Sys2Proof.Claims

/-! ### ill-formed terms, one for each check, and words that the decoder refuses -/

theorem test_illformed_conditions :
    Instr.wf (.kcmp 7 0 0 0) = false ∧ Instr.wf (.kcmpImm 7 0 0 0) = false ∧ Instr.wf (.klog 7 0 0 0) = false ∧
    Instr.wf (.vcmp 7 0 0 0) = false ∧ Instr.wf (.ptest 0 0 3) = false := by
  refine ⟨rfl, rfl, rfl, rfl, rfl⟩

/-- R130: a post-incremented load whose data register is its base writes one register twice; s0 is written by neither. -/
theorem test_illformed_post_increment :
    Instr.wf (.ldb true 5 5 1) = false ∧ Instr.wf (.ldbn true 5 5 1) = false ∧ Instr.wf (.ldh true 5 5 1) = false ∧
    Instr.wf (.ldhn true 5 5 1) = false ∧ Instr.wf (.ldw true 5 5 1) = false ∧ Instr.wf (.ldwn true 5 5 1) = false ∧
    Instr.wf (.ldd true 5 5 1) = false ∧ Instr.wf (.ldd true 0 0 1) = true ∧ Instr.wf (.ldd false 5 5 1) = true := by
  refine ⟨rfl, rfl, rfl, rfl, rfl, rfl, rfl, rfl, rfl⟩

/-- R76: a bobbin code in a field that excludes it. -/
theorem test_illformed_bobbins :
    Instr.wf (.vld false 120 0 0) = false ∧ Instr.wf (.vst false 120 0 0) = false ∧ Instr.wf (.vstm false 127 0 0) = false ∧
    Instr.wf (.spillv 120 0 0) = false ∧ Instr.wf (.fillv 120 0 0) = false ∧ Instr.wf (.vq8 false 120 0 0) = false ∧
    Instr.wf (.vdq8 false 0 120 0) = false ∧ Instr.wf (.red false 120 0 0) = false ∧ Instr.wf (.red false 0 120 0) = false := by
  refine ⟨rfl, rfl, rfl, rfl, rfl, rfl, rfl, rfl, rfl⟩

/-- R83, R267: the widths of what tokchk names. -/
theorem test_illformed_tokchk :
    Instr.wf (.tokchk 1 0 32) = false ∧ Instr.wf (.tokchk 2 0 16) = false ∧ Instr.wf (.tokchk 3 0 1) = false ∧ Instr.wf (.tokchk 0 0 127) = true := by
  refine ⟨rfl, rfl, rfl, rfl⟩

/-- R218 to R220: MODE 3, a field that the mode does not use, bits of X that must be zero, reserved conditions and operations. -/
theorem test_illformed_microwords :
    Instr.wf (.mmac 0 0 0 3 0 0) = false ∧ Instr.wf (.mmac 0 0 0 0 1 0) = false ∧ Instr.wf (.mmac 0 0 0 0 0 0x1000000) = false ∧
    Instr.wf (.mmac 0 0 0 1 0 1) = false ∧ Instr.wf (.mmacs 0 0 0 0 0 0x10000000) = false ∧ Instr.wf (.mmacq 0 0 0 0 0 0x1000000) = false ∧
    Instr.wf (.microMldv 0 0 0 0x80) = false ∧ Instr.wf (.microMldv 0 3 0 0) = false ∧ Instr.wf (.microMstv 0 0 0 0x80) = false ∧
    Instr.wf (.microMstv 0 0 0 0x20000000) = false ∧ Instr.wf (.mbr 0 3 0) = false ∧ Instr.wf (.mbr 1 0 0) = false ∧
    Instr.wf (.mpset 0 7 0) = false := by
  refine ⟨rfl, rfl, rfl, rfl, rfl, rfl, rfl, rfl, rfl, rfl, rfl, rfl, rfl⟩

/-- A word from its fields: each value at its lowest bit. -/
def word (fields : List (Nat × Nat)) : Nat := (fields.map fun (v, lo) => v * 2 ^ lo).sum

/-- R87's subcauses of ILLENC: a class without instructions, an unassigned F, a must-be-zero bit, one register written twice, a reserved
condition, an excluded bobbin code. -/
theorem test_refused_words :
    decodeSlot (word [(14, 27)]) = .error 1 ∧ decodeSlot (word [(15, 27)]) = .error 1 ∧ decodeSlot (word [(0, 27), (30, 22)]) = .error 2 ∧
    decodeSlot (word [(1, 20)]) = .error 3 ∧ decodeSlot (word [(3, 27), (6, 22), (1, 21), (5, 14), (5, 7)]) = .error 4 ∧
    decodeSlot (word [(28, 22), (7, 18)]) = .error 6 ∧ decodeSlot (word [(6, 27), (120, 14)]) = .error 7 ∧
    decodeMicro (word [(14, 58)]) = none ∧ decodeMicro (word [(63, 58)]) = none := by
  refine ⟨rfl, rfl, rfl, rfl, rfl, rfl, rfl, rfl, rfl⟩

/-! ### words decoded -/

/-- Words that spec/ writes beside the assembly they encode. -/
theorem test_written_words_scalar_and_copies :
    decodeSlot 0x8000C082 = .ok (.add false 3 1 2) ∧
    decodeSlot 0x88017FFD = .ok (.addi false 5 (-3)) ∧
    decodeSlot 0x8A830028 = .ok (.addpc 12 40) ∧
    decodeSlot 0x9B410481 = .ok (.amocas 2 9 1) ∧
    decodeSlot 0xDA414001 = .ok (.bank 5 1) ∧
    decodeSlot 0xCA010380 = .ok (.bmchk false 2 7) ∧
    decodeSlot 0xCA400380 = .ok (.bmset 7) ∧
    decodeSlot 0xB15E8011 = .ok (.bset 2 17) ∧
    decodeSlot 0xB2017D00 = .ok (.bstat false 5 2) ∧
    decodeSlot 0xC8000011 = .ok (.cpy 17) ∧
    decodeSlot 0xC8414002 = .ok (.cpyset 5 2) ∧
    decodeSlot 0xD240C205 = .ok (.digest 3 4 5) ∧
    decodeSlot 0x8482450B = .ok (.divn false 9 10 11) ∧
    decodeSlot 0xC9400003 = .ok (.drain 3) ∧
    decodeSlot 0xD0C18004 = .ok (.expect 6 4) ∧
    decodeSlot 0x94C00003 = .ok (.fence 3) ∧
    decodeSlot 0xE1424F01 = .ok (.fillp 9 30 1) ∧
    decodeSlot 0xE0C7CF1F = .ok (.fills 31 30 31) ∧
    decodeSlot 0xE04A0F01 = .ok (.fillv 40 30 1) ∧
    decodeSlot 0xD102048A = .ok (.frecv 8 9 10) ∧
    decodeSlot 0xD0800205 = .ok (.fsend 4 5) ∧
    decodeSlot 0xC8C2048A = .ok (.gath 8 9 10) := by
  refine ⟨rfl, rfl, rfl, rfl, rfl, rfl, rfl, rfl, rfl, rfl, rfl, rfl, rfl, rfl, rfl, rfl, rfl, rfl, rfl, rfl, rfl, rfl⟩

/-- Words that spec/ writes beside the assembly they encode. -/
theorem test_written_words_network_and_matrix :
    decodeSlot 0xD1400205 = .ok (.gbind 4 5) ∧
    decodeSlot 0xD1800200 = .ok (.gfree 4) ∧
    decodeSlot 0xDA800000 = .ok (.halt) ∧
    decodeSlot 0x92800000 = .ok (.hemsync) ∧
    decodeSlot 0x87498082 = .ok (.klog 2 3 1 2) ∧
    decodeSlot 0x99810F02 = .ok (.ldd false 4 30 2) ∧
    decodeSlot 0x9D40C380 = .ok (.lookup 3 7 0) ∧
    decodeSlot 0x92014010 = .ok (.loopset 5 16) ∧
    decodeSlot 0xC0025000 = .ok (.mcall 37) ∧
    decodeSlot 0xD2000205 = .ok (.mcast 4 5) ∧
    decodeSlot 0xD8010011 = .ok (.mfc 4 0x11) ∧
    decodeSlot 0xC1010100 = .ok (.mfpar 4 2) ∧
    decodeSlot 0xC0818180 = .ok (.mfsh 6 3) ∧
    decodeSlot 0xC1604A03 = .ok (.mldv true 1 20 3) ∧
    decodeSlot 0xC1404A03 = .ok (.mldv false 1 20 3) ∧
    decodeSlot 0xC0C08480 = .ok (.mpar 2 9) ∧
    decodeSlot 0xC2400000 = .ok (.mresume) ∧
    decodeSlot 0xC201C000 = .ok (.mstat 7 0) ∧
    decodeSlot 0xC1854083 = .ok (.mstv false 21 1 3) ∧
    decodeSlot 0xD8404104 = .ok (.mtc 1 0x104) ∧
    decodeSlot 0xC040C280 = .ok (.mtsh 3 5) ∧
    decodeSlot 0xC1C10000 = .ok (.mzero 4) := by
  refine ⟨rfl, rfl, rfl, rfl, rfl, rfl, rfl, rfl, rfl, rfl, rfl, rfl, rfl, rfl, rfl, rfl, rfl, rfl, rfl, rfl, rfl, rfl⟩

/-- Words that spec/ writes beside the assembly they encode. -/
theorem test_written_words_pair_and_spill :
    decodeSlot 0x92400000 = .ok (.notch) ∧
    decodeSlot 0xD281C008 = .ok (.nstat 7 8) ∧
    decodeSlot 0xBA450400 = .ok (.ppack 20 true) ∧
    decodeSlot 0xB9814300 = .ok (.pset 5 6) ∧
    decodeSlot 0xD0424100 = .ok (.recv 9 2) ∧
    decodeSlot 0xD1C5050C = .ok (.red false 20 10 12) ∧
    decodeSlot 0x93400000 = .ok (.retire) ∧
    decodeSlot 0xD9000180 = .ok (.rewind 3) ∧
    decodeSlot 0xD8800000 = .ok (.rfe) ∧
    decodeSlot 0xE1C78600 = .ok (.salloc 30 1536) ∧
    decodeSlot 0xC902048A = .ok (.scat 8 9 10) ∧
    decodeSlot 0xD0008383 = .ok (.send 2 7 3) ∧
    decodeSlot 0x93800300 = .ok (.setfmt 6) ∧
    decodeSlot 0xE2078600 = .ok (.sfree 30 1536) ∧
    decodeSlot 0x92C00000 = .ok (.smpl) ∧
    decodeSlot 0xE1024F01 = .ok (.spillp 9 30 1) ∧
    decodeSlot 0xE087CF1F = .ok (.spills 31 30 31) ∧
    decodeSlot 0xE00A0F01 = .ok (.spillv 40 30 1) ∧
    decodeSlot 0x94800000 = .ok (.sstep) ∧
    decodeSlot 0xC9C10286 = .ok (.stage 4 5 6) ∧
    decodeSlot 0x9A608401 = .ok (.stw true 2 8 1) ∧
    decodeSlot 0xD9410001 = .ok (.swap 4 1) := by
  refine ⟨rfl, rfl, rfl, rfl, rfl, rfl, rfl, rfl, rfl, rfl, rfl, rfl, rfl, rfl, rfl, rfl, rfl, rfl, rfl, rfl, rfl, rfl⟩

/-- Words that spec/ writes beside the assembly they encode. -/
theorem test_written_words_vector :
    decodeSlot 0xD9C00280 = .ok (.taskdone 5) ∧
    decodeSlot 0xD9808200 = .ok (.taskpost 1 4) ∧
    decodeSlot 0xD8C00180 = .ok (.thaw 3) ∧
    decodeSlot 0xE1819400 = .ok (.tokchk 0 3 40) ∧
    decodeSlot 0xA03E8409 = .ok (.vadd true 122 8 9) ∧
    decodeSlot 0xA0233C04 = .ok (.vadd true 12 120 4) ∧
    decodeSlot 0xA481437D = .ok (.vaddi false 5 6 (-3)) ∧
    decodeSlot 0xA4404100 = .ok (.vbc false 1 2) ∧
    decodeSlot 0xA6918082 = .ok (.vcmp 2 3 1 2) ∧
    decodeSlot 0xA0C20103 = .ok (.vfma false 8 2 3) ∧
    decodeSlot 0xB001C201 = .ok (.vld false 7 4 1) ∧
    decodeSlot 0xB0824182 = .ok (.vldx false 9 3 2) ∧
    decodeSlot 0xA8428202 = .ok (.vq8 false 10 4 2) ∧
    decodeSlot 0xAB018101 = .ok (.vrand false 6 2 1) ∧
    decodeSlot 0xAA00800A = .ok (.vrot false 2 0 10) ∧
    decodeSlot 0xA9810185 = .ok (.vscan false 4 3 5) ∧
    decodeSlot 0xB1030182 = .ok (.vstxa false 12 3 2) ∧
    decodeSlot 0x91800000 = .ok (.loopb 0) ∧
    decodeSlot 0x93000000 = .ok (.yield) := by
  refine ⟨rfl, rfl, rfl, rfl, rfl, rfl, rfl, rfl, rfl, rfl, rfl, rfl, rfl, rfl, rfl, rfl, rfl, rfl, rfl⟩

/-- Microwords that spec/ writes out (R218, R220). -/
theorem test_written_microwords :
    decodeMicro 0x3400000000000000 = some (.mend) ∧
    decodeMicro 0x2400040000000101 = some (.mloop 4 0x101) ∧
    decodeMicro 0x0404800000000002 = some (.mmac 0 1 2 0 0 2) ∧
    decodeMicro 0x0404930000000000 = some (.mmac 0 1 2 1 3 0) ∧
    decodeMicro 0x2C00032000000202 = some (.mpset 3 1 0x202) ∧
    decodeMicro 0x3000000000000000 = some (.mstep) ∧
    decodeMicro 0x1000800000000000 = some (.microMzero 2) := by
  refine ⟨rfl, rfl, rfl, rfl, rfl, rfl, rfl⟩

/-- Class 0: every instruction from the fields of its row, (value, lowest bit). -/
theorem test_class0_a :
    decodeSlot (word [(1, 31), (1, 21), (19, 14), (10, 7), (21, 0)]) = .ok (.add true 19 10 21) ∧
    decodeSlot (word [(1, 31), (1, 22), (1, 21), (19, 14), (10, 7), (21, 0)]) = .ok (.sub true 19 10 21) ∧
    decodeSlot (word [(1, 31), (2, 22), (1, 21), (19, 14), (10, 7), (21, 0)]) = .ok (.and true 19 10 21) ∧
    decodeSlot (word [(1, 31), (3, 22), (1, 21), (19, 14), (10, 7), (21, 0)]) = .ok (.or true 19 10 21) ∧
    decodeSlot (word [(1, 31), (4, 22), (1, 21), (19, 14), (10, 7), (21, 0)]) = .ok (.xor true 19 10 21) ∧
    decodeSlot (word [(1, 31), (5, 22), (1, 21), (19, 14), (10, 7), (21, 0)]) = .ok (.andn true 19 10 21) ∧
    decodeSlot (word [(1, 31), (6, 22), (1, 21), (19, 14), (10, 7), (21, 0)]) = .ok (.shl true 19 10 21) ∧
    decodeSlot (word [(1, 31), (7, 22), (1, 21), (19, 14), (10, 7), (21, 0)]) = .ok (.shr true 19 10 21) ∧
    decodeSlot (word [(1, 31), (8, 22), (1, 21), (19, 14), (10, 7), (21, 0)]) = .ok (.sar true 19 10 21) ∧
    decodeSlot (word [(1, 31), (9, 22), (1, 21), (19, 14), (10, 7), (21, 0)]) = .ok (.rotl true 19 10 21) ∧
    decodeSlot (word [(1, 31), (10, 22), (1, 21), (19, 14), (10, 7), (21, 0)]) = .ok (.min true 19 10 21) ∧
    decodeSlot (word [(1, 31), (11, 22), (1, 21), (19, 14), (10, 7), (21, 0)]) = .ok (.max true 19 10 21) ∧
    decodeSlot (word [(1, 31), (12, 22), (1, 21), (19, 14), (10, 7), (21, 0)]) = .ok (.minn true 19 10 21) ∧
    decodeSlot (word [(1, 31), (13, 22), (1, 21), (19, 14), (10, 7), (21, 0)]) = .ok (.maxn true 19 10 21) ∧
    decodeSlot (word [(1, 31), (14, 22), (1, 21), (19, 14), (10, 7), (21, 0)]) = .ok (.mul true 19 10 21) ∧
    decodeSlot (word [(1, 31), (15, 22), (1, 21), (19, 14), (10, 7), (21, 0)]) = .ok (.mulh true 19 10 21) ∧
    decodeSlot (word [(1, 31), (16, 22), (1, 21), (19, 14), (10, 7), (21, 0)]) = .ok (.mulhn true 19 10 21) ∧
    decodeSlot (word [(1, 31), (17, 22), (1, 21), (19, 14), (10, 7), (21, 0)]) = .ok (.div true 19 10 21) := by
  refine ⟨rfl, rfl, rfl, rfl, rfl, rfl, rfl, rfl, rfl, rfl, rfl, rfl, rfl, rfl, rfl, rfl, rfl, rfl⟩

/-- Class 0: every instruction from the fields of its row, (value, lowest bit). -/
theorem test_class0_b :
    decodeSlot (word [(1, 31), (18, 22), (1, 21), (19, 14), (10, 7), (21, 0)]) = .ok (.divn true 19 10 21) ∧
    decodeSlot (word [(1, 31), (19, 22), (1, 21), (19, 14), (10, 7), (21, 0)]) = .ok (.rem true 19 10 21) ∧
    decodeSlot (word [(1, 31), (20, 22), (1, 21), (19, 14), (10, 7), (21, 0)]) = .ok (.remn true 19 10 21) ∧
    decodeSlot (word [(1, 31), (21, 22), (1, 21), (19, 14), (10, 7)]) = .ok (.clz true 19 10) ∧
    decodeSlot (word [(1, 31), (22, 22), (1, 21), (19, 14), (10, 7)]) = .ok (.ctz true 19 10) ∧
    decodeSlot (word [(1, 31), (23, 22), (1, 21), (19, 14), (10, 7)]) = .ok (.popc true 19 10) ∧
    decodeSlot (word [(1, 31), (24, 22), (1, 21), (19, 14), (10, 7), (21, 0)]) = .ok (.sext true 19 10 21) ∧
    decodeSlot (word [(1, 31), (25, 22), (1, 21), (19, 14), (10, 7), (21, 0)]) = .ok (.zext true 19 10 21) ∧
    decodeSlot (word [(1, 31), (26, 22), (1, 21), (19, 14), (10, 7)]) = .ok (.mov true 19 10) ∧
    decodeSlot (word [(1, 31), (27, 22), (1, 21), (19, 14), (10, 7), (21, 0)]) = .ok (.csel true 19 10 21) ∧
    decodeSlot (word [(1, 31), (56, 21), (3, 18), (1, 15), (10, 7), (21, 0)]) = .ok (.kcmp 3 1 10 21) ∧
    decodeSlot (word [(1, 31), (57, 21), (6, 18), (1, 15), (10, 7), (118, 0)]) = .ok (.kcmpImm 6 1 10 118) ∧
    decodeSlot (word [(1, 31), (58, 21), (6, 18), (1, 15), (6, 7), (5, 0)]) = .ok (.klog 6 1 6 5) := by
  refine ⟨rfl, rfl, rfl, rfl, rfl, rfl, rfl, rfl, rfl, rfl, rfl, rfl, rfl⟩

/-- Class 1: every instruction from the fields of its row, (value, lowest bit). -/
theorem test_class1_a :
    decodeSlot (word [(1, 31), (32, 22), (1, 21), (19, 14), (9344, 0)]) = .ok (.addi true 19 9344) ∧
    decodeSlot (word [(1, 31), (33, 22), (1, 21), (19, 14), (9381, 0)]) = .ok (.andi true 19 9381) ∧
    decodeSlot (word [(1, 31), (34, 22), (1, 21), (19, 14), (9418, 0)]) = .ok (.ori true 19 9418) ∧
    decodeSlot (word [(1, 31), (35, 22), (1, 21), (19, 14), (9455, 0)]) = .ok (.xori true 19 9455) ∧
    decodeSlot (word [(1, 31), (36, 22), (1, 21), (19, 14), (9492, 0)]) = .ok (.shli true 19 9492) ∧
    decodeSlot (word [(1, 31), (37, 22), (1, 21), (19, 14), (9529, 0)]) = .ok (.shri true 19 9529) ∧
    decodeSlot (word [(1, 31), (38, 22), (1, 21), (19, 14), (9566, 0)]) = .ok (.sari true 19 9566) ∧
    decodeSlot (word [(1, 31), (39, 22), (1, 21), (19, 14), (9603, 0)]) = .ok (.movi true 19 9603) ∧
    decodeSlot (word [(1, 31), (320, 19), (19, 14), (9640, 0)]) = .ok (.movhi 19 9640) ∧
    decodeSlot (word [(1, 31), (41, 22), (1, 21), (19, 14), (9677, 0)]) = .ok (.muli true 19 9677) ∧
    decodeSlot (word [(1, 31), (336, 19), (19, 14), (9714, 0)]) = .ok (.addpc 19 9714) := by
  refine ⟨rfl, rfl, rfl, rfl, rfl, rfl, rfl, rfl, rfl, rfl, rfl⟩

/-- Class 2: every instruction from the fields of its row, (value, lowest bit). -/
theorem test_class2_a :
    decodeSlot (word [(1, 31), (64, 22), (2098748, 0)]) = .ok (.br 2098748) ∧
    decodeSlot (word [(1, 31), (65, 22), (1, 21), (1, 18), (132705, 0)]) = .ok (.bk true 1 132705) ∧
    decodeSlot (word [(1, 31), (66, 22), (2098822, 0)]) = .ok (.call 2098822) ∧
    decodeSlot (word [(1, 31), (68608, 12), (10, 7)]) = .ok (.jr 10) ∧
    decodeSlot (word [(1, 31), (69632, 12), (10, 7)]) = .ok (.callr 10) ∧
    decodeSlot (word [(1, 31), (289406976, 0)]) = .ok (.ret) ∧
    decodeSlot (word [(1, 31), (70, 22), (2098970, 0)]) = .ok (.loopb 2098970) ∧
    decodeSlot (word [(1, 31), (71, 22), (2099007, 0)]) = .ok (.loopc 2099007) ∧
    decodeSlot (word [(1, 31), (576, 19), (19, 14), (10084, 0)]) = .ok (.loopset 19 10084) ∧
    decodeSlot (word [(1, 31), (306184192, 0)]) = .ok (.notch) ∧
    decodeSlot (word [(1, 31), (310378496, 0)]) = .ok (.hemsync) ∧
    decodeSlot (word [(1, 31), (314572800, 0)]) = .ok (.smpl) ∧
    decodeSlot (word [(1, 31), (318767104, 0)]) = .ok (.yield) ∧
    decodeSlot (word [(1, 31), (322961408, 0)]) = .ok (.retire) ∧
    decodeSlot (word [(1, 31), (79872, 12), (10, 7)]) = .ok (.setfmt 10) ∧
    decodeSlot (word [(1, 31), (331350016, 0)]) = .ok (.nop) ∧
    decodeSlot (word [(1, 31), (20480, 14), (10380, 0)]) = .ok (.trapi 10380) ∧
    decodeSlot (word [(1, 31), (339738624, 0)]) = .ok (.brkpt) := by
  refine ⟨rfl, rfl, rfl, rfl, rfl, rfl, rfl, rfl, rfl, rfl, rfl, rfl, rfl, rfl, rfl, rfl, rfl, rfl⟩

/-- Class 2: every instruction from the fields of its row, (value, lowest bit). -/
theorem test_class2_b :
    decodeSlot (word [(1, 31), (343932928, 0)]) = .ok (.sstep) ∧
    decodeSlot (word [(1, 31), (21248, 14), (10491, 0)]) = .ok (.fence 10491) := by
  refine ⟨rfl, rfl⟩

/-- Class 3: every instruction from the fields of its row, (value, lowest bit). -/
theorem test_class3_a :
    decodeSlot (word [(1, 31), (96, 22), (1, 21), (19, 14), (21, 7), (96, 0)]) = .ok (.ldb true 19 21 96) ∧
    decodeSlot (word [(1, 31), (97, 22), (1, 21), (19, 14), (21, 7), (69, 0)]) = .ok (.ldbn true 19 21 69) ∧
    decodeSlot (word [(1, 31), (98, 22), (1, 21), (19, 14), (21, 7), (106, 0)]) = .ok (.ldh true 19 21 106) ∧
    decodeSlot (word [(1, 31), (99, 22), (1, 21), (19, 14), (21, 7), (79, 0)]) = .ok (.ldhn true 19 21 79) ∧
    decodeSlot (word [(1, 31), (100, 22), (1, 21), (19, 14), (21, 7), (116, 0)]) = .ok (.ldw true 19 21 116) ∧
    decodeSlot (word [(1, 31), (101, 22), (1, 21), (19, 14), (21, 7), (89, 0)]) = .ok (.ldwn true 19 21 89) ∧
    decodeSlot (word [(1, 31), (102, 22), (1, 21), (19, 14), (21, 7), (126, 0)]) = .ok (.ldd true 19 21 126) ∧
    decodeSlot (word [(1, 31), (103, 22), (1, 21), (19, 14), (21, 7), (99, 0)]) = .ok (.stb true 19 21 99) ∧
    decodeSlot (word [(1, 31), (104, 22), (1, 21), (19, 14), (21, 7), (72, 0)]) = .ok (.sth true 19 21 72) ∧
    decodeSlot (word [(1, 31), (105, 22), (1, 21), (19, 14), (21, 7), (109, 0)]) = .ok (.stw true 19 21 109) ∧
    decodeSlot (word [(1, 31), (106, 22), (1, 21), (19, 14), (21, 7), (82, 0)]) = .ok (.std true 19 21 82) ∧
    decodeSlot (word [(1, 31), (856, 19), (19, 14), (21, 7), (119, 0)]) = .ok (.amoadd 19 21 119) ∧
    decodeSlot (word [(1, 31), (864, 19), (19, 14), (21, 7), (92, 0)]) = .ok (.amoswap 19 21 92) ∧
    decodeSlot (word [(1, 31), (872, 19), (3, 15), (21, 7), (65, 0)]) = .ok (.amocas 3 21 65) ∧
    decodeSlot (word [(1, 31), (880, 19), (19, 14), (21, 7), (102, 0)]) = .ok (.amomin 19 21 102) ∧
    decodeSlot (word [(1, 31), (888, 19), (19, 14), (21, 7), (75, 0)]) = .ok (.amomax 19 21 75) ∧
    decodeSlot (word [(1, 31), (896, 19), (19, 14), (21, 7), (112, 0)]) = .ok (.amominn 19 21 112) ∧
    decodeSlot (word [(1, 31), (904, 19), (19, 14), (21, 7), (85, 0)]) = .ok (.amomaxn 19 21 85) := by
  refine ⟨rfl, rfl, rfl, rfl, rfl, rfl, rfl, rfl, rfl, rfl, rfl, rfl, rfl, rfl, rfl, rfl, rfl, rfl⟩

/-- Class 3: every instruction from the fields of its row, (value, lowest bit). -/
theorem test_class3_b :
    decodeSlot (word [(1, 31), (912, 19), (19, 14), (21, 7), (122, 0)]) = .ok (.amoand 19 21 122) ∧
    decodeSlot (word [(1, 31), (920, 19), (19, 14), (21, 7), (95, 0)]) = .ok (.amoor 19 21 95) ∧
    decodeSlot (word [(1, 31), (928, 19), (19, 14), (21, 7), (68, 0)]) = .ok (.amoxor 19 21 68) ∧
    decodeSlot (word [(1, 31), (936, 19), (19, 14), (21, 7), (105, 0)]) = .ok (.lookup 19 21 105) ∧
    decodeSlot (word [(1, 31), (944, 19), (19, 14), (21, 7), (78, 0)]) = .ok (.tagset 19 21 78) ∧
    decodeSlot (word [(1, 31), (121856, 12), (21, 7), (115, 0)]) = .ok (.tagclr 21 115) ∧
    decodeSlot (word [(1, 31), (960, 19), (19, 14), (21, 7), (88, 0)]) = .ok (.lea 19 21 88) := by
  refine ⟨rfl, rfl, rfl, rfl, rfl, rfl, rfl⟩

/-- Class 4: every instruction from the fields of its row, (value, lowest bit). -/
theorem test_class4_a :
    decodeSlot (word [(1, 31), (128, 22), (1, 21), (19, 14), (10, 7), (21, 0)]) = .ok (.vadd true 19 10 21) ∧
    decodeSlot (word [(1, 31), (129, 22), (1, 21), (19, 14), (10, 7), (21, 0)]) = .ok (.vsub true 19 10 21) ∧
    decodeSlot (word [(1, 31), (130, 22), (1, 21), (19, 14), (10, 7), (21, 0)]) = .ok (.vmul true 19 10 21) ∧
    decodeSlot (word [(1, 31), (131, 22), (1, 21), (19, 14), (10, 7), (21, 0)]) = .ok (.vfma true 19 10 21) ∧
    decodeSlot (word [(1, 31), (132, 22), (1, 21), (19, 14), (10, 7), (21, 0)]) = .ok (.vfms true 19 10 21) ∧
    decodeSlot (word [(1, 31), (133, 22), (1, 21), (19, 14), (10, 7), (21, 0)]) = .ok (.vmin true 19 10 21) ∧
    decodeSlot (word [(1, 31), (134, 22), (1, 21), (19, 14), (10, 7), (21, 0)]) = .ok (.vmax true 19 10 21) ∧
    decodeSlot (word [(1, 31), (135, 22), (1, 21), (19, 14), (10, 7)]) = .ok (.vabs true 19 10) ∧
    decodeSlot (word [(1, 31), (136, 22), (1, 21), (19, 14), (10, 7)]) = .ok (.vneg true 19 10) ∧
    decodeSlot (word [(1, 31), (137, 22), (1, 21), (19, 14), (10, 7), (21, 0)]) = .ok (.vand true 19 10 21) ∧
    decodeSlot (word [(1, 31), (138, 22), (1, 21), (19, 14), (10, 7), (21, 0)]) = .ok (.vor true 19 10 21) ∧
    decodeSlot (word [(1, 31), (139, 22), (1, 21), (19, 14), (10, 7), (21, 0)]) = .ok (.vxor true 19 10 21) ∧
    decodeSlot (word [(1, 31), (140, 22), (1, 21), (19, 14), (10, 7), (21, 0)]) = .ok (.vshl true 19 10 21) ∧
    decodeSlot (word [(1, 31), (141, 22), (1, 21), (19, 14), (10, 7), (21, 0)]) = .ok (.vshr true 19 10 21) ∧
    decodeSlot (word [(1, 31), (142, 22), (1, 21), (19, 14), (10, 7), (21, 0)]) = .ok (.vsar true 19 10 21) ∧
    decodeSlot (word [(1, 31), (143, 22), (1, 21), (19, 14), (10, 7), (21, 0)]) = .ok (.vsel true 19 10 21) ∧
    decodeSlot (word [(1, 31), (144, 22), (1, 21), (19, 14), (10, 7)]) = .ok (.vmov true 19 10) ∧
    decodeSlot (word [(1, 31), (145, 22), (1, 21), (19, 14), (10, 7)]) = .ok (.vbc true 19 10) := by
  refine ⟨rfl, rfl, rfl, rfl, rfl, rfl, rfl, rfl, rfl, rfl, rfl, rfl, rfl, rfl, rfl, rfl, rfl, rfl⟩

/-- Class 4: every instruction from the fields of its row, (value, lowest bit). -/
theorem test_class4_b :
    decodeSlot (word [(1, 31), (146, 22), (1, 21), (19, 14), (10, 7), (87, 0)]) = .ok (.vaddi true 19 10 87) ∧
    decodeSlot (word [(1, 31), (147, 22), (1, 21), (19, 14), (10, 7), (124, 0)]) = .ok (.vmuli true 19 10 124) ∧
    decodeSlot (word [(1, 31), (148, 22), (1, 21), (19, 14), (10, 7)]) = .ok (.vrecip true 19 10) ∧
    decodeSlot (word [(1, 31), (149, 22), (1, 21), (19, 14), (10, 7)]) = .ok (.vrsqrt true 19 10) ∧
    decodeSlot (word [(1, 31), (150, 22), (1, 21), (19, 14), (10, 7)]) = .ok (.vexp2 true 19 10) ∧
    decodeSlot (word [(1, 31), (151, 22), (1, 21), (19, 14), (10, 7)]) = .ok (.vlog2 true 19 10) ∧
    decodeSlot (word [(1, 31), (152, 22), (1, 21), (19, 14), (10, 7), (21, 0)]) = .ok (.vclamp true 19 10 21) ∧
    decodeSlot (word [(1, 31), (153, 22), (1, 21), (19, 14), (10, 7)]) = .ok (.vround true 19 10) ∧
    decodeSlot (word [(1, 31), (154, 22), (6, 19), (6, 15), (10, 7), (21, 0)]) = .ok (.vcmp 6 6 10 21) ∧
    decodeSlot (word [(1, 31), (155, 22), (1, 21), (19, 14), (10, 7), (21, 0)]) = .ok (.vmulh true 19 10 21) ∧
    decodeSlot (word [(1, 31), (156, 22), (1, 21), (19, 14), (10, 7), (21, 0)]) = .ok (.vsatadd true 19 10 21) ∧
    decodeSlot (word [(1, 31), (157, 22), (1, 21), (19, 14), (10, 7), (21, 0)]) = .ok (.vsatsub true 19 10 21) ∧
    decodeSlot (word [(1, 31), (158, 22), (1, 21), (19, 14), (10, 7), (21, 0)]) = .ok (.vaddw true 19 10 21) ∧
    decodeSlot (word [(1, 31), (159, 22), (1, 21), (19, 14), (10, 7), (21, 0)]) = .ok (.vmacw true 19 10 21) := by
  refine ⟨rfl, rfl, rfl, rfl, rfl, rfl, rfl, rfl, rfl, rfl, rfl, rfl, rfl, rfl⟩

/-- Class 5: every instruction from the fields of its row, (value, lowest bit). -/
theorem test_class5_a :
    decodeSlot (word [(1, 31), (160, 22), (1, 21), (19, 14), (10, 7), (2, 0)]) = .ok (.vcvt true 19 10 2) ∧
    decodeSlot (word [(1, 31), (161, 22), (1, 21), (19, 14), (10, 7), (2, 0)]) = .ok (.vq8 true 19 10 2) ∧
    decodeSlot (word [(1, 31), (162, 22), (1, 21), (19, 14), (10, 7), (2, 0)]) = .ok (.vdq8 true 19 10 2) ∧
    decodeSlot (word [(1, 31), (163, 22), (1, 21), (19, 14), (10, 7), (21, 0)]) = .ok (.vredsum true 19 10 21) ∧
    decodeSlot (word [(1, 31), (164, 22), (1, 21), (19, 14), (10, 7), (21, 0)]) = .ok (.vredmax true 19 10 21) ∧
    decodeSlot (word [(1, 31), (165, 22), (1, 21), (19, 14), (10, 7), (21, 0)]) = .ok (.vredmin true 19 10 21) ∧
    decodeSlot (word [(1, 31), (166, 22), (1, 21), (19, 14), (10, 7), (21, 0)]) = .ok (.vscan true 19 10 21) ∧
    decodeSlot (word [(1, 31), (167, 22), (1, 21), (19, 14), (10, 7), (21, 0)]) = .ok (.vperm true 19 10 21) ∧
    decodeSlot (word [(1, 31), (168, 22), (1, 21), (19, 14), (10, 7), (21, 0)]) = .ok (.vrot true 19 10 21) ∧
    decodeSlot (word [(1, 31), (169, 22), (1, 21), (19, 14), (10, 7), (21, 0)]) = .ok (.vshuf true 19 10 21) ∧
    decodeSlot (word [(1, 31), (170, 22), (1, 21), (19, 14), (10, 7), (21, 0)]) = .ok (.vpackh true 19 10 21) ∧
    decodeSlot (word [(1, 31), (171, 22), (1, 21), (19, 14), (10, 7), (2, 0)]) = .ok (.vunpk true 19 10 2) ∧
    decodeSlot (word [(1, 31), (172, 22), (1, 21), (19, 14), (10, 7), (21, 0)]) = .ok (.vrand true 19 10 21) ∧
    decodeSlot (word [(1, 31), (173, 22), (1, 21), (19, 14), (10, 7), (21, 0)]) = .ok (.vext true 19 10 21) ∧
    decodeSlot (word [(1, 31), (174, 22), (1, 21), (19, 14), (10, 7), (21, 0)]) = .ok (.vins true 19 10 21) ∧
    decodeSlot (word [(1, 31), (175, 22), (1, 21), (19, 14), (10, 7)]) = .ok (.vbsum true 19 10) ∧
    decodeSlot (word [(1, 31), (176, 22), (1, 21), (19, 14), (10, 7)]) = .ok (.vbmax true 19 10) := by
  refine ⟨rfl, rfl, rfl, rfl, rfl, rfl, rfl, rfl, rfl, rfl, rfl, rfl, rfl, rfl, rfl, rfl, rfl⟩

/-- Class 6: every instruction from the fields of its row, (value, lowest bit). -/
theorem test_class6_a :
    decodeSlot (word [(1, 31), (192, 22), (1, 21), (19, 14), (21, 7), (82, 0)]) = .ok (.vld true 19 21 82) ∧
    decodeSlot (word [(1, 31), (193, 22), (1, 21), (19, 14), (21, 7), (119, 0)]) = .ok (.vst true 19 21 119) ∧
    decodeSlot (word [(1, 31), (203, 22), (1, 21), (19, 14), (21, 7), (92, 0)]) = .ok (.vstm true 19 21 92) ∧
    decodeSlot (word [(1, 31), (194, 22), (1, 21), (19, 14), (10, 7), (21, 0)]) = .ok (.vldx true 19 10 21) ∧
    decodeSlot (word [(1, 31), (195, 22), (1, 21), (19, 14), (10, 7), (21, 0)]) = .ok (.vstx true 19 10 21) ∧
    decodeSlot (word [(1, 31), (196, 22), (1, 21), (19, 14), (10, 7), (21, 0)]) = .ok (.vstxa true 19 10 21) ∧
    decodeSlot (word [(1, 31), (6319, 17), (6, 14), (13488, 0)]) = .ok (.bset 6 13488) ∧
    decodeSlot (word [(1, 31), (198, 22), (1, 21), (15, 10), (6, 7), (21, 0)]) = .ok (.bseek true 6 21) ∧
    decodeSlot (word [(1, 31), (199, 22), (1, 21), (19, 14), (15, 10), (6, 7)]) = .ok (.bpos true 19 6) ∧
    decodeSlot (word [(1, 31), (200, 22), (1, 21), (19, 14), (15, 10), (6, 7)]) = .ok (.bstat true 19 6) ∧
    decodeSlot (word [(1, 31), (200, 22), (1, 21), (19, 14)]) = .ok (.bstatGather true 19) ∧
    decodeSlot (word [(1, 31), (201, 22), (1, 21), (15, 10), (6, 7)]) = .ok (.bflush true 6) ∧
    decodeSlot (word [(1, 31), (202, 22), (1, 21), (15, 10), (6, 7)]) = .ok (.bdone true 6) := by
  refine ⟨rfl, rfl, rfl, rfl, rfl, rfl, rfl, rfl, rfl, rfl, rfl, rfl, rfl⟩

/-- Class 7: every instruction from the fields of its row, (value, lowest bit). -/
theorem test_class7_a :
    decodeSlot (word [(1, 31), (3584, 18), (3, 14), (6, 7), (5, 0)]) = .ok (.pand 3 6 5) ∧
    decodeSlot (word [(1, 31), (3600, 18), (3, 14), (6, 7), (5, 0)]) = .ok (.por 3 6 5) ∧
    decodeSlot (word [(1, 31), (3616, 18), (3, 14), (6, 7), (5, 0)]) = .ok (.pxor 3 6 5) ∧
    decodeSlot (word [(1, 31), (3632, 18), (3, 14), (6, 7), (5, 0)]) = .ok (.pandn 3 6 5) ∧
    decodeSlot (word [(1, 31), (3648, 18), (3, 14), (6, 7)]) = .ok (.pnot 3 6) ∧
    decodeSlot (word [(1, 31), (3664, 18), (3, 14), (6, 7)]) = .ok (.pmov 3 6) ∧
    decodeSlot (word [(1, 31), (3680, 18), (3, 14), (10, 7)]) = .ok (.pset 3 10) ∧
    decodeSlot (word [(1, 31), (1848, 19), (19, 14), (6, 7)]) = .ok (.pcnt 19 6) ∧
    decodeSlot (word [(1, 31), (1856, 19), (19, 14), (6, 7)]) = .ok (.pfirst 19 6) ∧
    decodeSlot (word [(1, 31), (466, 21), (19, 14), (1, 10)]) = .ok (.ppack 19 true) ∧
    decodeSlot (word [(1, 31), (3744, 18), (1, 17), (10, 7)]) = .ok (.punpk true 10) ∧
    decodeSlot (word [(1, 31), (7520, 17), (3, 14), (6, 7), (2, 0)]) = .ok (.ptest 3 6 2) ∧
    decodeSlot (word [(1, 31), (3776, 18), (3, 14), (10, 7)]) = .ok (.pmask 3 10) := by
  refine ⟨rfl, rfl, rfl, rfl, rfl, rfl, rfl, rfl, rfl, rfl, rfl, rfl, rfl⟩

/-- Class 8: every instruction from the fields of its row, (value, lowest bit). -/
theorem test_class8_a :
    decodeSlot (word [(1, 31), (256, 22), (916, 12)]) = .ok (.mcall 916) ∧
    decodeSlot (word [(1, 31), (4112, 18), (6, 14), (10, 7)]) = .ok (.mtsh 6 10) ∧
    decodeSlot (word [(1, 31), (2064, 19), (19, 14), (6, 7)]) = .ok (.mfsh 19 6) ∧
    decodeSlot (word [(1, 31), (8288, 17), (6, 14), (10, 7)]) = .ok (.mpar 6 10) ∧
    decodeSlot (word [(1, 31), (2080, 19), (19, 14), (6, 7)]) = .ok (.mfpar 19 6) ∧
    decodeSlot (word [(1, 31), (261, 22), (1, 21), (6, 14), (10, 7), (21, 0)]) = .ok (.mldv true 6 10 21) ∧
    decodeSlot (word [(1, 31), (262, 22), (1, 21), (19, 14), (6, 7), (21, 0)]) = .ok (.mstv true 19 6 21) ∧
    decodeSlot (word [(1, 31), (4208, 18), (6, 14)]) = .ok (.mzero 6) ∧
    decodeSlot (word [(1, 31), (2112, 19), (19, 14), (13, 0)]) = .ok (.mstat 19 13) ∧
    decodeSlot (word [(1, 31), (1111490560, 0)]) = .ok (.mresume) := by
  refine ⟨rfl, rfl, rfl, rfl, rfl, rfl, rfl, rfl, rfl, rfl⟩

/-- Class 9: every instruction from the fields of its row, (value, lowest bit). -/
theorem test_class9_a :
    decodeSlot (word [(1, 31), (73728, 14), (15116, 0)]) = .ok (.cpy 15116) ∧
    decodeSlot (word [(1, 31), (2312, 19), (19, 14), (15153, 0)]) = .ok (.cpyset 19 15153) ∧
    decodeSlot (word [(1, 31), (2320, 19), (19, 14), (10, 7), (21, 0)]) = .ok (.cpyd 19 10 21) ∧
    decodeSlot (word [(1, 31), (2328, 19), (19, 14), (10, 7), (21, 0)]) = .ok (.gath 19 10 21) ∧
    decodeSlot (word [(1, 31), (2336, 19), (19, 14), (10, 7), (21, 0)]) = .ok (.scat 19 10 21) ∧
    decodeSlot (word [(1, 31), (75008, 14), (15301, 0)]) = .ok (.drain 15301) ∧
    decodeSlot (word [(1, 31), (301056, 12), (10, 7), (21, 0)]) = .ok (.ckarm 10 21) ∧
    decodeSlot (word [(1, 31), (2360, 19), (19, 14), (10, 7), (21, 0)]) = .ok (.stage 19 10 21) ∧
    decodeSlot (word [(1, 31), (2368, 19), (1, 18), (1, 15), (10, 7)]) = .ok (.bmchk true 1 10) ∧
    decodeSlot (word [(1, 31), (304128, 12), (10, 7)]) = .ok (.bmset 10) := by
  refine ⟨rfl, rfl, rfl, rfl, rfl, rfl, rfl, rfl, rfl, rfl⟩

/-- Class 10: every instruction from the fields of its row, (value, lowest bit). -/
theorem test_class10_a :
    decodeSlot (word [(1, 31), (10240, 17), (6, 14), (10, 7), (21, 0)]) = .ok (.send 6 10 21) ∧
    decodeSlot (word [(1, 31), (642, 21), (19, 14), (6, 7)]) = .ok (.recv 19 6) ∧
    decodeSlot (word [(1, 31), (329728, 12), (10, 7), (21, 0)]) = .ok (.fsend 10 21) ∧
    decodeSlot (word [(1, 31), (2584, 19), (19, 14), (15597, 0)]) = .ok (.expect 19 15597) ∧
    decodeSlot (word [(1, 31), (2592, 19), (19, 14), (10, 7), (21, 0)]) = .ok (.frecv 19 10 21) ∧
    decodeSlot (word [(1, 31), (332800, 12), (10, 7), (21, 0)]) = .ok (.gbind 10 21) ∧
    decodeSlot (word [(1, 31), (333824, 12), (10, 7)]) = .ok (.gfree 10) ∧
    decodeSlot (word [(1, 31), (327, 22), (1, 21), (19, 14), (10, 7), (21, 0)]) = .ok (.red true 19 10 21) ∧
    decodeSlot (word [(1, 31), (335872, 12), (10, 7), (21, 0)]) = .ok (.mcast 10 21) ∧
    decodeSlot (word [(1, 31), (2632, 19), (19, 14), (10, 7), (21, 0)]) = .ok (.digest 19 10 21) ∧
    decodeSlot (word [(1, 31), (2640, 19), (19, 14), (13, 0)]) = .ok (.nstat 19 13) := by
  refine ⟨rfl, rfl, rfl, rfl, rfl, rfl, rfl, rfl, rfl, rfl, rfl⟩

/-- Class 11: every instruction from the fields of its row, (value, lowest bit). -/
theorem test_class11_a :
    decodeSlot (word [(1, 31), (2816, 19), (19, 14), (15893, 0)]) = .ok (.mfc 19 15893) ∧
    decodeSlot (word [(1, 31), (2824, 19), (19, 14), (15930, 0)]) = .ok (.mtc 19 15930) ∧
    decodeSlot (word [(1, 31), (1484783616, 0)]) = .ok (.rfe) ∧
    decodeSlot (word [(1, 31), (363520, 12), (10, 7)]) = .ok (.thaw 10) ∧
    decodeSlot (word [(1, 31), (364544, 12), (10, 7)]) = .ok (.rewind 10) ∧
    decodeSlot (word [(1, 31), (2856, 19), (19, 14), (16078, 0)]) = .ok (.swap 19 16078) ∧
    decodeSlot (word [(1, 31), (5728, 18), (1, 15), (10, 7)]) = .ok (.taskpost 1 10) ∧
    decodeSlot (word [(1, 31), (367616, 12), (10, 7)]) = .ok (.taskdone 10) ∧
    decodeSlot (word [(1, 31), (2880, 19), (19, 14), (16189, 0)]) = .ok (.twin 19 16189) ∧
    decodeSlot (word [(1, 31), (2888, 19), (19, 14), (16226, 0)]) = .ok (.bank 19 16226) ∧
    decodeSlot (word [(1, 31), (1518338048, 0)]) = .ok (.halt) := by
  refine ⟨rfl, rfl, rfl, rfl, rfl, rfl, rfl, rfl, rfl, rfl, rfl⟩

/-- Class 12: every instruction from the fields of its row, (value, lowest bit). -/
theorem test_class12_a :
    decodeSlot (word [(1, 31), (768, 21), (19, 14), (21, 7), (108, 0)]) = .ok (.spillv 19 21 108) ∧
    decodeSlot (word [(1, 31), (770, 21), (19, 14), (21, 7), (81, 0)]) = .ok (.fillv 19 21 81) ∧
    decodeSlot (word [(1, 31), (3088, 19), (19, 14), (21, 7), (118, 0)]) = .ok (.spills 19 21 118) ∧
    decodeSlot (word [(1, 31), (3096, 19), (19, 14), (21, 7), (91, 0)]) = .ok (.fills 19 21 91) ∧
    decodeSlot (word [(1, 31), (6208, 18), (3, 14), (21, 7), (64, 0)]) = .ok (.spillp 3 21 64) ∧
    decodeSlot (word [(1, 31), (6224, 18), (3, 14), (21, 7), (101, 0)]) = .ok (.fillp 3 21 101) ∧
    decodeSlot (word [(1, 31), (1560, 20), (1, 18), (1, 15), (17, 7)]) = .ok (.tokchk 1 1 17) ∧
    decodeSlot (word [(1, 31), (3128, 19), (19, 14), (8367, 0)]) = .ok (.salloc 19 8367) ∧
    decodeSlot (word [(1, 31), (3136, 19), (19, 14), (8404, 0)]) = .ok (.sfree 19 8404) := by
  refine ⟨rfl, rfl, rfl, rfl, rfl, rfl, rfl, rfl, rfl⟩

/-- Class 13: every instruction from the fields of its row, (value, lowest bit). -/
theorem test_class13_a :
    decodeSlot (word [(1, 31), (13, 27), (67110423, 0)]) = .ok (.ext 67110423) := by
  rfl

/-- Every micro-operation from the fields of R218 and R220. -/
theorem test_microwords :
    decodeMicro (word [(0xFFFE, 0)]) = some (.mnop 0xFFFE) ∧
    decodeMicro (word [(1, 58), (9, 54), (10, 50), (11, 46), (2, 44), (7, 40), (2 ^ 39 + 5, 0)]) = some (.mmac 9 10 11 2 7 (2 ^ 39 + 5)) ∧
    decodeMicro (word [(2, 58), (9, 54), (10, 50), (11, 46), (2 ^ 27 + 6, 0)]) = some (.mmacs 9 10 11 0 0 (2 ^ 27 + 6)) ∧
    decodeMicro (word [(3, 58), (9, 54), (10, 50), (11, 46), (1, 44), (15, 40)]) = some (.mmacq 9 10 11 1 15 0) ∧
    decodeMicro (word [(4, 58), (11, 46)]) = some (.microMzero 11) ∧
    decodeMicro (word [(5, 58), (11, 46), (1, 44), (3, 40)]) = some (.microMldv 11 1 3 0) ∧
    decodeMicro (word [(6, 58), (9, 54), (2, 44), (4, 40), (8, 0)]) = some (.microMstv 9 2 4 8) ∧
    decodeMicro (word [(7, 58), (9, 54), (11, 46)]) = some (.mtrn 9 11) ∧
    decodeMicro (word [(8, 58), (9, 54), (10, 50), (11, 46)]) = some (.maddt 9 10 11) ∧
    decodeMicro (word [(9, 58), (5, 40), (8191, 0)]) = some (.mloop 5 8191) ∧
    decodeMicro (word [(10, 58), (5, 40), (2, 13), (4097, 0)]) = some (.mbr 5 2 4097) ∧
    decodeMicro (word [(11, 58), (6, 40), (4, 37), (2 ^ 31 + 1, 0)]) = some (.mpset 6 4 (2 ^ 31 + 1)) ∧
    decodeMicro (word [(12, 58)]) = some (.mstep) ∧
    decodeMicro (word [(13, 58)]) = some (.mend) := by
  refine ⟨rfl, rfl, rfl, rfl, rfl, rfl, rfl, rfl, rfl, rfl, rfl, rfl, rfl, rfl⟩

/-! ### meanings: one step each, on worked examples and tables of spec/ -/

/-- Core `n`, context 0, at the first slot of a bundle that holds one NOP, on a machine changed by `g`. -/
def at_ (n : Nat) (g : Mach → Mach) : State :=
  let s := (State.reset.withFetchWord 32 0x93C00000).fetchSlot
  { s with arch := g s.arch, view := g s.view, next := g s.next, turn := { s.turn with core := n } }

/-- Context 0 of core 0, changed by `f`. -/
def here (f : Ctx → Ctx) : State := at_ 0 fun m => m.modCtx 0 0 f

/-- Context 0 of core 0 with scalar registers set. -/
def regs (l : List (Nat × Word)) : State :=
  here fun c => { c with s := l.foldl (fun m (r, v) => wr m r { val := v, poison := false }) c.s }

/-- The control pair of cluster 0, with scalar registers set. -/
def pair_ (l : List (Nat × Word)) : State :=
  at_ 384 fun m => m.modCtx 384 0 fun c => { c with s := l.foldl (fun m (r, v) => wr m r { val := v, poison := false }) c.s }

/-- The last result that a slot put in flight: scalar register, value, latency. -/
def result (o : Out) : Option (Nat × Word × Nat) :=
  match o with
  | .next t => ((t.next.ctx t.n 0).inflight.getLast?).bind fun r => match r.what with
      | .s d v => some (d, v, r.due - t.age)
      | _ => none
  | _ => none

/-- The same of a flag. -/
def flag (o : Out) : Option (Nat × Bool × Nat) :=
  match o with
  | .next t => ((t.next.ctx t.n 0).inflight.getLast?).bind fun r => match r.what with
      | .k d v => some (d, v, r.due - t.age)
      | _ => none
  | _ => none

/-- The fault that a slot raises: cause and information word. -/
def raised (o : Out) : Option (Nat × Word) :=
  match o with
  | .next t => t.turn.fault.map fun (_, e) => (e.cause, e.info)
  | _ => none

/-- R125's table. -/
theorem test_div : result (exec (.div false 3 1 2) (regs [(1, -7), (2, 2)])) = some (3, -3, 18) := by decide
theorem test_rem : result (exec (.rem false 3 1 2) (regs [(1, -7), (2, 2)])) = some (3, -1, 18) := by decide
theorem test_divn_by_zero : result (exec (.divn false 3 1 2) (regs [(1, 5)])) = some (3, 0xFFFFFFFFFFFFFFFF, 18) := by decide
theorem test_remn_by_zero : result (exec (.remn false 3 1 2) (regs [(1, 5)])) = some (3, 5, 18) := by decide
theorem test_div_least : result (exec (.div false 3 1 2) (regs [(1, 0x8000000000000000), (2, -1)])) = some (3, 0x8000000000000000, 18) := by
  decide
theorem test_div32 : result (exec (.div true 3 1 2) (regs [(1, 0x180000000), (2, -1)])) = some (3, 0xFFFFFFFF80000000, 18) := by decide
theorem test_divn32 : result (exec (.divn true 3 1 2) (regs [(1, 0xFFFFFFFFFFFFFFF0), (2, 0x10)])) = some (3, 0x0FFFFFFF, 18) := by
  decide

/-- R129: movhi puts its immediate above the low word. -/
theorem test_movhi : result (exec (.movhi 4 0x1678) (regs [(4, 0x1234)])) = some (4, 0x167800001234, 2) := by decide
theorem test_movi_sign : result (exec (.movi false 4 0x2000) (regs [])) = some (4, 0xFFFFFFFFFFFFE000, 2) := by decide
theorem test_addpc : result (exec (.addpc 12 40) (regs [])) = some (12, 40, 2) := by decide

/-- R124: a sum wraps, and nothing records the carry; .32 sign-extends bit 31. -/
theorem test_add_wraps : result (exec (.add false 3 1 2) (regs [(1, -1), (2, 2)])) = some (3, 1, 2) := by decide
theorem test_add32 : result (exec (.add true 3 1 2) (regs [(1, 0x7FFFFFFF), (2, 1)])) = some (3, 0xFFFFFFFF80000000, 2) := by decide
theorem test_sub_order : result (exec (.sub false 3 1 2) (regs [(1, 5), (2, 7)])) = some (3, -2, 2) := by decide
theorem test_andn : result (exec (.andn false 3 1 2) (regs [(1, 0xFF), (2, 0x0F)])) = some (3, 0xF0, 2) := by decide
theorem test_sar : result (exec (.sar false 3 1 2) (regs [(1, -8), (2, 65)])) = some (3, -4, 2) := by decide
theorem test_shr : result (exec (.shr false 3 1 2) (regs [(1, -8), (2, 65)])) = some (3, 0x7FFFFFFFFFFFFFFC, 2) := by decide
theorem test_rotl32 : result (exec (.rotl true 3 1 2) (regs [(1, 0x80000001), (2, 33)])) = some (3, 3, 2) := by decide
theorem test_mulh : result (exec (.mulh false 3 1 2) (regs [(1, -1), (2, 2)])) = some (3, -1, 3) := by decide
theorem test_mulhn : result (exec (.mulhn false 3 1 2) (regs [(1, -1), (2, 2)])) = some (3, 1, 3) := by decide
theorem test_clz : result (exec (.clz false 3 1) (regs [])) = some (3, 64, 2) := by decide
theorem test_ctz32 : result (exec (.ctz true 3 1) (regs [(1, 0x100000000)])) = some (3, 32, 2) := by decide
theorem test_sext : result (exec (.sext false 3 1 2) (regs [(1, 0x180), (2, 7)])) = some (3, 0xFFFFFFFFFFFFFF80, 2) := by decide
/-- R124: under the reset MASKSEL csel selects a. -/
theorem test_csel : result (exec (.csel false 3 1 2) (regs [(1, 5), (2, 7)])) = some (3, 5, 2) := by decide

/-- R126: a sign-extended immediate is compared under ltn as the unsigned value it has become. -/
theorem test_kcmp_ltn : flag (exec (.kcmpImm 4 2 1 0x7F) (regs [(1, 5)])) = some (2, true, 2) := by decide
theorem test_kcmp_lt : flag (exec (.kcmpImm 2 2 1 0x7F) (regs [(1, 5)])) = some (2, false, 2) := by decide
theorem test_klog_andn : flag (exec (.klog 3 3 1 2) (here fun c => { c with k := wr c.k 1 true })) = some (3, true, 2) := by decide

/-- R203: a loop tail of 70 elements; pcnt gives 70 from the third cycle, pfirst 0. -/
theorem test_pcnt : result (exec (.pcnt 7 5) (here fun c => { c with p := wr c.p (c.physP 5) (BitVec.ofNat 192 (2 ^ 70 - 1)) })) =
    some (7, 70, 3) := by decide +kernel
theorem test_pfirst : result (exec (.pfirst 8 5) (here fun c => { c with p := wr c.p (c.physP 5) (BitVec.ofNat 192 (2 ^ 70 - 1)) })) =
    some (8, 0, 2) := by decide +kernel

/-- R119, R120: POISON and EARLY of a scalar operand; the information word holds the slot. -/
theorem test_poison : (raised (exec (.add false 3 1 2) (here fun c => { c with s := wr c.s 2 { val := 0, poison := true } }))).map
    Prod.fst = some cPOISON := by decide
theorem test_early : (raised (exec (.add false 3 1 2) (here fun c => { c with
    toks := [{ tok := 0, due := 10, kind := 1, reg := 1 }] }))).map Prod.fst = some cEARLY := by decide

/-- R137: a taken branch beyond the plane, and a misaligned register target. -/
theorem test_branch_bounds : raised (exec (.br 0x3FFFFF) (regs [])) = some (cBOUNDS, -4) := by decide
theorem test_jr_align : raised (exec (.jr 5) (regs [(5, 0x102)])) = some (cALIGN, 0x102) := by decide
theorem test_call_links : result (exec (.call 4) (regs [])) = some (31, 4, 2) := by decide

/-- R131, R130: addresses of scalar memory. -/
theorem test_load_bounds : raised (exec (.ldd false 4 5 0) (regs [(5, 0x300000)])) = some (cBOUNDS, 0x300000) := by decide
theorem test_load_align : raised (exec (.ldw false 4 5 0x7F) (regs [(5, 6)])) = some (cALIGN, 2) := by decide
theorem test_post_increment : result (exec (.stw true 2 8 1) (regs [(8, 0x100)])) = some (8, 0x104, 2) := by decide

/-- R150, R79: a reserved format code. -/
theorem test_setfmt_reserved : (raised (exec (.setfmt 6) (regs [(6, 0xA)]))).map Prod.fst = some cOPER := by decide

/-- R151: trapi gives its sign-extended immediate, brkpt 0. -/
theorem test_trapi : raised (exec (.trapi 0x3FFF) (regs [])) = some (cSWTRAP, -1) := by decide
theorem test_brkpt : raised (exec .brkpt (regs [])) = some (cBREAK, 0) := by decide

/-- R268: `salloc sp, 1536`. -/
theorem test_salloc : result (exec (.salloc 30 1536) (regs [(30, 0x10000)])) = some (30, 0xFA00, 2) := by decide
theorem test_salloc_stack : raised (exec (.salloc 30 1536) (here fun c => { c with
    slim := 0xFB00, s := wr c.s 30 { val := 0x10000, poison := false } })) = some (cSTACK, 0xFA00) := by decide
theorem test_sfree : result (exec (.sfree 30 1536) (regs [(30, 0x10000)])) = some (30, 0x10600, 2) := by decide

/-- R119, R122: rfe in a compute context. -/
theorem test_rfe_privilege : (raised (exec .rfe (regs []))).map Prod.fst = some cPRIV := by decide

/-- R153: CORE reads the core's number, 0x0E names no register. -/
theorem test_mfc_core : result (exec (.mfc 4 0x10) (pair_ [])) = some (4, 384, 2) := by decide
theorem test_mfc_none : (raised (exec (.mfc 4 0x0E) (regs []))).map Prod.fst = some cOPER := by decide

/-- R85: EXT gives the immediate 41 bits. -/
theorem test_ext : result (exec (.movi false 4 0) ((regs []).modTurn fun t => { t with ext := some 1 })) = some (4, 0x4000, 2) := by decide

/-- R166: INT32 sums wrap, INT8 codes are signed, UINT8's are not; the bits under M that act are R77's. -/
def words (c : Nat) (a b d : Nat) : VEnv :=
  { (default : VEnv) with fmt := BitVec.ofNat 22 c, a := BitVec.ofNat 6144 a, b := BitVec.ofNat 6144 b, d := BitVec.ofNat 6144 d }

theorem test_vadd_int32 : elt 4 (vecResult (.vadd false 1 2 3) (words 7 0xFFFFFFFF 2 0)).v 0 = 1 := by decide +kernel
theorem test_vsub_int32 : elt 4 (vecResult (.vsub false 1 2 3) (words 7 1 2 0)).v 0 = 0xFFFFFFFF := by decide +kernel
/-- R97, R167: 1.0 + 2.0 = 3.0 and 1.0 × 2.0 + 0.5 = 2.5 in FP32. -/
theorem test_vadd_fp32 : elt 4 (vecResult (.vadd false 1 2 3) (words 0 0x3F800000 0x40000000 0)).v 0 = 0x40400000 := by decide +kernel
theorem test_vfma_fp32 : elt 4 (vecResult (.vfma false 1 2 3) (words 0 0x3F800000 0x40000000 0x3F000000)).v 0 = 0x40200000 := by
  decide +kernel

/-! ### the hypotheses of the statements can be met: one theorem for each statement, with a state for each of its clauses -/

/-- A machine at the edge of a cycle, its slots open: the bundle of core 0 holds `divn s9, s10, s11`. -/
def fetching : State := State.reset.withFetchWord 32 0x8482450B

theorem meets_DecodeOfEncode :
    (∃ i : Instr, i.isSlot = true ∧ i.wf = true) ∧ ∃ i : Instr, isMicro i = true ∧ i.wf = true :=
  ⟨⟨.add true 31 31 31, rfl, rfl⟩, .mmac 15 15 15 0 0 0xFFFFFF, rfl, rfl⟩

theorem meets_EncodeOfDecode :
    (∃ (w : Nat) (i : Instr), w < 2 ^ 32 ∧ decodeSlot w = .ok i) ∧ ∃ (w : Nat) (i : Instr), w < 2 ^ 64 ∧ decodeMicro w = some i :=
  ⟨⟨0xE2078600, _, by decide, rfl⟩, 0x3400000000000000, _, by decide, rfl⟩

theorem meets_StepRunsDecoded :
    (∃ (s : State) (n : Nat) (ns : List Nat) (i : Instr), s.todo = [] ∧ s.turn.open_ = true ∧ s.turn.cores = n :: ns ∧
      s.fetchSlot.turn.fault = none ∧ decodeSlot s.fetchSlot.turn.word.toNat = .ok i ∧ conflict s.fetchSlot.turn.before i = none ∧
      windowFault s.fetchSlot.me.vws i = none) ∧
    ∃ (s : State) (n : Nat) (ns : List Nat) (i : Instr), s.todo = [] ∧ s.turn.open_ = true ∧ s.turn.cores = [] ∧ s.turn.micro = n :: ns ∧
      (s.next.core n).mx.npc ≤ 8191 ∧ decodeMicro ((s.fetchMicro n).next.microAt n (s.next.core n).mx.npc).toNat = some i :=
  ⟨⟨fetching, 0, [], .divn false 9 10 11, rfl, rfl, rfl, by decide, rfl, by decide, by decide⟩,
    State.reset.withFetchWord 64 0x3000000000000000, 0, [], .mstep, rfl, rfl, rfl, rfl, by decide, rfl⟩

theorem meets_StepRunsEvents :
    (∃ (s : State) (o : Owed) (os : List Owed), s.todo = o :: os) ∧
    ∃ (s : State) (d : Due) (i : Instr), s.todo = [] ∧ s.turn.open_ = false ∧ s.turn.begun = false ∧ s.outside = some (d, i) ∧
      isEvent i = true :=
  ⟨⟨{ State.reset with todo := [.hem 0] }, _, _, rfl⟩,
    { State.reset with agenda := [(.now, .ptmRequest)] }, .now, .ptmRequest, rfl, by decide, by decide, by decide, rfl⟩

theorem meets_StepKeepsSettled : ∃ s t : State, settled s ∧ step s = .next t :=
  ⟨State.reset, _, fun _ => ⟨rfl, rfl⟩, rfl⟩

theorem meets_IssueWritesNothingAtOnce :
    (∃ (i : Instr) (s t : State), i.isSlot = true ∧ exec i s = .next t) ∧ ∃ (i : Instr) (s t : State), isMicro i = true ∧ exec i s = .next t :=
  ⟨⟨.add false 3 1 2, here id, _, rfl, rfl⟩, .mstep, here id, _, rfl, rfl⟩

theorem meets_FaultAnnulsBundle :
    (∃ (s : State) (place : Nat) (e : Exc) (m : Mach), s.turn.fault = some (place, e) ∧ s.turn.snap = some m ∧ s.turn.cores.tail = [] ∧
      isControl s.n = false) ∧
    (∃ (s : State) (place : Nat) (e : Exc) (m : Mach), s.turn.fault = some (place, e) ∧ s.turn.snap = some m ∧ s.turn.cores.tail = [] ∧
      isControl s.n = true) ∧
    ∃ (t : Turn) (q : Nat) (f : Exc), t.fault = some (q, f) :=
  ⟨⟨(here id).raise (exc cBREAK 0), _, _, _, rfl, rfl, by decide, by decide⟩,
    ⟨(at_ 384 id).raise (exc cBREAK 0), _, _, _, rfl, rfl, by decide, by decide⟩, (here id |>.raise (exc cBREAK 0)).turn, _, _, rfl⟩

/-- A context with a fill outstanding to s1, a poisoned s2, and a poisoned v2. -/
def troubled : State := here fun c => { c with toks := [{ tok := 0, due := 10, kind := 1, reg := 1 }], s := wr c.s 2 { val := 0, poison := true } }

/-- A context with `n` results in flight. -/
def laden (n : Nat) : State := here fun c => { c with inflight := List.replicate n { due := 5, ord := 0, what := .s 9 0, poison := false } }

theorem meets_ScalarResults :
    (∃ (i : Instr) (s : State) (r : Row), scalarRow s i = some r ∧ (∀ q ∈ r.reads, readable s q = true) ∧ fits (s.putS r.d r.val r.lat)) ∧
    (∃ (i : Instr) (s : State) (r : Row), scalarRow s i = some r ∧ (∀ q ∈ r.reads, readable s q = true) ∧ fits (s.putS r.d r.val r.lat) ∧
      r.d = 0) ∧
    ∃ (i : Instr) (r : Row), scalarRow (laden 95) i = some r ∧ (∀ q ∈ r.reads, readable (laden 95) q = true) ∧
      fits ((laden 95).putS r.d r.val r.lat) :=
  ⟨⟨.rotl true 3 1 2, regs [(1, -1), (2, 33)], _, rfl, by decide, by decide⟩, ⟨.add false 0 0 0, here id, _, rfl, by decide, by decide⟩,
    .movi false 3 7, _, rfl, by decide, by decide⟩

theorem meets_ScalarOperandFaults :
    (∃ (i : Instr) (s : State) (r : Row), scalarRow s i = some r ∧ ∃ q ∈ r.reads, q ≠ 0 ∧ s.me.filling 1 q.toNat = true) ∧
    (∃ (i : Instr) (s : State) (r : Row), scalarRow s i = some r ∧ (∀ q ∈ r.reads, q ≠ 0 → s.me.filling 1 q.toNat = false) ∧
      ∃ q ∈ r.reads, q ≠ 0 ∧ (rd s.me.s q.toNat).poison = true) ∧
    ∃ (i : Instr) (s : State) (r : Row), scalarRow s i = some r ∧ (∀ q ∈ r.reads, readable s q = true) ∧
      96 < (s.putS r.d r.val r.lat).flying :=
  ⟨⟨.add false 3 1 2, troubled, _, rfl, 1, by decide⟩, ⟨.add false 3 2 2, troubled, _, rfl, by decide, 2, by decide⟩,
    .add false 3 4 5, laden 96, _, rfl, by decide, by decide⟩

theorem meets_FlagResults :
    (∃ (i : Instr) (s : State) (r : FlagRow), flagRow s i = some r ∧ (∀ q ∈ r.reads, readable s q = true) ∧
      (∀ p ∈ r.preds, pReadable s p = true) ∧ fits (s.putK r.k r.val 2) ∧ r.k = 0) ∧
    (∃ (s : State) (r : FlagRow), flagRow s (.ptest 1 5 2) = some r ∧ (∀ q ∈ r.reads, readable s q = true) ∧
      (∀ p ∈ r.preds, pReadable s p = true) ∧ fits (s.putK r.k r.val 2)) ∧
    ∃ (s : State) (r : FlagRow), flagRow s (.tokchk 1 1 31) = some r ∧ (∀ q ∈ r.reads, readable s q = true) ∧
      (∀ p ∈ r.preds, pReadable s p = true) ∧ fits (s.putK r.k r.val 2) :=
  ⟨⟨.kcmp 6 0 1 2, here id, _, rfl, by decide, by decide, by decide, by decide⟩, ⟨here id, _, rfl, by decide, by decide, by decide⟩,
    here id, _, rfl, by decide, by decide, by decide⟩

theorem meets_PredicateResults :
    (∃ (i : Instr) (s : State) (r : PredRow), predRow s i = some r ∧ (∀ q ∈ r.reads, readable s q = true) ∧
      (∀ p ∈ r.preds, pReadable s p = true) ∧ ∀ v : Pred, fits (s.putP r.d v 2)) ∧
    ∃ (a : PReg) (s : State), pReadable s a = true ∧ ∀ (d : SReg) (v : Word) (l : Nat), fits (s.putS d v l) :=
  ⟨⟨.pset 5 6, here id, _, rfl, by decide, by decide, fun v => Nat.le_of_ble_eq_true rfl⟩,
    15, here id, by decide, fun d v l => by unfold State.putS; split <;> exact Nat.le_of_ble_eq_true rfl⟩

/-- Results in flight of core 0's context: two on s9 and one on k2 due at age 5, and one on p3 due later. -/
def racing : List Result :=
  [{ due := 5, ord := 8, what := .s 9 1, poison := true }, { due := 5, ord := 3, what := .s 9 2, poison := false },
    { due := 5, ord := 4, what := .k 2 true, poison := false }, { due := 6, ord := 1, what := .p 3 7, poison := false }]

theorem meets_ResultsLand :
    (∃ (m : Mach) (n x a : Nat) (rs : List Result) (r q : Result) (v w : Word), (m.ctx n x).inflight = rs ∧ (m.ctx n x).toks = [] ∧
      (m.ctx n x).gstClr = [] ∧ (m.ctx n x).loop = none ∧ r ∈ rs ∧ q ∈ rs ∧ q ≠ r ∧ r.due = a + 1 ∧ q.due = a + 1 ∧ r.what = .s 9 v ∧ q.what = .s 9 w ∧
      ∀ q ∈ rs, q.due ≤ a + 1 → q.what.key = r.what.key → q ≠ r → q.ord < r.ord) ∧
    (∃ (m : Mach) (n x a : Nat) (rs : List Result) (d : Nat), (m.ctx n x).inflight = rs ∧ rs ≠ [] ∧ ∀ q ∈ rs, q.due ≤ a + 1 → q.what.key ≠ (3, d)) ∧
    ∃ (m : Mach) (n x a : Nat) (rs : List Result), (m.ctx n x).inflight = rs ∧ rs ≠ [] ∧ ∀ q ∈ rs, a + 1 < q.due :=
  ⟨⟨(here fun c => { c with inflight := racing }).next, 0, 0, 4, racing, _, _, 1, 2, rfl, rfl, rfl, rfl, List.mem_cons_self ..,
      List.mem_cons_of_mem _ (List.mem_cons_self ..), by decide, rfl, rfl, rfl, rfl, by decide⟩,
    ⟨(here fun c => { c with inflight := racing }).next, 0, 0, 4, racing, 3, rfl, by decide, by decide⟩,
    (here fun c => { c with inflight := racing }).next, 0, 0, 3, racing, rfl, by decide, by decide⟩

theorem meets_TransfersTaken :
    (∃ (o : BitVec 22) (s : State), beyond s (s.rel (o.signExtend 64)) = false ∧ fits s ∧ fits (s.jump (s.rel (o.signExtend 64)) 3).link) ∧
    (∃ (p : Bool) (k : KReg) (o : BitVec 18) (s : State), fits s ∧ s.rk k = p ∧ beyond s (s.rel (o.signExtend 64)) = false) ∧
    (∃ (p : Bool) (k : KReg) (s : State), fits s ∧ s.rk k ≠ p) ∧
    (∃ (a : SReg) (s : State), readable s a = true ∧ beyond s (s.rs a) = false ∧ (s.rs a).toNat % 4 = 0 ∧ fits s ∧
      fits (s.jump (s.rs a) 3).link) ∧
    ∃ s : State, readable s 31 = true ∧ beyond s (s.rs 31) = false ∧ (s.rs 31).toNat % 4 = 0 ∧ fits s :=
  ⟨⟨0x3FFF, here id, by decide, by decide, by decide⟩, ⟨true, 0, 5, here id, by decide, by decide, by decide⟩,
    ⟨false, 0, here id, by decide, by decide⟩, ⟨5, regs [(5, 0x100)], by decide, by decide, by decide, by decide, by decide⟩,
    regs [(31, 0xFFFC)], by decide, by decide, by decide, by decide⟩

theorem meets_TransferFaults :
    (∃ (o : BitVec 22) (s : State), beyond s (s.rel (o.signExtend 64)) = true) ∧
    (∃ (p : Bool) (k : KReg) (o : BitVec 18) (s : State), s.rk k = p ∧ beyond s (s.rel (o.signExtend 64)) = true) ∧
    (∃ (a : SReg) (s : State), readable s a = true ∧ beyond s (s.rs a) = true) ∧
    (∃ (a : SReg) (s : State), readable s a = true ∧ beyond s (s.rs a) = false ∧ (s.rs a).toNat % 4 ≠ 0) ∧
    (∃ s : State, readable s 31 = true ∧ beyond s (s.rs 31) = true) ∧
    ∃ s : State, readable s 31 = true ∧ beyond s (s.rs 31) = false ∧ (s.rs 31).toNat % 4 ≠ 0 :=
  ⟨⟨0x4000, here id, by decide⟩, ⟨true, 0, 0x3FFFF, here id, by decide, by decide⟩, ⟨5, regs [(5, 0x10000)], by decide, by decide⟩,
    ⟨5, regs [(5, 0xFFF9)], by decide, by decide, by decide⟩, ⟨regs [(31, 0x10000)], by decide, by decide⟩,
    regs [(31, 0xFFFA)], by decide, by decide, by decide⟩

/-- A context inside a hardware loop. -/
def looping (lc : Word) (rot : Nat) : State := here fun c => { c with lc := lc, rot := rot }

theorem meets_HardwareLoops :
    (∃ s : State, fits s ∧ s.me.lc = 0) ∧ (∃ s : State, fits s ∧ s.me.lc = 1) ∧
    (∃ (o : BitVec 22) (s : State), fits s ∧ s.me.lc ≠ 0 ∧ s.me.lc ≠ 1 ∧ beyond s (s.rel (o.signExtend 64)) = false) ∧
    (∃ (o : BitVec 22) (s : State), fits s ∧ s.me.lc ≠ 0 ∧ s.me.lc ≠ 1 ∧ beyond s (s.rel (o.signExtend 64)) = true) ∧
    (∃ (d : SReg) (i : BitVec 14) (s : State), readable s d = true ∧ (s.imm i).toNat < 128 ∧ (s.imm i).toNat = s.me.vws ∧
      (s.imm i).toNat % 8 = 0 ∧ fits ((((s.putC 7 (s.rs d)).putC 4 (s.imm i)).putC 5 0).putC 6 0)) ∧
    (∃ (i : BitVec 14) (s : State), readable s 0 = true ∧ (s.imm i).toNat = 128) ∧
    (∃ (i : BitVec 14) (s : State), readable s 0 = true ∧ (s.imm i).toNat < 128 ∧ s.me.vws < (s.imm i).toNat) ∧
    ∃ (i : BitVec 14) (s : State), readable s 0 = true ∧ (s.imm i).toNat < 128 ∧ (s.imm i).toNat % 8 ≠ 0 :=
  ⟨⟨looping 0 0, by decide, by decide⟩, ⟨looping 1 8, by decide, by decide⟩, ⟨0, looping 2 8, by decide, by decide, by decide, by decide⟩,
    ⟨0x3FFFFF, looping 2 8, by decide, by decide, by decide, by decide⟩, ⟨5, 120, here id, by decide, by decide, by decide, by decide, by decide⟩,
    ⟨128, here id, by decide, by decide⟩, ⟨127, here id, by decide, by decide, by decide⟩, 4, here id, by decide, by decide, by decide⟩

/-- Core 0 in region 0 at count `c`, its last sample `p`. -/
def paced_ (c : Nat) (p : Option Nat) (hp : Option Nat) (lc : Word) : State := at_ 0 fun m =>
  (m.modRegion 0 fun g => { g with count := c, free := c }).modCtx 0 0 fun x => { x with pp := p, hp := hp, lc := lc }

theorem meets_PacingWaits :
    (∃ (s : State) (n t : Nat), pacePoint s n ∧ t = paceCycle s n ∧ fits s ∧
      s.cyc < t ∧ s.me.lc = 1) ∧
    (∃ (s : State) (n t : Nat) (o : BitVec 22), pacePoint s n ∧ t = paceCycle s n ∧ fits s ∧
      s.cyc < t ∧ s.me.lc ≠ 0 ∧ s.me.lc ≠ 1 ∧ beyond s (s.rel (o.signExtend 64)) = false) ∧
    (∃ (s : State) (n t : Nat) (o : BitVec 22), pacePoint s n ∧ t = paceCycle s n ∧ fits s ∧
      s.cyc < t ∧ s.me.lc ≠ 0 ∧ s.me.lc ≠ 1 ∧ beyond s (s.rel (o.signExtend 64)) = true) ∧
    (∃ (s : State) (n t : Nat), pacePoint s n ∧ t = paceCycle s n ∧ fits s ∧ t = s.cyc) ∧
    (∃ (s : State) (h H : Nat), h = (match s.me.hp with
        | none => s.cyc / (s.view.region s.myRegion).cadl
        | some p => p + 1) ∧ H = (h + 1) * (s.view.region s.myRegion).cadl - 1 ∧ fits s ∧
      s.cyc = H + (s.view.region s.myRegion).slack) ∧
    ∃ (s : State) (h H : Nat), h = (match s.me.hp with
        | none => s.cyc / (s.view.region s.myRegion).cadl
        | some p => p + 1) ∧ H = (h + 1) * (s.view.region s.myRegion).cadl - 1 ∧ fits s ∧
      H + (s.view.region s.myRegion).slack + 1 = s.cyc :=
  ⟨⟨paced_ 89 none none 1, 1, 90, ⟨by decide, fun j h => (by decide : ∀ j : Nat, j < 1 → paceCycle (paced_ 89 none none 1) j ≤ (paced_ 89 none none 1).cyc) j h⟩, by decide, by decide, by decide, by decide⟩,
    ⟨paced_ 5 (some 0) none 2, 1, 90, 0, rfl, by decide, by decide, by decide, by decide, by decide, by decide⟩,
    ⟨paced_ 5 (some 0) none 2, 1, 90, 0x3FFFFF, rfl, by decide, by decide, by decide, by decide, by decide, by decide⟩,
    ⟨paced_ 180 (some 1) none 0, 2, 180, rfl, by decide, by decide, by decide⟩, ⟨paced_ 179 none (some 0) 0, _, _, rfl, rfl, by decide, by decide⟩,
    paced_ 180 none (some 0) 0, _, _, rfl, rfl, by decide, by decide⟩

theorem meets_RunControl :
    (∃ s : State, fits s ∧ s.copying = false ∧ s.spilling = false) ∧ (∃ s : State, fits s ∧ (s.copying = true ∨ s.spilling = true)) ∧
    (∃ (s : State) (i : BitVec 14), fits s ∧ (s.imm i).toNat = 63) ∧ (∃ (s : State) (i : BitVec 14), fits s ∧ (s.imm i).toNat = 64) ∧
    (∃ (s : State) (i : BitVec 14), fits s ∧ (s.imm i).toNat = 4) ∧ (∃ (s : State) (i : BitVec 14), fits s ∧ (s.imm i).toNat = 5) ∧
    ∃ s : State, fits s ∧ isControl s.n = true :=
  ⟨⟨here id, by decide, by decide, by decide⟩, ⟨troubled, by decide, by decide⟩, ⟨here id, 63, by decide, by decide⟩,
    ⟨here id, 64, by decide, by decide⟩, ⟨here id, 4, by decide, by decide⟩, ⟨here id, 5, by decide, by decide⟩, at_ 384 id, by decide, by decide⟩

theorem meets_NotchPerforms :
    (∃ s : State, s.alone = true ∧ s.inFlight = false ∧ s.copying = false ∧ s.spilling = false ∧ s.myCore.mx.state ≠ 1 ∧
      s.myCore.losses = [] ∧ s.me.segbuf = none ∧ s.flying ≤ 96) ∧
    (∃ (s : State) (b : SegBuf), s.alone = true ∧ s.inFlight = false ∧ s.copying = false ∧ s.spilling = false ∧ s.myCore.mx.state ≠ 1 ∧
      s.myCore.losses = [] ∧ s.me.segbuf = some b ∧ b.cur ≠ none ∧ 4 * b.words.length ≤ s.after ∧ b.ptr ≠ 0xFFFF ∧ s.flying ≤ 96) ∧
    (∃ s : State, s.inFlight = true) ∧ (∃ s : State, s.alone = false) ∧ (∃ s : State, s.spilling = true) ∧
    (∃ s : State, s.myCore.mx.state = 1) ∧
    ∃ (s : State) (w : Word) (ws : List Word), s.alone = true ∧ s.inFlight = false ∧ s.copying = false ∧ s.spilling = false ∧
      s.myCore.mx.state ≠ 1 ∧ s.myCore.losses = w :: ws :=
  ⟨⟨here id, by decide, by decide, by decide, by decide, by decide, by decide, by decide, by decide⟩,
    ⟨here fun c => { c with segbuf := some { (default : SegBuf) with cur := some default } }, _, by decide, by decide, by decide, by decide, by decide,
      by decide, rfl, by decide, by decide, by decide, by decide⟩, ⟨laden 1, by decide⟩,
    ⟨(here id).modTurn fun t => { t with pos := 1 }, by decide⟩, ⟨troubled, by decide⟩,
    ⟨at_ 0 fun m => m.modCore 0 fun c => { c with mx := { c.mx with state := 1 } }, by decide⟩,
    at_ 0 fun m => m.modCore 0 fun c => { c with losses := [7] }, 7, [], by decide, by decide, by decide, by decide, by decide, by decide⟩

theorem meets_FormatAndTraps :
    (∃ (a : SReg) (s : State) (f : BitVec 22), readable s a = true ∧ f = BitVec.ofNat 22 (s.rs a).toNat ∧ fmtV f = 9 ∧ fmtW f ≤ 9 ∧
      fmtA f ≤ 9 ∧ fmtB f ≤ 9 ∧ fits (s.land 4 (.fmt f) false)) ∧
    ∃ (a : SReg) (s : State) (f : BitVec 22), readable s a = true ∧ f = BitVec.ofNat 22 (s.rs a).toNat ∧ fmtV f = 10 :=
  ⟨⟨6, regs [(6, 9)], _, by decide, rfl, by decide, by decide, by decide, by decide, by decide⟩, 6, regs [(6, 10)], _, by decide, rfl, by decide⟩

theorem meets_PrivilegeChecked :
    ∃ (s : State) (i j : BitVec 14), isControl s.n = false ∧ 0x100 = (s.imm i).toInt ∧ (s.imm j).toInt ∈ [0x22, 0x24, 0x25, 0x26, 0x28] :=
  ⟨here id, 0x100, 0x28, by decide, by decide, by decide⟩

theorem meets_ScalarAccessIssued :
    (∃ (i : Instr) (s : State) (r : MemRow), memRow s i = some r ∧ (∀ q ∈ r.reads, readable s q = true) ∧ r.ea.toNat + r.size = 0x300000 ∧
      r.ea.toNat % r.size = 0 ∧ (r.load = true → s.inArmed r.ea.toNat r.size (s.age + 2) = false) ∧ fits r.after) ∧
    (∃ (s : State) (r : MemRow), memRow s (.std true 0 8 1) = some r ∧ (∀ q ∈ r.reads, readable s q = true) ∧ r.ea.toNat < 0x300000 ∧
      r.ea.toNat % r.size = 0 ∧ fits r.after) ∧
    ∃ (s : State) (r : MemRow), memRow s (.amocas 2 9 1) = some r ∧ (∀ q ∈ r.reads, readable s q = true) ∧ r.ea.toNat < 0x300000 ∧
      r.ea.toNat % r.size = 0 ∧ s.inArmed r.ea.toNat r.size (s.age + 2) = false ∧ fits r.after :=
  ⟨⟨.ldd false 4 5 0x7F, regs [(5, 0x300000)], _, rfl, by decide, by decide, by decide, by decide, by decide⟩,
    ⟨regs [(8, 0x100)], _, rfl, by decide, by decide, by decide, by decide⟩,
    regs [(9, 0x100)], _, rfl, by decide, by decide, by decide, by decide, by decide⟩


/-- Core 0 with scalar registers, bytes 0x100 to 0x1FF armed, and the copy that fills them complete at age 1000. -/
def armed_ (l : List (Nat × Word)) : State := at_ 0 fun m =>
  (m.modCtx 0 0 fun c => { c with s := l.foldl (fun m (r, v) => wr m r { val := v, poison := false }) c.s
                                  armed := [{ base := 0x100, len := 0x100, copies := [7] }] }).modCore 0 fun c =>
    { c with eng := wr c.eng 0 { (rd c.eng 0) with copies := [{ (default : Copy) with serial := 7, iters := [{ (default : Iter) with d := 1000 }] }] } }

theorem meets_ScalarAccessFaults :
    (∃ (i : Instr) (s : State) (r : MemRow), memRow s i = some r ∧ (∀ q ∈ r.reads, readable s q = true) ∧ r.ea.toNat = 0x300000) ∧
    (∃ (i : Instr) (s : State) (r : MemRow), memRow s i = some r ∧ (∀ q ∈ r.reads, readable s q = true) ∧ r.ea.toNat < 0x300000 ∧
      r.ea.toNat % r.size ≠ 0) ∧
    ∃ (i : Instr) (s : State) (r : MemRow), memRow s i = some r ∧ (∀ q ∈ r.reads, readable s q = true) ∧ r.ea.toNat < 0x300000 ∧
      r.ea.toNat % r.size = 0 ∧ r.load = true ∧ s.inArmed r.ea.toNat r.size (s.age + 2) = true :=
  ⟨⟨.stb false 4 5 0, regs [(5, 0x300000)], _, rfl, by decide, by decide⟩, ⟨.ldh false 4 5 0, regs [(5, 0x2FFFFF)], _, rfl, by decide, by decide, by decide⟩,
    .ldd false 4 5 0, armed_ [(5, 0x1F8)], _, rfl, by decide, by decide, by decide, by decide, by decide⟩

/-- A machine on which accesses perform, and one access of core 0. -/
def performing : Perf := { old := State.reset.next, m := State.reset.next, fix := [] }
def access_ (a : Access) : Pending := { core := 0, ctx := 0, uid := none, ord := 0, due := 2, acc := a }

theorem meets_LoadsReturnMemory :
    (∃ (p : Perf) (q : Pending) (a size d land : Nat) (signed : Bool), q.acc = .load a size signed d land ∧ (p.m.core q.core).twin = 0 ∧
      (p.old.cl (clusOf q.core)).firstDown a size = none ∧ d = 0) ∧
    ∃ (p : Perf) (q : Pending) (a size d land : Nat) (signed : Bool), q.acc = .load a size signed d land ∧ (p.m.core q.core).twin = 0 ∧
      (p.old.cl (clusOf q.core)).firstDown a size = none ∧ d ≠ 0 :=
  ⟨⟨performing, access_ (.load 0x100 8 false 0 4), _, _, _, _, _, rfl, by decide, by decide, rfl⟩,
    performing, access_ (.load 0x2FFFF8 8 true 5 4), _, _, _, _, _, rfl, by decide, by decide, by decide⟩

theorem meets_StoresWriteTheirBytes :
    ∃ (p : Perf) (q : Pending) (a size : Nat) (v : Word) (bad spill : Bool), q.acc = .store a size v bad spill ∧ p.m.tracks q.core q.ctx = false ∧
      (p.m.cl (clusOf q.core)).firstDown a size = none ∧ (p.m.cl (clusOf q.core)).spad.wf = true :=
  ⟨performing, access_ (.store 0x2FFFF8 8 0x0102030405060708 false false), _, _, _, _, _, rfl, by decide, by decide, by decide⟩

theorem meets_AmosUpdate :
    ∃ (p : Perf) (q : Pending) (fn a d land : Nat) (v swap old : Word), q.acc = .amo fn a v swap d land ∧ fn = 11 ∧ d ≠ 0 ∧
      p.m.tracks q.core q.ctx = false ∧ (p.m.cl (clusOf q.core)).firstDown a 8 = none ∧ (p.old.cl (clusOf q.core)).isUp a = true ∧
      p.old.cl (clusOf q.core) ≠ p.m.cl (clusOf q.core) ∧ (p.m.cl (clusOf q.core)).badB a 8 = [] ∧ (p.m.cl (clusOf q.core)).spad.wf = true ∧ a % 8 = 0 ∧
      old = BitVec.ofNat 64 ((p.m.cl (clusOf q.core)).spad.nat a 8) :=
  ⟨performing.writeAcc (access_ (.store 0x1000 8 5 false false)), access_ (.amo 11 0x1000 1 0 2 6), _, _, _, _, _, _, _, rfl, rfl, by decide,
    by decide, by decide, by decide, by decide, by decide, by decide, by decide, rfl⟩

theorem meets_TagTable :
    (∃ (d b : SReg) (o : BitVec 7) (s : State), readable s b = true ∧ readable s d = true ∧
      fits (s.access 2 (.lookup (address s false b o 1) d.toNat 4)) ∧ fits (s.access 2 (.tagset (address s false b o 1) ((s.rs d).toNat % 8))) ∧
      fits (s.access 2 (.tagclr (address s false b o 1)))) ∧ ∃ w : Nat, w < 8 :=
  ⟨⟨3, 7, 0x7F, here id, by decide, by decide, by decide, by decide, by decide⟩, 7, by decide⟩

theorem meets_SpillsIssued :
    (∃ (i : Instr) (s : State) (r : SpillRow), spillRow s i = some r ∧ spillReads s i = true ∧ r.ea.toNat + r.size = 0x300000 ∧
      r.ea.toNat % r.align = 0 ∧ s.me.slim.toNat ≤ r.ea.toNat ∧ fits r.after ∧ r.load = false) ∧
    ∃ (i : Instr) (s : State) (r : SpillRow), spillRow s i = some r ∧ spillReads s i = true ∧ r.ea.toNat + r.size ≤ 0x300000 ∧
      r.ea.toNat % r.align = 0 ∧ s.me.slim.toNat ≤ r.ea.toNat ∧ s.inArmed r.ea.toNat r.size (s.age + 2) = false ∧ fits r.after ∧ r.load = true :=
  ⟨⟨.spillv 40 30 0x7F, regs [(30, 0x300000)], _, rfl, by decide, by decide, by decide, by decide, by decide, by decide⟩,
    .fillp 9 30 1, regs [(30, 0)], _, rfl, by decide, by decide, by decide, by decide, by decide, by decide, by decide⟩

theorem meets_StackRules :
    (∃ (i : Instr) (s : State) (r : SpillRow), spillRow s i = some r ∧ spillReads s i = true ∧ 0x300001 = r.ea.toNat + r.size) ∧
    (∃ (i : Instr) (s : State) (r : SpillRow), spillRow s i = some r ∧ spillReads s i = true ∧ r.ea.toNat + r.size ≤ 0x300000 ∧
      r.ea.toNat % r.align ≠ 0) ∧
    (∃ (i : Instr) (s : State) (r : SpillRow), spillRow s i = some r ∧ spillReads s i = true ∧ r.ea.toNat + r.size ≤ 0x300000 ∧
      r.ea.toNat % r.align = 0 ∧ r.ea.toNat + 8 = s.me.slim.toNat) ∧
    (∃ (d : SReg) (i : BitVec 14) (s : State), readable s d = true ∧ 0 ≤ (s.imm i).toInt ∧ (s.imm i).toNat % 256 = 0 ∧
      s.me.slim.toNat = (s.rs d - s.imm i).toNat ∧ fits (s.putS d (s.rs d - s.imm i) 2) ∧ fits (s.putS d (s.rs d + s.imm i) 2)) ∧
    (∃ (d : SReg) (i : BitVec 14) (s : State), readable s d = true ∧ 0 ≤ (s.imm i).toInt ∧ (s.imm i).toNat % 256 = 0 ∧
      (s.rs d - s.imm i).toNat < s.me.slim.toNat) ∧
    (∃ (d : SReg) (i : BitVec 14) (s : State), readable s d = true ∧ (s.imm i).toInt < 0) ∧
    ∃ (d : SReg) (i : BitVec 14) (s : State), readable s d = true ∧ (s.imm i).toNat % 256 ≠ 0 :=
  ⟨⟨.spills 16 30 0, regs [(30, 0x2FFFF9)], _, rfl, by decide, by decide⟩, ⟨.fills 16 30 0, regs [(30, 4)], _, rfl, by decide, by decide, by decide⟩,
    ⟨.spills 16 30 0, here fun c => { c with slim := 8 }, _, rfl, by decide, by decide, by decide, by decide⟩,
    ⟨30, 256, here fun c => { c with slim := 0xFF00, s := wr c.s 30 { val := 0x10000, poison := false } }, by decide, by decide, by decide, by decide,
      by decide, by decide⟩,
    ⟨30, 256, here fun c => { c with slim := 0xFF01, s := wr c.s 30 { val := 0x10000, poison := false } }, by decide, by decide, by decide, by decide⟩,
    ⟨30, 0x3F00, here id, by decide, by decide⟩, 30, 255, here id, by decide, by decide⟩

/-- A context whose guard fails: MASKSEL names k1, which is 0, with positive polarity. -/
def unguarded : State := here fun c => { c with masksel := 0x10 }

/-- Core 0 in a format, its bobbins free. -/
def formatted (f : BitVec 22) : State := here fun c => { c with fmt := f }

/-- Core 0 with b0 bound, at a position. -/
def bound (g : Binding) (pos usable : Nat) : State := at_ 0 fun m => m.modCore 0 fun c =>
  { c with bob := wr c.bob 0 { (rd c.bob 0) with bound := some g, pos := pos, usable := usable } }

/-- A scratchpad stream of one vector at an address. -/
def stream (kind : Nat) (base : Nat) (strict : Bool) : Binding :=
  { (default : Binding) with kind := kind, strict := strict, base := base, cnt := [1, 1, 1, 1], str := [0, 0, 0, 0] }

theorem meets_VectorSlotsIssued :
    (∃ (i : Instr) (s : State) (r : VRow), vecRow s i = some r ∧ r.guarded = true ∧ s.me.guard = false ∧ fits s) ∧
    (∃ (i : Instr) (s : State) (r : VRow), vecRow s i = some r ∧ (r.guarded = true → s.me.guard = true) ∧ r.ready s i ∧
      ∃ (e : VEnv) (mems : List (Nat × List Nat)) (p : Nat) (ds : List VDest), s.readAll r.reads r.env = .ok (e, mems, p) ∧ r.dests s = .ok ds ∧
        accepts s.me.fmt i = true ∧ fits (r.after s i e mems p ds)) ∧
    (∃ (i : Instr) (s : State) (r : VRow), vecRow s i = some r ∧ (r.guarded = true → s.me.guard = true) ∧ r.ready s i ∧
      ∃ (e : VEnv) (mems : List (Nat × List Nat)) (p : Nat) (ds : List VDest), s.readAll r.reads r.env = .ok (e, mems, p) ∧ r.dests s = .ok ds ∧
        accepts s.me.fmt i = false) ∧
    (∃ (i : Instr) (s : State) (r : VRow), vecRow s i = some r ∧ (r.guarded = true → s.me.guard = true) ∧ r.ready s i ∧
      ∃ x : Exc, s.readAll r.reads r.env = .error x) ∧
    ∃ (i : Instr) (s : State) (r : VRow), vecRow s i = some r ∧ (r.guarded = true → s.me.guard = true) ∧ r.ready s i ∧
      ∃ (q : VEnv × List (Nat × List Nat) × Nat) (x : Exc), s.readAll r.reads r.env = .ok q ∧ r.dests s = .error x :=
  ⟨⟨.vadd true 3 1 2, unguarded, _, rfl, rfl, by decide, by decide⟩,
    ⟨.vadd false 3 1 2, formatted 7, _, rfl, by decide, ⟨by decide, by decide, by decide⟩, _, _, _, _, rfl, rfl, by decide, by decide⟩,
    ⟨.vadd false 3 1 2, formatted 9, _, rfl, by decide, ⟨by decide, by decide, by decide⟩, _, _, _, _, rfl, rfl, by decide⟩,
    ⟨.vadd false 3 120 2, formatted 7, _, rfl, by decide, ⟨by decide, by decide, by decide⟩, _, rfl⟩,
    .vadd false 121 1 2, formatted 7, _, rfl, by decide, ⟨by decide, by decide, by decide⟩, _, _, rfl, rfl⟩

theorem meets_VectorOperandFaults_scalars :
    (∃ (i : Instr) (s : State) (r : VRow), vecRow s i = some r ∧ (r.guarded = true → s.me.guard = true) ∧
      ∃ q ∈ r.scal, q ≠ 0 ∧ s.me.filling 1 q.toNat = true) ∧
    ∃ (i : Instr) (s : State) (r : VRow), vecRow s i = some r ∧ (r.guarded = true → s.me.guard = true) ∧
      (∀ q ∈ r.scal, q ≠ 0 → s.me.filling 1 q.toNat = false) ∧ ∃ q ∈ r.scal, q ≠ 0 ∧ (rd s.me.s q.toNat).poison = true :=
  ⟨⟨.vbc false 3 1, troubled, _, rfl, by decide, 1, by decide⟩, .vins false 3 2 4, troubled, _, rfl, by decide, by decide, 2, by decide⟩

theorem meets_VectorOperandFaults :
    (∃ (i : Instr) (s : State) (r : VRow), vecRow s i = some r ∧ (r.guarded = true → s.me.guard = true) ∧ (∀ q ∈ r.scal, readable s q = true) ∧
      ∃ c ∈ r.reads.map Prod.snd ++ r.comps, c.toNat < 120 ∧ s.me.filling 0 (s.me.phys c.toNat) = true) ∧
    (∃ (i : Instr) (s : State) (r : VRow), vecRow s i = some r ∧ (r.guarded = true → s.me.guard = true) ∧ (∀ q ∈ r.scal, readable s q = true) ∧
      ∃ p ∈ r.allPreds s i, p ≠ 0 ∧ s.me.filling 2 (s.me.physP p.toNat) = true) ∧
    ∃ (i : Instr) (s : State) (r : VRow), vecRow s i = some r ∧ (r.guarded = true → s.me.guard = true) ∧ (∀ q ∈ r.scal, readable s q = true) ∧
      (∀ c ∈ r.reads.map Prod.snd ++ r.comps, c.toNat < 120 → s.me.filling 0 (s.me.phys c.toNat) = false) ∧
      (∀ p ∈ r.allPreds s i, pReadable s p = true) ∧
      ∃ c ∈ r.reads.map Prod.snd ++ r.comps, c.toNat < 120 ∧ (rd s.myCore.v (s.me.phys c.toNat)).poison = true :=
  ⟨⟨.vadd false 3 119 2, here fun c => { c with toks := [{ tok := 0, due := 10, kind := 0, reg := c.phys 119 }] }, _, rfl, by decide, by decide,
      119, by decide⟩,
    ⟨.vsel true 3 1 2, here fun c => { c with masksel := 5, toks := [{ tok := 0, due := 10, kind := 2, reg := c.physP 5 }] }, _, rfl, by decide,
      by decide, 5, by decide⟩,
    .vadd false 3 1 2, at_ 0 fun m => m.modCore 0 fun c => { c with v := wr c.v ((m.ctx 0 0).phys 2) { val := 0, poison := true } }, _, rfl,
      by decide, by decide, by decide, by decide, 2, by decide⟩

theorem meets_BobbinsPopAndPush :
    (∃ c : VCode, c.toNat = 119) ∧ (∃ (c : VCode) (s : State), 120 = c.toNat ∧ (s.bobbin (c.toNat - 120)).bound = none) ∧
    (∃ (s : State) (g : Binding), (s.bobbin 0).bound = some g ∧ s.age + 1 = (s.bobbin 0).usable) ∧
    (∃ (s : State) (g : Binding), (s.bobbin 0).bound = some g ∧ (s.bobbin 0).usable = s.age ∧ g.kind = 1 ∧ (s.bobbin 0).pos + 1 = g.len ∧
      0 ≤ g.addr (s.bobbin 0).pos ∧ g.addr (s.bobbin 0).pos = 0x2FFD00 ∧ s.inArmed (g.addr (s.bobbin 0).pos).toNat 768 (s.age + 2) = false) ∧
    (∃ (s : State) (g : Binding), (s.bobbin 0).bound = some g ∧ (s.bobbin 0).usable = s.age ∧ g.kind = 1 ∧ (s.bobbin 0).pos < g.len ∧
      0x2FFD00 < g.addr (s.bobbin 0).pos) ∧
    (∃ (s : State) (g : Binding), (s.bobbin 0).bound = some g ∧ (s.bobbin 0).usable = s.age ∧ g.kind = 1 ∧ g.len = (s.bobbin 0).pos ∧
      g.strict = true) ∧
    (∃ (s : State) (g : Binding), (s.bobbin 0).bound = some g ∧ (s.bobbin 0).usable = s.age ∧ g.kind = 1 ∧ g.len = (s.bobbin 0).pos ∧
      g.strict = false) ∧
    (∃ (s : State) (g : Binding), (s.bobbin 0).bound = some g ∧ (s.bobbin 0).usable = s.age ∧ g.kind = 2 ∧ (s.bobbin 0).pos < g.len ∧
      0 = g.addr (s.bobbin 0).pos ∧ g.addr (s.bobbin 0).pos ≤ 0x2FFD00) ∧
    ∃ (s : State) (g : Binding), (s.bobbin 0).bound = some g ∧ (s.bobbin 0).usable = s.age ∧ g.kind = 2 ∧ g.len = (s.bobbin 0).pos ∧
      g.strict = true :=
  ⟨⟨119, rfl⟩, ⟨120, here id, rfl, by decide⟩, ⟨bound (stream 1 0 false) 0 1, _, rfl, by decide⟩,
    ⟨bound (stream 1 0x2FFD00 false) 0 0, _, rfl, by decide, by decide, by decide, by decide, by decide, by decide⟩,
    ⟨bound (stream 1 0x2FFE00 false) 0 0, _, rfl, by decide, by decide, by decide, by decide⟩,
    ⟨bound (stream 1 0 true) 1 0, _, rfl, by decide, by decide, by decide, by decide⟩,
    ⟨bound (stream 1 0 false) 1 0, _, rfl, by decide, by decide, by decide, by decide⟩,
    ⟨bound (stream 2 0 false) 0 0, _, rfl, by decide, by decide, by decide, by decide, by decide⟩,
    bound (stream 2 0 true) 1 0, _, rfl, by decide, by decide, by decide, by decide⟩

theorem meets_LaneValues :
    (∃ (i : Instr) (e : VEnv) (k : Nat) (v : Int), fmtV e.fmt = 5 ∧ k + 1 = 768 / fmtWidth (fmtV e.fmt) ∧ intElt (fmtV e.fmt) i e k = some v) ∧
    (∃ (i : Instr) (e : VEnv) (k : Nat) (v : Int), fmtV e.fmt = 8 ∧ k + 1 = 768 / fmtWidth (fmtV e.fmt) ∧ intElt (fmtV e.fmt) i e k = some v) ∧
    (∃ (i : Instr) (e : VEnv) (b : Bool), bitOf i e 6143 = some b) ∧ ∃ e : VEnv, fmtV e.fmt = 7 :=
  ⟨⟨.vsar false 1 2 3, words 5 0 0 0, 767, _, rfl, rfl, rfl⟩, ⟨.vsatsub false 1 2 3, words 8 0 0 0, 767, _, rfl, rfl, rfl⟩,
    ⟨.vsel false 1 2 3, words 0 0 0 0, _, rfl⟩, words 7 0 0 0, rfl⟩

theorem meets_ElementMoves : ∃ (e : VEnv) (w n k : Nat), fmtV e.fmt = 8 ∧ w = fmtWidth (fmtV e.fmt) ∧ n = 768 / w ∧ k + 1 = n :=
  ⟨words 8 0 0 0, 1, 768, 767, rfl, rfl, rfl, rfl⟩

theorem meets_VectorResultsLand :
    ∃ (m : Mach) (n x a : Nat) (r : Result) (d : Nat) (v : VWord) (mask : ByteMask), (m.ctx n x).inflight = [r] ∧ r.what = .v d v mask ∧
      (m.ctx n x).toks = [] ∧ (m.ctx n x).gstClr = [] ∧ r.due = a + 1 :=
  ⟨(here fun c => { c with inflight := [{ due := 5, ord := 0, what := .v 3 1 fullMask, poison := true }] }).next, 0, 0, 4, _, _, _, _, rfl, rfl, rfl,
    rfl, rfl⟩

theorem meets_RoundingKeepsCodes :
    (∃ c code rm : Nat, c = 4 ∧ code + 1 = 2 ^ (ffmt c).bits ∧ rm = 3) ∧
    (∃ c code : Nat, c ≤ 4 ∧ code < 2 ^ (ffmt c).bits ∧ (decF (ffmt c) code).isNan = true) ∧
    ∃ c code : Nat, c ≤ 4 ∧ code < 2 ^ (ffmt c).bits ∧ (decF (ffmt c) code).isNan = false :=
  ⟨⟨4, 255, 3, rfl, by decide, rfl⟩, ⟨0, 0x7FC00001, by decide, by decide, by decide⟩, 0, 1, by decide, by decide, by decide⟩

theorem meets_PredicatesPacked :
    (∃ (d : VCode) (a : Bool) (s : State), d.toNat = 119 ∧ (∀ j : Nat, j < 8 → pReadable s (BitVec.ofNat 4 (8 * bnat a + j)) = true) ∧
      ∀ v : VWord, fits (s.land 2 (.v (s.me.phys d.toNat) v fullMask) false)) ∧
    ∃ (d : Bool) (a : VCode) (s t : State), vReadable s a = true ∧ fits t ∧
      t = s.mod (fun m => m.deliver s.n s.x (s.me.task.map Task.uid) s.ord s.age 2
        ((s.env false (s.info 0) 0).set 1 (rd s.myCore.v (s.me.phys a.toNat)).val)
        (vecResult (.punpk d a) ((s.env false (s.info 0) 0).set 1 (rd s.myCore.v (s.me.phys a.toNat)).val)) false
        ((List.range 8).map fun j => .p (s.me.physP (8 * bnat d + j)))) :=
  ⟨⟨119, true, here id, rfl, by decide, fun _ => Nat.le_of_ble_eq_true rfl⟩, true, 119, here id, _, by decide, Nat.le_of_ble_eq_true rfl, rfl⟩

theorem meets_VectorAccessesIssued :
    (∃ (x : Bool) (b : SReg) (o : BitVec 7) (s : State) (ea : Word), readable s b = true ∧ ea = address s x b o 768 ∧ ea.toNat = 0x2FFD01) ∧
    (∃ (x : Bool) (b : SReg) (o : BitVec 7) (s : State) (ea : Word), readable s b = true ∧ ea = address s x b o 768 ∧ ea.toNat ≤ 0x2FFD00 ∧
      ea.toNat % 256 ≠ 0) ∧
    (∃ (x : Bool) (b : SReg) (o : BitVec 7) (s : State) (ea : Word), readable s b = true ∧ ea = address s x b o 768 ∧ ea.toNat ≤ 0x2FFD00 ∧
      ea.toNat % 256 = 0 ∧ s.inArmed ea.toNat 768 (s.age + 2) = true) ∧
    (∃ (x : Bool) (d : VCode) (b : SReg) (o : BitVec 7) (s : State) (ea : Word), readable s b = true ∧ ea = address s x b o 768 ∧
      ea.toNat = 0x2FFD00 ∧ ea.toNat % 256 = 0 ∧ s.inArmed ea.toNat 768 (s.age + 2) = false ∧ vReadable s d = true ∧ s.me.guard = true ∧
      pReadable s (s.me.masksel.extractLsb' 0 4) = true ∧
      fits (afterBump (s.access 2 (.vload ea.toNat (s.me.phys d.toNat) 6)) s x b o 768) ∧
      fits (afterBump (s.access 2 (.vstore ea.toNat (rd s.myCore.v (s.me.phys d.toNat)).val fullMask false false)) s x b o 768) ∧
      fits (afterBump (s.access 2 (.vstore ea.toNat (rd s.myCore.v (s.me.phys d.toNat)).val (laneMask s.me.mergePred) false false)) s x b o 768)) ∧
    (∃ (x : Bool) (d : VCode) (b : SReg) (o : BitVec 7) (s : State) (ea : Word), readable s b = true ∧ ea = address s x b o 768 ∧
      ea.toNat ≤ 0x2FFD00 ∧ ea.toNat % 256 = 0 ∧ vReadable s d = true ∧ s.me.guard = false ∧ fits s) ∧
    ∃ (m : Bool) (d b : VCode) (a : SReg) (s : State) (base : Nat) (ix dv : VWord) (lanes : Pred), (m = true → s.me.guard = true) ∧
      (m = true → pReadable s (s.me.masksel.extractLsb' 0 4) = true) ∧ readable s a = true ∧ vReadable s b = true ∧ vReadable s d = true ∧
      base = (s.rs a).toNat % 2 ^ 63 ∧ base % 4 = 0 ∧ ix = (rd s.myCore.v (s.me.phys b.toNat)).val ∧ dv = (rd s.myCore.v (s.me.phys d.toNat)).val ∧
      lanes = (if m then s.me.mergePred else BitVec.allOnes 192) ∧
      (∀ l : Nat, l < 192 → lanes.getLsbD l = true → lane ix l < 2 ^ 31 → base + 4 * lane ix l + 3 ≤ 0x2FFFFF) ∧ fmtV s.me.fmt = 0 ∧
      (∀ l : Nat, l < 192 → lanes.getLsbD l = true → lane ix l < 2 ^ 31 → s.inArmed (base + 4 * lane ix l) 4 (s.age + 6) = false) ∧
      fits (s.access 6 (.scatter base ix dv lanes false)) ∧ fits (s.access 6 (.scatterAdd base ix dv lanes s.me.fmt false)) ∧
      fits (s.access 6 (.gather base ix ((s.env m (s.rs a) 0).set 2 ix) [.v (s.me.phys d.toNat)] 6)) :=
  ⟨⟨false, 5, 0, regs [(5, 0x2FFD01)], _, by decide, rfl, by decide⟩, ⟨false, 5, 0, regs [(5, 0x2FFCFF)], _, by decide, rfl, by decide, by decide⟩,
    ⟨false, 5, 0, armed_ [(5, 0)], _, by decide, rfl, by decide, by decide, by decide⟩,
    ⟨true, 7, 5, 1, regs [(5, 0x2FFD00)], _, by decide, rfl, by decide, by decide, by decide, by decide, by decide, by decide, by decide, by decide,
      by decide⟩,
    ⟨true, 7, 5, 1, unguarded, _, by decide, rfl, by decide, by decide, by decide, by decide, by decide⟩,
    false, 9, 2, 3, regs [(3, 0x2FFFFC)], _, _, _, _, by decide, by decide, by decide, by decide, by decide, rfl, by decide, rfl, rfl, rfl,
    by decide +kernel, by decide, by decide +kernel, Nat.le_of_ble_eq_true rfl, Nat.le_of_ble_eq_true rfl, Nat.le_of_ble_eq_true rfl⟩

theorem meets_VectorStoresWrite :
    ∃ (p : Perf) (q : Pending) (a : Nat) (v : VWord) (mask : ByteMask) (bad spill : Bool), q.acc = .vstore a v mask bad spill ∧
      p.m.tracks q.core q.ctx = false ∧ (p.m.cl (clusOf q.core)).firstDown a 768 = none ∧ (p.m.cl (clusOf q.core)).spad.wf = true :=
  ⟨performing, access_ (.vstore 0x2FFD00 5 fullMask false false), _, _, _, _, _, rfl, by decide, by decide, by decide⟩

theorem meets_WritesKeepCanonicalForm : ∃ p : Perf, ∀ k : Nat, (p.m.cl k).spad.wf = true := ⟨performing, fun _ => rfl⟩

/-- Core 0 with an entry in its active pattern table, in its routine table, or in its copy sequencer table. -/
def tabled (f : Plane → Plane) : State := at_ 0 fun m => m.modCore 0 fun c => { c with plane0 := f c.plane0 }

theorem meets_BobbinControl :
    (∃ (i : BitVec 14) (s : State), 256 = (s.imm i).toNat) ∧
    (∃ (i : BitVec 14) (s : State) (g : Binding), (s.imm i).toNat = 255 ∧ g = bindingOf (rd (s.myCore.planeOf 2).btab (s.imm i).toNat) ∧
      bindingReserved (rd (s.myCore.planeOf 2).btab (s.imm i).toNat) = false ∧ g.kind = 2 ∧ (∀ c ∈ g.cnt, c ≠ 0) ∧ g.base % 256 = 0 ∧
      g.base ≤ 0x2FFD00 ∧ (∀ t ∈ g.str, t % 256 = 0) ∧ (s.bobbin 7).bound = none ∧ fits s) ∧
    (∃ (i : BitVec 14) (s : State) (g : Binding), (s.imm i).toNat = 0 ∧ g = bindingOf (rd (s.myCore.planeOf 2).btab (s.imm i).toNat) ∧
      bindingReserved (rd (s.myCore.planeOf 2).btab (s.imm i).toNat) = false ∧ g.kind = 6 ∧ g.gus / 16 = dieOf s.n ∧
      (s.view.gusset g.gus).prodR = s.myRegion ∧ s.muted = false ∧ s.view.takenB s.n 7 g = false ∧ s.next.takenB s.n 7 g = false ∧
      (s.bobbin 7).bound = none ∧ fits s) ∧
    (∃ (i : BitVec 14) (s : State) (g : Binding), (s.imm i).toNat = 0 ∧ g = bindingOf (rd (s.myCore.planeOf 2).btab (s.imm i).toNat) ∧
      bindingReserved (rd (s.myCore.planeOf 2).btab (s.imm i).toNat) = false ∧ g.kind = 4 ∧ g.src ≠ (s.view.region s.myRegion).src) ∧
    (∃ (i : BitVec 14) (s : State) (g : Binding), (s.imm i).toNat ≤ 255 ∧ g = bindingOf (rd (s.myCore.planeOf 2).btab (s.imm i).toNat) ∧ g.kind = 0) ∧
    (∃ s : State, s.me.guard = false ∧ fits s) ∧
    (∃ (s : State) (g : Binding), s.me.guard = true ∧ fits s ∧ (s.bobbin 0).bound = some g ∧ readable s 31 = true ∧ g.kind = 2 ∧
      g.strict = true ∧ (s.bobbin 0).pos + 1 = g.len ∧ ∀ (d : SReg) (w : Word), fits (s.putS d w 2)) ∧
    (∃ (s : State) (g : Binding), fits s ∧ (s.bobbin 0).bound = some g ∧ g.kind = 1 ∧ g.len = (s.bobbin 0).pos) ∧
    (∃ (s : State) (g : Binding), fits s ∧ (s.bobbin 0).bound = some g ∧ g.kind = 5 ∧ s.muted = false) ∧
    (∃ s : State, fits s ∧ (s.bobbin 7).bound = none ∧ readable s 31 = true) ∧
    ∃ (d : SReg) (s : State), fits ((s.putS d (if s.me.gst then 1 else 0) 2).modMe fun c => { c with gstClr := c.gstClr ++ [s.age + 2] }) :=
  ⟨⟨256, here id, by decide⟩,
    ⟨255, tabled fun p => { p with btab := wr p.btab 255 (BitVec.ofNat 256
      (2 * 2 ^ 4 + 0x2FFD00 * 2 ^ 20 + 2 ^ 88 + 2 ^ 128 + 2 ^ 168 + 0xFFFF * 2 ^ 208)) }, _, by decide, rfl, by decide, by decide, by decide,
      by decide, by decide, by decide, by decide, by decide⟩,
    ⟨0, tabled fun p => { p with btab := wr p.btab 0 (BitVec.ofNat 256 (6 * 2 ^ 4 + 15 * 2 ^ 14)) }, _, by decide, rfl, by decide, by decide, by decide,
      by decide, by decide, by decide, by decide, by decide, by decide⟩,
    ⟨0, tabled fun p => { p with btab := wr p.btab 0 (BitVec.ofNat 256 (4 * 2 ^ 4 + 2 ^ 10)) }, _, by decide, rfl, by decide, by decide, by decide⟩,
    ⟨9, here id, _, by decide, rfl, by decide⟩,
    ⟨unguarded, by decide, by decide⟩,
    ⟨bound (stream 2 0 true) 0 0, _, by decide, by decide, rfl, by decide, by decide, by decide, by decide, fun d w => by
      unfold State.putS; split <;> exact Nat.le_of_ble_eq_true rfl⟩,
    ⟨bound (stream 1 0 true) 1 0, _, by decide, rfl, by decide, by decide⟩, ⟨bound (stream 5 0 true) 1 0, _, by decide, rfl, by decide, by decide⟩,
    ⟨here id, by decide, by decide, by decide⟩, 5, here id, by decide⟩

/-- Core 0 with its matrix unit changed. -/
def matrix (f : Matrix → Matrix) : State := at_ 0 fun m => m.modCore 0 fun c => { c with mx := f c.mx }

/-- Core 0 with shape t1 set, and the same in its unit's copy. -/
def shaped (w : Word) : State := at_ 0 fun m => m.modCore 0 fun c =>
  { c with shapes := wr c.shapes 1 w, mx := { c.mx with shapes := wr c.mx.shapes 1 w } }

/-- Core 0 with shape t1 of one row of one FP32 element, and with bobbin b0 bound to a scratchpad stream. -/
def streamed (kind : Nat) : State := at_ 0 fun m => m.modCore 0 fun c =>
  { c with shapes := wr c.shapes 1 (BitVec.ofNat 64 (2 ^ 36 + 2 ^ 24)), bob := wr c.bob 0 { (rd c.bob 0) with bound := some (stream kind 0 true) } }

theorem meets_MatrixSlots :
    (∃ s : State, s.myCore.mx.state = 1) ∧
    (∃ (i : BitVec 10) (s : State) (e : Nat), e = (rd (s.myCore.planeOf 1).rout i.toNat).toNat ∧ s.myCore.mx.state ≠ 1 ∧ fldB e 16 = false) ∧
    (∃ (i : BitVec 10) (s : State) (e : Nat), e = (rd (s.myCore.planeOf 1).rout i.toNat).toNat ∧ s.myCore.mx.state ≠ 1 ∧ fldB e 16 = true ∧
      fld e 17 3 = 4 ∧ fld e 20 12 = 0 ∧ fld e 13 3 = 0 ∧ pathAdmits (fld e 17 3) (fmtA s.me.fmt) (fmtB s.me.fmt) = false) ∧
    (∃ (i : BitVec 10) (s : State) (e : Nat), e = (rd (s.myCore.planeOf 1).rout i.toNat).toNat ∧ s.myCore.mx.state ≠ 1 ∧ fldB e 16 = true ∧
      fld e 17 3 = 4 ∧ fld e 20 12 = 0 ∧ fld e 13 3 = 0 ∧ pathAdmits (fld e 17 3) (fmtA s.me.fmt) (fmtB s.me.fmt) = true ∧ fits s) ∧
    (∃ s : State, s.myCore.mx.state = 2 ∧ s.myCore.mx.plane = bnat (s.myCore.active.getLsbD 1) ∧ fits s) ∧
    (∃ s : State, s.myCore.mx.state = 2 ∧ s.myCore.mx.plane ≠ bnat (s.myCore.active.getLsbD 1)) ∧ (∃ s : State, s.myCore.mx.state = 0) ∧
    (∃ (a : SReg) (s : State), readable s a = true ∧ shapeOk (s.rs a) = true ∧ fits s) ∧
    (∃ (a : SReg) (s : State), readable s a = true ∧ shapeOk (s.rs a) = false) ∧
    (∃ (q : BitVec 4) (a : VCode) (b : SReg) (s : State), readable s b = true ∧ a.toNat = 119 ∧ vReadable s a = true ∧
      (s.rs b).toNat + 1 = shRows (rd s.myCore.shapes q.toNat) ∧ ∃ r, s.readAll [(1, a)] (s.env false 0 0) = .ok r) ∧
    (∃ (q : BitVec 4) (a : VCode) (b : SReg) (s : State), readable s b = true ∧ a.toNat = 120 ∧
      (s.rs b).toNat + 1 = shRows (rd s.myCore.shapes q.toNat) ∧ ∃ r, s.readAll [(1, a)] (s.env false 0 0) = .ok r) ∧
    (∃ (a : VCode) (b : SReg) (s : State), readable s b = true ∧ a.toNat = 127 ∧ ∃ f, s.readAll [(1, a)] (s.env false 0 0) = .error f) ∧
    (∃ (q : BitVec 4) (a : VCode) (b : SReg) (s : State), readable s b = true ∧ a.toNat = 120 ∧
      (s.rs b).toNat + 1 = shRows (rd s.myCore.shapes q.toNat) ∧ ∃ ds, s.writeV a = .ok ds) ∧
    (∃ (a : VCode) (b : SReg) (s : State), readable s b = true ∧ a.toNat = 127 ∧ ∃ f, s.writeV a = .error f) ∧
    (∃ (q : BitVec 4) (b : SReg) (s : State), readable s b = true ∧ shRows (rd s.myCore.shapes q.toNat) = (s.rs b).toNat) ∧
    (∃ (q : BitVec 4) (s : State), shRows (rd s.myCore.shapes q.toNat) ≠ 0 ∧ fits s) ∧ (∃ sel : BitVec 5, 17 = sel.toNat) ∧
    ∃ (sel : BitVec 5) (d : SReg) (s : State), sel.toNat = 16 ∧ ∀ w : Word, fits (s.putS d w 2) :=
  ⟨⟨matrix fun u => { u with state := 1 }, by decide⟩, ⟨1023, here id, _, rfl, by decide, by decide⟩,
    ⟨1023, at_ 0 fun m => m.modCore 0 fun c =>
      { c with plane0 := { c.plane0 with rout := wr c.plane0.rout 1023 (BitVec.ofNat 32 (8191 + 2 ^ 16 + 4 * 2 ^ 17)) } }, _, rfl, by decide, by decide,
      by decide, by decide, by decide, by decide⟩,
    ⟨1023, at_ 0 fun m => (m.modCtx 0 0 fun c => { c with fmt := BitVec.ofNat 22 (5 * 2 ^ 8 + 8 * 2 ^ 12) }).modCore 0 fun c =>
      { c with plane0 := { c.plane0 with rout := wr c.plane0.rout 1023 (BitVec.ofNat 32 (8191 + 2 ^ 16 + 4 * 2 ^ 17)) } }, _, rfl, by decide, by decide,
      by decide, by decide, by decide, by decide, by decide⟩,
    ⟨matrix fun u => { u with state := 2 }, by decide, by decide, by decide⟩,
    ⟨matrix fun u => { u with state := 2, plane := 1 }, by decide, by decide⟩, ⟨here id, by decide⟩,
    ⟨5, regs [(5, BitVec.ofNat 64 (7 * 2 ^ 48 + 96 * 2 ^ 36 + 192 * 2 ^ 24))], by decide, by decide, by decide⟩,
    ⟨5, regs [(5, BitVec.ofNat 64 (7 * 2 ^ 48 + 96 * 2 ^ 36 + 193 * 2 ^ 24))], by decide, by decide⟩,
    ⟨1, 119, 0, streamed 1, by decide, by decide, by decide, by decide, _, rfl⟩, ⟨1, 120, 0, streamed 1, by decide, by decide, by decide, _, rfl⟩,
    ⟨127, 0, streamed 1, by decide, by decide, _, rfl⟩, ⟨1, 120, 0, streamed 2, by decide, by decide, by decide, _, rfl⟩,
    ⟨127, 0, streamed 2, by decide, by decide, _, rfl⟩, ⟨0, 0, here id, by decide, by decide⟩,
    ⟨1, shaped (BitVec.ofNat 64 (2 ^ 36)), by decide, by decide⟩, ⟨17, rfl⟩, 16, 5, here id, rfl, fun _ => Nat.le_of_ble_eq_true rfl⟩

/-- Core 0 on a path, in a format, with shapes t0, t1 and t2. -/
def product (path : Nat) (f : Nat) (a b c : Nat) : State := matrix fun u =>
  { u with state := 1, path := path, vws := 120, fmt := BitVec.ofNat 22 f,
           shapes := wr (wr (wr u.shapes 0 (BitVec.ofNat 64 a)) 1 (BitVec.ofNat 64 b)) 2 (BitVec.ofNat 64 c) }

theorem meets_MicrowordsBegin :
    (∃ (s : State) (begins : Instr → Nat → Nat → (Matrix → Matrix) → State), ∀ i x takes f, begins i x takes f = s.mod fun m =>
      m.modMx s.n fun u => f { u with op := some i, x := x, began := s.age, takes := takes, nextAt := s.age + takes }) ∧
    (∃ (s : State) (x : Nat), x = s.opX 0 0 1 ∧ s.mx.path = 1 ∧ x < 2 ^ 24 ∧
      productShapes x s.mx.fmt s.mx.path (s.mxShape 0) (s.mxShape 1) (s.mxShape 2) none false = true) ∧
    (∃ (s : State) (x : Nat), x = s.opX 0 0 (1 + 3 * 2 ^ 24) ∧ s.mx.path = 1 ∧ x < 2 ^ 28 ∧
      productShapes x s.mx.fmt s.mx.path (s.mxShape 0) (s.mxShape 1) (s.mxShape 2) (some (s.mxShape (fldV x 24 4))) false = true) ∧
    (∃ (s : State) (x : Nat), x = s.opX 0 0 1 ∧ s.mx.path = 3 ∧ x < 2 ^ 24 ∧
      productShapes x s.mx.fmt 3 (s.mxShape 0) (s.mxShape 1) (s.mxShape 2) none true = true) ∧ (∃ s : State, s.mx.path ∈ [0, 3]) ∧
    (∃ (s : State) (x : Nat), x = s.opX 0 0 (119 + 2 ^ 20) ∧ x < 2 ^ 29 ∧ fldB x 7 = false ∧ fld x 20 8 ≠ 0 ∧
      fld x 0 7 + fld x 20 8 = min 120 s.mx.vws ∧ fld x 8 12 + fld x 20 8 ≤ shRows (s.mxShape 2)) ∧
    (∃ s : State, shRows (s.mxShape 2) ≠ 0) ∧ (∃ s : State, shRows (s.mxShape 2) = 0) ∧
    (∃ s : State, shRows (s.mxShape 0) ≠ 0 ∧ shFmt (s.mxShape 0) = shFmt (s.mxShape 2) ∧ shFmt (s.mxShape 0) ≠ 9 ∧
      shRows (s.mxShape 2) = shCols (s.mxShape 0) ∧ shCols (s.mxShape 2) = shRows (s.mxShape 0)) ∧
    ∃ s : State, shRows (s.mxShape 2) ≠ 0 ∧ shFmt (s.mxShape 2) ∈ [0, 7] ∧ shFmt (s.mxShape 0) = shFmt (s.mxShape 2) ∧
      shFmt (s.mxShape 1) = shFmt (s.mxShape 2) ∧ shRows (s.mxShape 0) = shRows (s.mxShape 2) ∧ shRows (s.mxShape 1) = shRows (s.mxShape 2) ∧
      shCols (s.mxShape 0) = shCols (s.mxShape 2) ∧ shCols (s.mxShape 1) = shCols (s.mxShape 2) :=
  ⟨⟨here id, _, fun _ _ _ _ => rfl⟩,
    ⟨product 1 (3 * 2 ^ 8 + 3 * 2 ^ 12) (3 * 2 ^ 48 + 96 * 2 ^ 36 + 24 * 2 ^ 24) (3 * 2 ^ 48 + 96 * 2 ^ 36 + 24 * 2 ^ 24)
      (96 * 2 ^ 36 + 96 * 2 ^ 24), _, rfl, by decide, by decide, by decide⟩,
    ⟨matrix fun u => { u with
      path := 1
      fmt := BitVec.ofNat 22 (3 * 2 ^ 8 + 3 * 2 ^ 12)
      shapes := wr (wr (wr (wr u.shapes 0 (BitVec.ofNat 64 (3 * 2 ^ 48 + 96 * 2 ^ 36 + 24 * 2 ^ 24))) 1
        (BitVec.ofNat 64 (3 * 2 ^ 48 + 96 * 2 ^ 36 + 48 * 2 ^ 24))) 2 (BitVec.ofNat 64 (96 * 2 ^ 36 + 96 * 2 ^ 24))) 3
        (BitVec.ofNat 64 (8 * 2 ^ 48 + 96 * 2 ^ 36 + 48 * 2 ^ 24)) }, _, rfl, by decide, by decide, by decide⟩,
    ⟨product 3 (9 * 2 ^ 8 + 2 ^ 12) (9 * 2 ^ 48 + 96 * 2 ^ 36 + 24 * 2 ^ 24) (2 ^ 48 + 96 * 2 ^ 36 + 24 * 2 ^ 24)
      (96 * 2 ^ 36 + 96 * 2 ^ 24), _, rfl, by decide, by decide, by decide⟩, ⟨product 3 0 0 0 0, by decide⟩,
    ⟨product 0 0 0 0 (2 ^ 36 + 2 ^ 24), _, rfl, by decide, by decide, by decide, by decide, by decide⟩,
    ⟨product 0 0 0 0 (2 ^ 36 + 2 ^ 24), by decide⟩, ⟨here id, by decide⟩,
    ⟨product 0 0 (96 * 2 ^ 36 + 24 * 2 ^ 24) 0 (24 * 2 ^ 36 + 96 * 2 ^ 24), by decide, by decide, by decide, by decide, by decide⟩,
    product 0 0 (2 ^ 36 + 2 ^ 24) (2 ^ 36 + 2 ^ 24) (2 ^ 36 + 2 ^ 24), by decide, by decide, by decide, by decide, by decide, by decide, by decide,
    by decide⟩

theorem meets_CopyPatterns : ∃ (ls : List Level) (k : Nat), (∀ l ∈ ls, l.cnt ≠ 0) ∧ k + 1 = (offsets ls).length :=
  ⟨[{ cnt := 3, src := 32, dst := -64 }, { cnt := 2, src := 0, dst := 5 }], 5, by decide, by decide⟩

/-- Core 0 with scalar registers, a task with footprints over all of the low gigabyte, copy work of its engine 0 changed, and an entry of
its copy sequencer table. -/
def copying_ (l : List (Nat × Word)) (f : Engine → Engine) (e : Nat) : State := at_ 0 fun m =>
  (m.modCtx 0 0 fun c => { c with
    s := l.foldl (fun m (r, v) => wr m r { val := v, poison := false }) c.s
    task := some { (default : Task) with fps := [{ j := 0, write := true, base := 0, len := 2 ^ 30 }, { j := 1, write := false, base := 0, len := 2 ^ 30 }] } }).modCore 0
      fun c => { c with eng := wr c.eng 0 (f (rd c.eng 0)), plane0 := { c.plane0 with ctab := wr c.plane0.ctab 255 (BitVec.ofNat 1024 e) } }

/-- A sound entry: one iteration of 32 bytes within the scratchpad. -/
def entry1 : Nat := (List.range 6).foldl (fun n j => n + 2 ^ (96 * j + 80)) (2 ^ 735 + 32 * 2 ^ 704 + 2 ^ 60 * 2 ^ 576 + (2 ^ 60 + 32) * 2 ^ 640)

/-- A bundle of one cpy, whose slot is under way. -/
def withCopy (s : State) : State :=
  { s with view := s.view.modCore 0 fun c => { c with plane0 := { c.plane0 with imem := wr c.plane0.imem 0 0xC8000011 } } }

theorem ok_fits (r : Except Exc State) (h : (match r with
    | .ok t => decide (t.flying ≤ 96)
    | .error _ => false) = true) : ∃ t, r = .ok t ∧ fits t := by
  cases r with
  | error => cases h
  | ok t => exact ⟨t, rfl, by simpa using h⟩

theorem ok_unit (r : Except Exc Unit) (h : (match r with
    | .ok _ => true
    | .error _ => false) = true) : r = .ok () := by
  cases r with
  | error => cases h
  | ok => rfl

theorem meets_CopySlotsIssued :
    (∃ (i : BitVec 14) (s : State), (s.imm i).toNat = 255 ∧ entryBad (rd (s.myCore.planeOf 3).ctab (s.imm i).toNat).toNat = true) ∧
    (∃ (i : BitVec 14) (s : State) (e n : Nat) (its : List (Word × Word)) (q : CopyReq), (s.imm i).toNat = 255 ∧
      e = (rd (s.myCore.planeOf 3).ctab (s.imm i).toNat).toNat ∧ n = fld e 704 17 ∧
      its = (offsets (levels e)).map (fun (x, y) => (addAddr (addAddr (fldV e 576 64) s.engine.csrc.toNat) x,
        addAddr (addAddr (fldV e 640 64) s.engine.cdst.toNat) y)) ∧ entryBad e = false ∧
      q = { stg := fld e 736 8, gather := false, chkSrc := true, chkDst := true, wait := 0
            odd := decide (n % 32 ≠ 0) || (levels e).any fun l => decide (fldB e 741 = false ∧ l.src % 32 ≠ 0 ∨ l.dst % 32 ≠ 0) } ∧
      s.chkCopy q its n = .ok () ∧ ∃ t : State,
      s.startCopy q (its.map fun (x, y) => s.mkIter (fld e 736 8) x y n) { (default : Copy) with kind := .plain } = .ok t ∧ fits t) ∧
    (∃ (i : BitVec 14) (s : State), 256 = (s.imm i).toNat) ∧
    (∃ (d a b : SReg) (s : State) (v n : Nat) (q : CopyReq), (∀ r ∈ [a, b, d], readable s r = true) ∧ v = (s.rs b).toNat ∧ n = fld v 0 17 ∧
      fld v 17 7 = 0 ∧ fld v 32 32 = 0 ∧ 1 ≤ n ∧ n = 65536 ∧ q = { stg := fld v 24 8, gather := false, chkSrc := true, chkDst := true, wait := 0, odd := false } ∧
      s.chkCopy q [(s.rs a, s.rs d)] n = .ok () ∧ ∃ t : State,
      s.startCopy q [s.mkIter (fld v 24 8) (s.rs a) (s.rs d) n] { (default : Copy) with kind := .plain } = .ok t ∧ fits t) ∧
    (∃ (d : SReg) (i : BitVec 14) (s : State), readable s d = true ∧ 5 = (s.imm i).toNat) ∧
    (∃ (d : SReg) (i : BitVec 14) (s : State), readable s d = true ∧ (s.imm i).toNat = 4 ∧ fits s) ∧
    (∃ (a b : SReg) (s : State), readable s a = true ∧ readable s b = true ∧ (s.rs a).toNat < 2 ^ 22 ∧ 1 = (s.rs b).toNat ∧
      (s.rs a).toNat + (s.rs b).toNat = 0x300000 ∧ fits s ∧ ¬ copiesToArm s) ∧
    (∃ (a b : SReg) (s : State), readable s a = true ∧ readable s b = true ∧ (s.rs a).toNat < 2 ^ 22 ∧ 1 ≤ (s.rs b).toNat ∧
      (s.rs a).toNat + (s.rs b).toNat ≤ 0x300000 ∧ fits s ∧ copiesToArm s ∧ s.me.armed.length < 8) ∧
    (∃ (a b : SReg) (s : State), readable s a = true ∧ readable s b = true ∧ (s.rs a).toNat < 2 ^ 22 ∧ 1 ≤ (s.rs b).toNat ∧
      (s.rs a).toNat + (s.rs b).toNat ≤ 0x300000 ∧ fits s ∧ copiesToArm s ∧ 8 = s.me.armed.length) ∧
    (∃ (a : SReg) (s : State) (ad bit : Nat), readable s a = true ∧ s.chkBit (s.rs a) true = .ok (ad, bit) ∧ s.engine.copies.length = 7 ∧ fits s) ∧
    ∃ (d a b : SReg) (s : State) (n ba bit : Nat), (∀ r ∈ [a, b, d], readable s r = true) ∧ n = s.engine.stlen.toNat ∧ s.myRegion = 0 ∧
      spaceOf (s.rs a) ∈ [0, 4, 5] ∧ spaceOf (s.rs d) ∈ [0, 4, 5] ∧ spaceOf (s.rs a) ≠ spaceOf (s.rs d) ∧ strayBits (s.rs a) = false ∧
      strayBits (s.rs d) = false ∧ n ≠ 0 ∧ n % 4096 = 0 ∧ (s.rs a).toNat % 4096 = 0 ∧ (s.rs d).toNat % 4096 = 0 ∧
      (spaceOf (s.rs a) = 4 → overLimit (s.rs a) n = false) ∧ (spaceOf (s.rs d) = 4 → overLimit (s.rs d) n = false) ∧
      s.chkFoot false [s.rs a] n = .ok () ∧ s.chkFoot true [s.rs d] n = .ok () ∧ s.chkBit (s.rs b) true = .ok (ba, bit) ∧ fits s ∧
      s.muted = false ∧ (s.next.cl s.clus).stages.length < 64 :=
  ⟨⟨255, copying_ [] id 0, by decide, by decide +kernel⟩,
    ⟨255, copying_ [] id entry1, entry1, 32, [(0x1000000000000000, 0x1000000000000020)],
      { stg := 0, gather := false, chkSrc := true, chkDst := true, wait := 0, odd := false }, by decide, by decide +kernel, by decide +kernel,
      by decide +kernel, by decide +kernel, by decide +kernel, ok_unit _ (by decide +kernel), ok_fits _ (by decide +kernel)⟩,
    ⟨256, here id, by decide⟩,
    ⟨4, 5, 6, copying_ [(4, 0x1000000000000000), (5, 0x1000000000020000), (6, 65536)] id 0, _, _, _, by decide, rfl, rfl, by decide, by decide,
      by decide, by decide, rfl, ok_unit _ (by decide +kernel), ok_fits _ (by decide +kernel)⟩,
    ⟨4, 5, here id, by decide, by decide⟩, ⟨4, 4, here id, by decide, by decide, by decide⟩,
    ⟨4, 5, regs [(4, 0x2FFFFF), (5, 1)], by decide, by decide, by decide, by decide, by decide, by decide, by
      rintro (h | ⟨c, h, -⟩)
      · revert h; decide
      · exact nomatch (show c ∈ ([] : List Copy) from h)⟩,
    ⟨4, 5, withCopy (regs [(5, 1)]), by decide, by decide, by decide, by decide, by decide, by decide, .inl (by decide), by decide⟩,
    ⟨4, 5, withCopy (here fun c => { c with s := wr c.s 5 { val := 1, poison := false }, armed := List.replicate 8 default }), by decide, by decide,
      by decide, by decide, by decide, by decide, .inl (by decide), by decide⟩,
    ⟨4, copying_ [] (fun e => { e with copies := List.replicate 7 default }) 0, 0, 0, by decide, by rfl, by decide, by decide⟩,
    4, 5, 6, copying_ [(5, 0x5000000000000000)] (fun e => { e with stlen := 4096 }) 0, _, 0, 0, by decide, rfl, by decide, by decide, by decide,
    by decide, by decide, by decide, by decide, by decide, by decide, by decide, by decide, by decide, by rfl, by rfl, by rfl, by decide, by decide,
    by decide⟩

theorem meets_CopySlotsIssued_bmchk :
    ∃ (k : KReg) (a : SReg) (s : State) (ad bit : Nat) (w : Nat × Nat × List Nat), readable s a = true ∧
      s.chkBit (s.rs a) false = .ok (ad, bit) ∧ w = pathOf s.n (s.view.endOf s.n s.uid s.job (BitVec.ofNat 64 ad) 1) (.spad s.clus) ∧ ∃ t : State,
      s.startCopy { stg := 0, gather := false, chkSrc := true, chkDst := true, wait := 0, odd := false }
        [{ src := BitVec.ofNat 64 ad, dst := 0, len := 1, base := 240, width := w.2.1, wheels := w.2.2, d := 0, lead := 238, out := 0, beats := 1,
           claimed := false, got := [] }] { (default : Copy) with kind := .bmchk k.toNat true bit } = .ok t ∧ fits t :=
  ⟨2, 7, copying_ [(7, 0x0C00000000000005)] id 0, 5, 6, _, by decide, by rfl, rfl, ok_fits _ (by decide +kernel)⟩

/-- A gather of 24 words, or a scatter-add of them in FP32, between the scratchpad and a table in it. -/
def gathering (add : Nat) : State := copying_ [(4, 0x1000000000000000), (5, 0x1000000000001000), (6, 0x1000000000002000)]
  (fun e => { e with cdesc := BitVec.ofNat 64 (24 * 2 ^ 40 + 2 * 2 ^ 32 + add * 2 ^ 57) }) 0

theorem meets_GatherCopiesIssued :
    (∃ (d a b : SReg) (s : State) (w n e : Nat) (table : Word) (q : CopyReq), (∀ r ∈ [a, b, d], readable s r = true) ∧
      w = s.engine.cdesc.toNat ∧ n = fld w 40 16 ∧ e = 2 ^ fld w 32 3 ∧ 1 ≤ n ∧ fld w 32 3 ≤ 3 ∧ fldB w 57 = true ∧ fld w 32 3 = 2 ∧
      fmtV s.me.fmt ∈ [0, 7] ∧ spaceOf (s.rs b) = 1 ∧ strayBits (s.rs b) = false ∧ offOf (s.rs b) + 4 * n ≤ 0x300000 ∧
      offOf (s.rs b) % 4 = 0 ∧ table = s.rs d ∧ s.chkSpace [0, 1, 3] table = .ok () ∧ (spaceOf table = 3 → clusterOf s.n table < 48) ∧
      q = { stg := fld w 24 8 ||| 16, gather := true, chkSrc := true, chkDst := false, wait := 4 + (n + 23) / 24, odd := false } ∧
      s.chkCopy q [(s.rs a, s.rs d)] (n * e) = .ok () ∧
      ∃ (p : Nat × Nat × List Nat) (out : Nat), out = stageOut (fld w 24 8 ||| 16) s.me.fmt (n * e) ∧
        p = pathOf s.n (s.view.endOf s.n s.uid s.job (s.rs a) (n * e)) (s.view.endOf s.n s.uid s.job table 1) ∧ ∃ t : State,
        s.startCopy q [{ src := s.rs a, dst := s.rs d, len := n * e, base := p.1, width := p.2.1
                         wheels := match s.view.endOf s.n s.uid s.job table 1 with
                           | .dev cs => cs
                           | .spad _ | .tile => p.2.2
                         d := 0
                         lead := p.1 + stageLat (fld w 24 8 ||| 16) - 2, out := out, beats := (max (n * e) out + p.2.1 - 1) / p.2.1, claimed := false, got := [] }]
          { (default : Copy) with
            kind := .scat
            lim := s.tableLim true table
            list := offOf (s.rs b)
            nidx := n
            esz := fld w 32 3
            strict := fldB w 56
            add := true && fldB w 57
            fill := s.engine.cfill } = .ok t ∧ fits t) ∧
    ∃ (d a b : SReg) (s : State) (w n e : Nat) (table : Word) (q : CopyReq), (∀ r ∈ [a, b, d], readable s r = true) ∧
      w = s.engine.cdesc.toNat ∧ n = fld w 40 16 ∧ e = 2 ^ fld w 32 3 ∧ 1 ≤ n ∧ fld w 32 3 ≤ 3 ∧ spaceOf (s.rs b) = 1 ∧
      strayBits (s.rs b) = false ∧ offOf (s.rs b) + 4 * n ≤ 0x300000 ∧ offOf (s.rs b) % 4 = 0 ∧ table = s.rs a ∧
      s.chkSpace [0, 1, 3] table = .ok () ∧ (spaceOf table = 3 → clusterOf s.n table < 48) ∧
      q = { stg := fld w 24 8 ||| 16, gather := true, chkSrc := false, chkDst := true, wait := 4 + (n + 23) / 24, odd := false } ∧
      s.chkCopy q [(s.rs a, s.rs d)] (n * e) = .ok () ∧
      ∃ (p : Nat × Nat × List Nat) (out : Nat), out = stageOut (fld w 24 8 ||| 16) s.me.fmt (n * e) ∧
        p = pathOf s.n (s.view.endOf s.n s.uid s.job table 1) (s.view.endOf s.n s.uid s.job (s.rs d) out) ∧ ∃ t : State,
        s.startCopy q [{ src := s.rs a, dst := s.rs d, len := n * e, base := p.1, width := p.2.1
                         wheels := match s.view.endOf s.n s.uid s.job table 1 with
                           | .dev cs => cs
                           | .spad _ | .tile => p.2.2
                         d := 0
                         lead := p.1 + stageLat (fld w 24 8 ||| 16) - 2, out := out, beats := (max (n * e) out + p.2.1 - 1) / p.2.1, claimed := false, got := [] }]
          { (default : Copy) with
            kind := .gath
            lim := s.tableLim false table
            list := offOf (s.rs b)
            nidx := n
            esz := fld w 32 3
            strict := fldB w 56
            add := false && fldB w 57
            fill := s.engine.cfill } = .ok t ∧ fits t :=
  ⟨⟨4, 5, 6, gathering 1, _, _, _, _, _, by decide, rfl, rfl, rfl, by decide, by decide, by decide, by decide, by decide, by decide, by decide,
      by decide, by decide, rfl, ok_unit _ (by decide +kernel), by decide +kernel, rfl, ok_unit _ (by decide +kernel), _, _, rfl, rfl, ok_fits _ (by decide +kernel)⟩,
    4, 5, 6, gathering 0, _, _, _, _, _, by decide, rfl, rfl, rfl, by decide, by decide, by decide, by decide, by decide, by decide, rfl,
    ok_unit _ (by decide +kernel), by decide +kernel, rfl, ok_unit _ (by decide +kernel), _, _, rfl, rfl, ok_fits _ (by decide +kernel)⟩

theorem meets_LocalCopies :
    (∃ (d a b : SReg) (s : State) (n : Nat), (∀ r ∈ [a, b, d], readable s r = true) ∧ s.rs b = BitVec.ofNat 64 n ∧ 1 ≤ n ∧ n = 65536 ∧ n % 32 = 0 ∧
      (s.rs a).toNat / 2 ^ 60 = 1 ∧ (s.rs d).toNat / 2 ^ 60 = 1 ∧ (s.rs a).toNat % 2 ^ 60 + n = 0x300000 ∧
      (s.rs d).toNat % 2 ^ 60 + n ≤ 0x300000 ∧ (s.rs a).toNat % 32 = 0 ∧ (s.rs d).toNat % 32 = 0 ∧ s.next.follows s.n = false ∧ fits s ∧
      s.engine.copies.length = 7) ∧
    ∃ (d a b : SReg) (s : State) (n : Nat), (∀ r ∈ [a, b, d], readable s r = true) ∧ s.rs b = BitVec.ofNat 64 n ∧ 1 ≤ n ∧ n = 32 ∧ n % 32 = 0 ∧
      (s.rs a).toNat / 2 ^ 60 = 1 ∧ (s.rs d).toNat / 2 ^ 60 = 1 ∧ (s.rs a).toNat % 2 ^ 60 + n ≤ 0x300000 ∧
      (s.rs d).toNat % 2 ^ 60 + n ≤ 0x300000 ∧ (s.rs a).toNat % 32 = 0 ∧ (s.rs d).toNat % 32 = 0 ∧ s.next.follows s.n = false ∧ fits s ∧
      8 = s.engine.copies.length :=
  ⟨⟨4, 5, 6, copying_ [(4, 0x1000000000000000), (5, 0x10000000002F0000), (6, 65536)] (fun e => { e with copies := List.replicate 7 default }) 0, 65536,
      by decide, by decide, by decide, by decide, by decide, by decide, by decide, by decide, by decide, by decide, by decide, by decide, by decide,
      by decide⟩,
    4, 5, 6, copying_ [(4, 0x1000000000000000), (5, 0x1000000000000020), (6, 32)] (fun e => { e with copies := List.replicate 8 default }) 0, 32,
    by decide, by decide, by decide, by decide, by decide, by decide, by decide, by decide, by decide, by decide, by decide, by decide, by decide,
    by decide⟩

/-- Cluster 0 with group 5 bound, its one member core 1 of package 0, and a message of class 2 waiting. -/
def grouped (l : List (Nat × Word)) (bound draining : Bool) (queue : List Delivered) : State := at_ 0 fun m =>
  (m.modCtx 0 0 fun c => { c with s := l.foldl (fun m (r, v) => wr m r { val := v, poison := false }) c.s }).modCl 0 fun c =>
    { c with
      groups := if bound then [{ (default : Group) with id := 5, members := [(0, 1)], usable := 0, draining := draining }] else []
      queues := wr c.queues 2 queue }

theorem meets_MessageSlots :
    (∃ (a : VCode) (b : SReg) (s : State), a.toNat = 119 ∧ vReadable s a = true ∧ readable s b = true ∧ (s.rs b).toNat = 95 ∧
      dieOf (s.rs b).toNat = dieOf s.n ∧ (s.view.region s.myRegion).mask.getLsbD (clusOf (s.rs b).toNat) = true) ∧
    (∃ (b : SReg) (s : State), readable s b = true ∧ 512 = (s.rs b).toNat) ∧
    (∃ (b : SReg) (s : State), readable s b = true ∧ (s.rs b).toNat = 511 ∧ 384 ≤ (s.rs b).toNat) ∧
    (∃ (d : VCode) (s : State), d.toNat = 119 ∧ s.next.follows s.n = false ∧ s.next.isLead s.n = false ∧ s.flying = 95) ∧
    (∃ (d : SReg) (i : BitVec 14) (s : State) (pend : Nat), readable s d = true ∧ (s.rs d).toNat = 7 ∧ (s.imm i).toNat = 1023 ∧ s.muted = false ∧
      pend = rd (s.next.cl s.clus).cpend (s.rs d).toNat + (((s.next.cl s.clus).posts.filter fun p =>
        p.cls == (s.rs d).toNat && decide (s.age < p.due)).map ExpPost.count).sum ∧ pend + (s.imm i).toNat = 1023 ∧ fits s) ∧
    (∃ (d : SReg) (i : BitVec 14) (s : State) (pend : Nat), readable s d = true ∧ (s.rs d).toNat < 8 ∧ (s.imm i).toNat ≤ 1023 ∧ s.muted = false ∧
      pend = rd (s.next.cl s.clus).cpend (s.rs d).toNat + (((s.next.cl s.clus).posts.filter fun p =>
        p.cls == (s.rs d).toNat && decide (s.age < p.due)).map ExpPost.count).sum ∧ 1024 = pend + (s.imm i).toNat) ∧
    (∃ (a b : SReg) (s : State) (v n : Nat), readable s a = true ∧ readable s b = true ∧ s.myRegion = 0 ∧ s.muted = false ∧ v = (s.rs a).toNat ∧
      n = fld v 20 8 ∧ fld v 18 2 = 0 ∧ fld v 28 36 = 0 ∧ 1 ≤ n ∧ n = 64 ∧ (s.rs b).toNat % 8 = 0 ∧ (s.rs b).toNat + 4 * n = 0x300000 ∧
      (∀ e ∈ s.myCl.spad.members (s.rs b).toNat n, memberBad e = false) ∧ (s.next.cl s.clus).groups.length < 64 ∧
      (s.next.cl s.clus).group (fldV v 0 12) = none ∧ fits s) ∧
    (∃ (a b : SReg) (s : State) (v n : Nat) (g : Group), readable s a = true ∧ readable s b = true ∧ s.myRegion = 0 ∧ s.muted = false ∧
      v = (s.rs a).toNat ∧ n = fld v 20 8 ∧ fld v 18 2 = 0 ∧ fld v 28 36 = 0 ∧ n = 1 ∧ (s.rs b).toNat % 8 = 0 ∧
      (s.rs b).toNat + 4 * n ≤ 0x300000 ∧ (∀ e ∈ s.myCl.spad.members (s.rs b).toNat n, memberBad e = false) ∧
      (s.next.cl s.clus).groups.length < 64 ∧ (s.next.cl s.clus).group (fldV v 0 12) = some g) ∧
    (∃ (a : SReg) (s : State) (f : Group → Group), readable s a = true ∧ s.muted = false ∧ fits s ∧
      ∀ x : Group, f x = if x.id = fldV (s.rs a).toNat 0 12 ∧ x.draining = false
        then { x with draining := true, last := max x.last (s.view.region 0).count } else x) ∧
    (∃ (a b : SReg) (s : State) (w n : Nat) (g : Group), readable s a = true ∧ readable s b = true ∧ s.myRegion = 0 ∧ w = (s.rs b).toNat ∧
      s.myCl.group (fldV w 0 12) = some g ∧ g.draining = false ∧ g.usable = s.age ∧ n = fld (s.rs a).toNat 32 13 ∧ 1 ≤ n ∧ n = 4096 ∧
      fld w 33 24 ≠ 0 ∧ fld (s.rs a).toNat 0 22 + n = 0x300000 ∧ fld (s.rs a).toNat 0 22 % 32 = 0 ∧ (fld w 12 12, fld w 24 9) ∈ g.members) ∧
    (∃ (a b : SReg) (s : State) (w n : Nat) (g : Group), readable s a = true ∧ readable s b = true ∧ s.myRegion = 0 ∧ w = (s.rs b).toNat ∧
      s.myCl.group (fldV w 0 12) = some g ∧ g.draining = false ∧ g.usable ≤ s.age ∧ n = fld w 12 12 ∧ fld w 48 16 = 0 ∧ (s.rs a).toNat < 2 ^ 22 ∧
      1 = n ∧ 4 + 3 * n + 1 = fld w 24 24 ∧ (s.rs a).toNat + 768 * n ≤ 0x300000 ∧ (s.rs a).toNat % 256 = 0) ∧
    (∃ (a b d : SReg) (s : State), readable s a = true ∧ readable s b = true ∧ (s.rs b).toNat = 7 ∧ (s.rs a).toNat < 2 ^ 22 ∧
      (s.rs a).toNat % 32 = 0 ∧ s.next.follows s.n = false ∧ s.next.isLead s.n = false ∧ s.muted = false ∧
      rd (s.next.cl s.clus).queues (s.rs b).toNat = [] ∧ fits (s.putS d (BitVec.ofNat 64 (2 ^ 63)) 4)) ∧
    (∃ (a b : SReg) (s : State) (m : Delivered) (ms : List Delivered), readable s a = true ∧ readable s b = true ∧ (s.rs b).toNat < 8 ∧
      (s.rs a).toNat < 2 ^ 22 ∧ (s.rs a).toNat % 32 = 0 ∧ s.next.follows s.n = false ∧ s.next.isLead s.n = false ∧ s.muted = false ∧
      rd (s.next.cl s.clus).queues (s.rs b).toNat = m :: ms ∧ (s.rs a).toNat + m.data.length = 0x300000) ∧
    (∃ q : BitVec 5, 13 = q.toNat) ∧ (∃ (d : SReg) (q : BitVec 5) (s : State), q.toNat = 12 ∧ ∀ w : Word, fits (s.putS d w 2)) ∧
    (∃ (a : SReg) (s : State), readable s a = true ∧ 0x300001 = (s.rs a).toNat + 64) ∧
    (∃ (a : SReg) (s : State), readable s a = true ∧ (s.rs a).toNat + 64 ≤ 0x300000 ∧ (s.rs a).toNat % 64 ≠ 0) ∧
    ∃ (k : KReg) (a : SReg) (s : State), readable s a = true ∧ (s.rs a).toNat + 64 = 0x300000 ∧ (s.rs a).toNat % 64 = 0 ∧
      fits (s.access 2 (.post (s.rs a).toNat k.toNat 10)) :=
  ⟨⟨119, 3, regs [(3, 95)], by decide, by decide, by decide, by decide, by decide, by decide⟩, ⟨3, regs [(3, 512)], by decide, by decide⟩,
    ⟨3, regs [(3, 511)], by decide, by decide, by decide⟩, ⟨119, laden 95, by decide, by decide, by decide, by decide⟩,
    ⟨6, 1023, regs [(6, 7)], _, by decide, by decide, by decide, by decide, rfl, by decide, by decide⟩,
    ⟨6, 1023, at_ 0 fun m => m.modCl 0 fun c => { c with cpend := wr c.cpend 0 1 }, _, by decide, by decide, by decide, by decide, rfl, by decide⟩,
    ⟨4, 5, regs [(4, 5 + 64 * 2 ^ 20), (5, 0x2FFF00)], _, _, by decide, by decide, by decide, by decide, rfl, rfl, by decide, by decide, by decide,
      by decide, by decide, by decide, by decide +kernel, by decide, by decide, by decide⟩,
    ⟨4, 5, grouped [(4, 5 + 2 ^ 20)] true false [], _, _, _, by decide, by decide, by decide, by decide, rfl, rfl, by decide, by decide, by decide,
      by decide, by decide, by decide +kernel, by decide, rfl⟩,
    ⟨4, grouped [(4, 5)] true false [], fun x => if x.id = 5 ∧ x.draining = false
      then { x with draining := true, last := max x.last 0 } else x, by decide, by decide, by decide, fun _ => rfl⟩,
    ⟨4, 5, grouped [(4, 0x100000000000 + 0x2FF000), (5, 5 + 2 ^ 24 + 2 ^ 33)] true false [], _, _, _, by decide, by decide, by decide, rfl, rfl,
      by decide, by decide, rfl, by decide, by decide, by decide, by decide, by decide, by decide⟩,
    ⟨4, 5, grouped [(5, 5 + 2 ^ 12 + 8 * 2 ^ 24)] true false [], _, _, _, by decide, by decide, by decide, rfl, rfl, by decide, by decide, rfl,
      by decide, by decide, by decide, by decide, by decide, by decide⟩,
    ⟨9, 10, 8, regs [(10, 7)], by decide, by decide, by decide, by decide, by decide, by decide, by decide, by decide, by decide, by decide⟩,
    ⟨9, 10, grouped [(9, 0x2FFFE0), (10, 2)] false false [{ (default : Delivered) with data := List.replicate 32 7 }], _, _, by decide, by decide,
      by decide, by decide, by decide, by decide, by decide, by decide, rfl, by decide⟩,
    ⟨13, rfl⟩, ⟨7, 12, here id, rfl, fun _ => Nat.le_of_ble_eq_true rfl⟩, ⟨4, regs [(4, 0x2FFFC1)], by decide, by decide⟩,
    ⟨4, regs [(4, 32)], by decide, by decide, by decide⟩, 1, 4, regs [(4, 0x2FFFC0)], by decide, by decide, by decide, by decide⟩

/-- Core 0 or 1 of a twin pair issues. -/
def twinned (n : Nat) : State := at_ n fun m => (m.modCore 0 fun c => { c with twin := 1 }).modCore 1 fun c => { c with twin := 2 }

/-- The pair of cluster 0 with a value in s3, and its ring in use or not. -/
def ringed (n : Nat) : State := at_ 384 fun m => m.modCl 0 fun c => { c with ringCount := n }

/-- The pair of cluster 0, its region frozen with one record of core 0, context 1. -/
def frozen_ (v : Word) (kind : Nat) (cause : BitVec 8) (rwf : Bool) : State := at_ 384 fun m =>
  ((m.modCtx 384 0 fun c => { c with s := wr c.s 3 { val := v, poison := false } }).modCtx 0 1 fun c => { c with rwf := rwf }).modRegion 0 fun g =>
    { g with frozen := true, recs := [{ (default : FreezeRec) with core := 0, ctx := 1, kind := kind, trapc := cause }] }

theorem meets_ControlRegisters :
    (∃ (i : BitVec 14) (s : State) (w : Word), (s.imm i).toInt = 0x10 ∧ s.next.follows s.n = false ∧ s.next.isLead s.n = false ∧
      s.view.readCtl s.n s.x (s.imm i).toNat = some w ∧ ∀ d : SReg, fits (s.putS d w 2)) ∧
    (∃ (i : BitVec 14) (s : State) (w : Word), (s.imm i).toInt = 0x10 ∧ s.next.follows s.n = false ∧ s.next.isLead s.n = true ∧
      s.view.readCtl s.n s.x (s.imm i).toNat = some w ∧ ∀ d : SReg, fits (s.putS d w 2)) ∧
    (∃ (i : BitVec 14) (s : State) (w : Word), (s.imm i).toInt = 0x10 ∧ s.next.follows s.n = true ∧ s.next.isLead s.n = false ∧
      s.view.readCtl s.n s.x (s.imm i).toNat = some w ∧ ∀ (d : SReg) (v : Word), fits ((s.mod fun m => m.tookRead s.n mfcKey).putS d v 2)) ∧
    (∃ (i : BitVec 14) (s : State), (s.imm i).toInt = 0xFF ∧ s.view.readCtl s.n s.x (s.imm i).toNat = none) ∧
    (∃ (i : BitVec 14) (s : State) (w : Word), (s.imm i).toInt = 0x100 ∧ isControl s.n = true ∧ s.next.follows s.n = false ∧
      s.next.isLead s.n = false ∧ s.view.readCtl s.n s.x (s.imm i).toNat = some w) ∧
    (∃ (n x : Nat) (m : Mach), m.follows n = false ∧ n = 383 ∧ (m.ctx n x).task = none) ∧
    (∃ (a : SReg) (i : BitVec 14) (s : State) (c : Nat), readable s a = true ∧ c ∈ [1, 4, 5, 6, 7, 8] ∧ s.imm i = BitVec.ofNat 64 c ∧
      s.me.refuses c (s.rs a) = false ∧ fits (s.putC c (s.rs a))) ∧
    (∃ (a : SReg) (i : BitVec 14) (s : State) (c : Nat), readable s a = true ∧ c ∈ [1, 4, 5, 6, 7, 8] ∧ s.imm i = BitVec.ofNat 64 c ∧
      s.me.refuses c (s.rs a) = true) ∧
    (∃ (a : SReg) (i : BitVec 14) (s : State) (c : Nat), readable s a = true ∧ isControl s.n = true ∧ fits s ∧ (s.imm i).toInt = c ∧ c = 0x28 ∧
      regionWritable c = true) ∧
    (∃ (a : SReg) (i : BitVec 14) (s : State) (c : Nat), readable s a = true ∧ isControl s.n = true ∧ fits s ∧ (s.imm i).toInt = c ∧ c = 0x111 ∧
      pairWritable s.clus c = true ∧ (s.next.cl s.clus).ringCount = 0) ∧
    (∃ (a : SReg) (i : BitVec 14) (s : State) (c : Nat), readable s a = true ∧ isControl s.n = true ∧ fits s ∧ (s.imm i).toInt = c ∧ c = 0x110 ∧
      pairWritable s.clus c = true ∧ (s.next.cl s.clus).ringCount ≠ 0) ∧
    (∃ (a : SReg) (i : BitVec 14) (s : State) (c : Nat), readable s a = true ∧ isControl s.n = true ∧ fits s ∧ (s.imm i).toInt = c ∧ c = 0x100 ∧
      pairWritable s.clus c = true ∧ fld (s.rs a).toNat 17 5 = 23) ∧
    (∃ (a : SReg) (i : BitVec 14) (s : State) (c : Nat), readable s a = true ∧ isControl s.n = true ∧ fits s ∧ (s.imm i).toInt = c ∧ c = 0x100 ∧
      pairWritable s.clus c = true ∧ fld (s.rs a).toNat 17 5 = 24) ∧
    (∃ (a : SReg) (i : BitVec 14) (s : State) (r : FreezeRec), readable s a = true ∧ isControl s.n = true ∧ fits s ∧ (s.imm i).toInt = 0x104 ∧
      pairWritable s.clus 0x104 = true ∧ s.chkAct (s.rs a) = .ok r) ∧
    (∃ (a : SReg) (i : BitVec 14) (s : State) (f : Exc), readable s a = true ∧ isControl s.n = true ∧ fits s ∧ (s.imm i).toInt = 0x104 ∧
      pairWritable s.clus 0x104 = true ∧ s.chkAct (s.rs a) = .error f) ∧
    (∃ (a : SReg) (i : BitVec 14) (s : State) (c : Nat), readable s a = true ∧ isControl s.n = true ∧ fits s ∧ (s.imm i).toInt = c ∧ c = 0x130 ∧
      pairWritable s.clus c = true ∧ (s.rs a).getLsbD 0 = true) ∧
    ∃ (a : SReg) (i : BitVec 14) (s : State) (c : Nat), readable s a = true ∧ isControl s.n = true ∧ (s.imm i).toInt = c ∧ c = 0x1643 ∧
      regionWritable c = false ∧ pairWritable s.clus c = false :=
  ⟨⟨0x10, here id, 0, by decide, by decide, by decide, by rfl, fun d => by unfold State.putS; split <;> exact Nat.le_of_ble_eq_true rfl⟩,
    ⟨0x10, twinned 0, 0, by decide, by decide, by decide, by rfl, fun d => by unfold State.putS; split <;> exact Nat.le_of_ble_eq_true rfl⟩,
    ⟨0x10, twinned 1, 0, by decide, by decide, by decide, by rfl, fun d v => by unfold State.putS; split <;> exact Nat.le_of_ble_eq_true rfl⟩,
    ⟨0xFF, here id, by decide, by rfl⟩, ⟨0x100, pair_ [], _, by decide, by decide, by decide, by decide, rfl⟩,
    ⟨383, 0, State.reset.next, by decide, rfl, by decide⟩, ⟨5, 6, regs [(5, 7)], 6, by decide, by decide, by decide, by decide, by decide⟩,
    ⟨5, 6, regs [(5, 8)], 6, by decide, by decide, by decide, by decide⟩,
    ⟨5, 0x28, pair_ [], _, by decide, by decide, by decide, by decide, rfl, by decide⟩,
    ⟨5, 0x111, ringed 0, _, by decide, by decide, by decide, by decide, rfl, by decide, by decide⟩,
    ⟨5, 0x110, ringed 1, _, by decide, by decide, by decide, by decide, rfl, by decide, by decide⟩,
    ⟨5, 0x100, pair_ [(5, 23 * 2 ^ 17)], _, by decide, by decide, by decide, by decide, rfl, by decide, by decide⟩,
    ⟨5, 0x100, pair_ [(5, 24 * 2 ^ 17)], _, by decide, by decide, by decide, by decide, rfl, by decide, by decide⟩,
    ⟨3, 0x104, frozen_ 0x0200 1 4 false, _, by decide, by decide, by decide, by decide, by decide, rfl⟩,
    ⟨3, 0x104, pair_ [], _, by decide, by decide, by decide, by decide, by decide, rfl⟩,
    ⟨5, 0x130, pair_ [(5, 1)], _, by decide, by decide, by decide, by decide, rfl, by decide, by decide⟩,
    5, 0x1643, pair_ [], _, by decide, by decide, by decide, rfl, by decide, by decide⟩

theorem meets_PairSlots :
    (∃ s : State, isControl s.n = true ∧ s.flying ≤ 96 ∧ s.myCore.flips.getLsbD 4 = false) ∧
    (∃ (a : SReg) (s : State) (r : FreezeRec), isControl s.n = true ∧ readable s a = true ∧ fits s ∧ s.chkAct (s.rs a) = .ok r ∧
      (s.rs a).toNat < 2 ^ 13 ∧ r.kind = 1 ∧ r.trapc.toNat ≠ cTWIN) ∧
    (∃ (a : SReg) (s : State) (r : FreezeRec), isControl s.n = true ∧ readable s a = true ∧ fits s ∧ s.chkAct (s.rs a) = .ok r ∧
      (s.rs a).toNat < 2 ^ 13 ∧ r.kind ≠ 1) ∧
    (∃ (a : SReg) (s : State) (r : FreezeRec), isControl s.n = true ∧ readable s a = true ∧ fits s ∧ s.chkAct (s.rs a) = .ok r ∧
      (s.rs a).toNat < 2 ^ 13 ∧ r.kind = 1 ∧ r.trapc.toNat = cTWIN) ∧
    (∃ (a : SReg) (s : State) (r : FreezeRec), isControl s.n = true ∧ readable s a = true ∧ fits s ∧ s.chkAct (s.rs a) = .ok r ∧
      (s.rs a).toNat < 2 ^ 12 ∧ (s.next.ctx r.core r.ctx).rwf = false) ∧
    (∃ (a : SReg) (s : State) (r : FreezeRec), isControl s.n = true ∧ readable s a = true ∧ fits s ∧ s.chkAct (s.rs a) = .ok r ∧
      (s.rs a).toNat < 2 ^ 12 ∧ (s.next.ctx r.core r.ctx).rwf = true) ∧
    (∃ (d : SReg) (i : BitVec 14) (s : State), isControl s.n = true ∧ readable s d = true ∧ 2 = (s.imm i).toNat) ∧
    (∃ (d : SReg) (i : BitVec 14) (s : State) (mask : BitVec 6), isControl s.n = true ∧ readable s d = true ∧ mask = (s.rs d).setWidth 6 ∧
      (s.imm i).toNat = 1 ∧ s.next.incomplete s.clus mask = true) ∧
    (∃ (d : SReg) (i : BitVec 14) (s : State) (mask : BitVec 6), isControl s.n = true ∧ readable s d = true ∧ mask = (s.rs d).setWidth 6 ∧
      s.imm i = 1 ∧ s.next.incomplete s.clus mask = false ∧ s.flying ≤ 96) ∧
    (∃ (d : SReg) (i : BitVec 14) (s : State) (mask : BitVec 6), isControl s.n = true ∧ readable s d = true ∧ mask = (s.rs d).setWidth 6 ∧
      s.imm i = 0 ∧ s.next.incomplete s.clus mask = false ∧ s.flying ≤ 96) ∧
    (∃ (d : SReg) (i : BitVec 14) (s : State), readable s d = true ∧ fits s ∧ isControl s.n = true ∧ (s.imm i).toNat = 1 ∧ (s.rs d).toNat = 3 ∧
      s.imm i = 1 ∧ ∀ x : Nat, x < 8 → (s.next.ctx (8 * s.clus + 2 * (s.rs d).toNat + 1) x).task = none) ∧
    (∃ (d : SReg) (i : BitVec 14) (s : State), readable s d = true ∧ fits s ∧ isControl s.n = true ∧ s.imm i = 1 ∧ (s.rs d).toNat < 4 ∧
      ∃ x : Nat, x < 8 ∧ (s.next.ctx (8 * s.clus + 2 * (s.rs d).toNat + 1) x).task ≠ none) ∧
    (∃ (d : SReg) (i : BitVec 14) (s : State), readable s d = true ∧ fits s ∧ (s.imm i).toNat = 1 ∧
      fits (s.access 2 (.bank ((s.rs d).setWidth 8) (decide (s.imm i = 1))))) ∧
    (∃ (a : SReg) (s : State), readable s a = true ∧ fits s ∧ (s.rs a).toNat = 1 ∧ s.view.follows s.n = false ∧ s.spilling = false ∧
      ∀ j : Nat, j < 8 → (s.rs a).toNat.testBit j = true → ∃ f ∈ s.fps, f.j = j ∧ f.write = true) ∧
    ∃ (a : SReg) (s : State), readable s a = true ∧ fits s ∧ (s.rs a).toNat = 255 ∧ s.view.follows s.n = false ∧
      ∃ j : Nat, j < 8 ∧ (s.rs a).toNat.testBit j = true ∧ ∀ f ∈ s.fps, f.j = j → f.write = false :=
  ⟨⟨pair_ [], by decide, by decide, by decide⟩,
    ⟨3, frozen_ 0x1200 1 4 false, _, by decide, by decide, by decide, rfl, by decide, by decide, by decide⟩,
    ⟨3, frozen_ 0x0200 2 0 false, _, by decide, by decide, by decide, rfl, by decide, by decide⟩,
    ⟨3, frozen_ 0x0200 1 (BitVec.ofNat 8 cTWIN) false, _, by decide, by decide, by decide, rfl, by decide, by decide, by decide⟩,
    ⟨3, frozen_ 0x0200 1 4 false, _, by decide, by decide, by decide, rfl, by decide, by decide⟩,
    ⟨3, frozen_ 0x0200 1 4 true, _, by decide, by decide, by decide, rfl, by decide, by decide⟩, ⟨3, 2, pair_ [], by decide, by decide, by decide⟩,
    ⟨3, 1, pair_ [(3, 1)], _, by decide, by decide, rfl, by decide, by decide⟩, ⟨3, 1, pair_ [], _, by decide, by decide, rfl, by decide, by decide,
      by decide⟩, ⟨3, 0, pair_ [], _, by decide, by decide, rfl, by decide, by decide, by decide⟩,
    ⟨3, 1, pair_ [(3, 3)], by decide, by decide, by decide, by decide, by decide, by decide, by decide⟩,
    ⟨3, 1, at_ 384 fun m => m.modCtx 1 7 fun c => { c with task := some default }, by decide, by decide, by decide, by decide, by decide, 7, by decide⟩,
    ⟨3, 1, here id, by decide, by decide, by decide, by decide⟩,
    ⟨3, copying_ [(3, 1)] id 0, by decide, by decide, by decide, by decide, by decide, by decide⟩,
    3, copying_ [(3, 255)] id 0, by decide, by decide, by decide, by decide, 7, by decide, by decide, by decide⟩

theorem meets_ExceptionsTaken :
    (∃ (m : Mach) (r : Nat) (fs : List (Nat × Nat × Exc × Bool)) (q : FreezeRec), q ∈ ((m.freeze r fs).region r).recs ∧ q.kind = 1) ∧
    (∃ (m : Mach) (r : Nat) (fs : List (Nat × Nat × Exc × Bool)) (q : FreezeRec), q ∈ ((m.freeze r fs).region r).recs ∧ q.kind = 2) ∧
    (∃ (m : Mach) (k : Nat), (m.pair k).evs.length = 63) ∧ ∃ (m : Mach) (k : Nat), 64 = (m.pair k).evs.length :=
  ⟨⟨(here id).next, 0, [(0, 0, exc cBREAK 0, true)], _, List.mem_cons_self .., rfl⟩, ⟨(here id).next, 0, [], _, List.mem_cons_self .., rfl⟩,
    ⟨State.reset.next.modPair 0 fun p => { p with evs := List.replicate 63 default }, 0, by decide⟩,
    State.reset.next.modPair 0 fun p => { p with evs := List.replicate 64 default }, 0, by decide⟩

theorem meets_RegistersWritten :
    (∃ v : Word, 24 = fld v.toNat 17 5) ∧ (∃ v : Word, fld v.toNat 17 5 = 23) ∧
    (∃ (g : Fin 64) (v : Word) (s : State), (s.next.gusset g.val).en = true ∧ v.getLsbD 22 = true) ∧
    (∃ (g : Fin 64) (v : Word) (s : State), (s.next.gusset g.val).en = true ∧ v.getLsbD 22 = false) ∧
    (∃ (g : Fin 64) (v : Word) (s : State), (s.next.gusset g.val).en = false ∧ v.getLsbD 22 = false) ∧
    (∃ (g : Fin 64) (v : Word) (s : State) (d : Nat), (s.next.gusset g.val).en = false ∧ v.getLsbD 22 = true ∧
      d = (if fld v.toNat 1 6 = 0 then 64 else fld v.toNat 1 6) ∧ d = 16 ∧ 1 ≤ fld v.toNat 7 6 ∧ fld v.toNat 7 6 + 1 = d ∧
      fld v.toNat 13 4 ≠ fld v.toNat 17 4) ∧
    (∃ (g : Fin 64) (v : Word) (s : State) (d : Nat), (s.next.gusset g.val).en = false ∧ v.getLsbD 22 = true ∧
      d = (if fld v.toNat 1 6 = 0 then 64 else fld v.toNat 1 6) ∧ d = 15) ∧
    (∃ (g : Fin 64) (s : State), (s.next.gusset g.val).cfg.getLsbD 21 = false) ∧ (∃ (g : Fin 64) (s : State), (s.next.gusset g.val).cfg.getLsbD 21 = true) ∧
    (∃ (k : ClusterId) (s : State), (s.next.cl k.val).ringCount ≠ 0) ∧ (∃ (k : ClusterId) (s : State), (s.next.cl k.val).ringCount = 0) ∧
    (∃ (k : ClusterId) (v : Word) (s : State), v.getLsbD 8 = true ∧ (s.next.cl k.val).spareUsed = false ∧ (s.next.cl k.val).spareReq = none) ∧
    (∃ (k : ClusterId) (v : Word) (s : State), v.getLsbD 8 = true ∧ (s.next.cl k.val).spareUsed = true) ∧
    (∃ (k : ClusterId) (s : State), (s.next.region (s.next.regionOf k.val)).frozen = false) ∧
    ∃ (k : ClusterId) (v : Word) (s : State) (q : FreezeRec), fld v.toNat 0 9 < 384 ∧ clusOf (fld v.toNat 0 9) = k.val ∧
      (s.next.region (s.next.regionOf k.val)).frozen = true ∧
      (s.next.region (s.next.regionOf k.val)).recOf (fld v.toNat 0 9) (fld v.toNat 9 3) = some q :=
  ⟨⟨BitVec.ofNat 64 (24 * 2 ^ 17), by decide⟩, ⟨BitVec.ofNat 64 (23 * 2 ^ 17), by decide⟩,
    ⟨63, 0x400000, at_ 0 fun m => m.modGusset 63 fun q => { q with cfg := 0x400000 }, by decide, by decide⟩,
    ⟨63, 0, at_ 0 fun m => m.modGusset 63 fun q => { q with cfg := 0x400000 }, by decide, by decide⟩, ⟨0, 0, here id, by decide, by decide⟩,
    ⟨0, BitVec.ofNat 64 (2 ^ 22 + 16 * 2 + 15 * 2 ^ 7 + 2 ^ 13), here id, 16, by decide, by decide, by decide, rfl, by decide, by decide, by decide⟩,
    ⟨0, BitVec.ofNat 64 (2 ^ 22 + 15 * 2), here id, 15, by decide, by decide, by decide, rfl⟩, ⟨0, here id, by decide⟩,
    ⟨0, at_ 0 fun m => m.modGusset 0 fun q => { q with cfg := 0x200000 }, by decide⟩,
    ⟨0, at_ 0 fun m => m.modCl 0 fun c => { c with ringCount := 1 }, by decide⟩, ⟨0, here id, by decide⟩,
    ⟨0, 0x100, here id, by decide, by decide, by decide⟩,
    ⟨0, 0x100, at_ 0 fun m => m.modCl 0 fun c => { c with spareUsed := true }, by decide, by decide⟩, ⟨0, here id, by decide⟩,
    0, 0x200, frozen_ 0 1 4 false, _, by decide, by decide, by decide, rfl⟩

/-- A read of the host waits for a slot that the map of controller 0 gives. -/
def hosted : State := at_ 0 fun m => m.modPack fun p =>
  { p with hostq := [.read 0 8], wheels := up p.wheels 0 fun w => { w with map := [(1, BitVec.ofNat 8 (128 + 56))] } }

theorem meets_ClearsAndWindow :
    (∃ s : State, s.next.pack.fenced = true) ∧
    (∃ (v : Word) (s : State), s.next.pack.fenced = false ∧ s.next.crHead = s.next.crTail ∧ fld v.toNat 30 9 % 2 ^ (Config.bar2Log % 10) = 0 ∧
      s.next.pack.hostq = [] ∧ s.next.crSize ≤ v.toNat % 2 ^ 16) ∧
    (∃ (v : Word) (s : State), s.next.pack.fenced = false ∧ s.next.crHead ≠ s.next.crTail ∧ s.next.pack.hostq = [] ∧
      v.toNat % 2 ^ 16 < s.next.crSize) ∧
    (∃ (s : State) (o : HostOp) (os : List HostOp), s.next.pack.fenced = false ∧ s.next.pack.hostq = o :: os ∧ s.next.noSlot o = false) ∧
    ∃ num : BitVec 14, 0x1700 ≤ num.toNat ∧ num.toNat = 0x18FC ∧ num.toNat % 8 = 4 :=
  ⟨⟨at_ 0 fun m => m.modPack fun p => { p with fenced := true }, by decide⟩,
    ⟨0, here id, by decide, by decide, by show 0 % _ = 0; exact Nat.zero_mod _, by decide, by decide⟩,
    ⟨15, at_ 0 fun m => (m.setWindow 0x1008 16).setWindow 0x1018 1, by decide, by decide, by decide, by decide⟩,
    ⟨hosted, _, _, by decide, rfl, by decide⟩, 0x18FC, by decide, by decide, by decide⟩

theorem meets_SourcesTick :
    (∃ (u : SourceId) (s : State), (s.next.source u.val).samples = []) ∧
    (∃ (u : SourceId) (s : State) (q : Sample), (s.next.source u.val).samples = [q] ∧ q.arrived = false ∧ q.n = 3) ∧
    (∃ (port : Bool) (id : Word) (len : BitVec 16) (s : State) (u : Nat), u < 16 ∧ (s.next.source u).kind ∈ [2, 3] ∧
      (s.next.source u).port ∈ s.next.mediaFor port id ∧ len.toNat = (s.next.source u).sbytes) ∧
    (∃ (u : SourceId) (s : State), (s.next.source u.val).kind ≠ 1) ∧
    (∃ (u : SourceId) (s : State), (s.next.source u.val).kind = 1 ∧ s.next.hs (s.next.source u.val).port 1 = 0) ∧
    (∃ (u : SourceId) (s : State), (s.next.source u.val).kind = 1 ∧ (s.next.source u.val).noPtm = false ∧
      s.next.hs (s.next.source u.val).port 1 ≠ 0 ∧ (s.next.source u.val).hsNext ≠ s.next.hs (s.next.source u.val).port 2) ∧
    ∃ (u : SourceId) (s : State) (l : Nat), (s.next.source u.val).last = some l :=
  ⟨⟨0, here id, by decide⟩, ⟨0, at_ 0 fun m => m.modSource 0 fun g => { g with samples := [{ n := 3, val := 0, gap := false, arrived := false }] }, _, rfl,
      rfl, rfl⟩,
    ⟨false, 7, 768, at_ 0 fun m => (m.modSource 1 fun g => { g with kind := 2, port := 4 }).modPack fun p => { p with
      media := wr p.media 4 { (rd p.media 4) with ssid := 7, cfg := 0x8000000000000000 } }, 1, by decide, by decide, by decide, by decide⟩,
    ⟨0, here id, by decide⟩, ⟨2, at_ 0 fun m => m.modSource 2 fun g => { g with kind := 1 }, by decide, by decide⟩,
    ⟨2, at_ 0 fun m => ((m.modSource 2 fun g => { g with kind := 1, port := 1, noPtm := false }).setWindow 0x2048 4).setWindow 0x2050 1, by decide,
      by decide, by decide, by decide⟩,
    3, at_ 0 fun m => m.modSource 3 fun g => { g with last := some 9 }, 9, rfl⟩

/-- Region `r` changed. -/
def region_ (r : Nat) (f : Region → Region) : State := at_ 0 fun m => m.modRegion r f

theorem meets_RegionStates :
    (∃ (r : RegionId) (s : State), (s.next.region r.val).state = 1) ∧ (∃ (r : RegionId) (s : State), (s.next.region r.val).state = 2) ∧
    (∃ (r : RegionId) (s : State), (s.next.region r.val).state = 3 ∧ r.val = 15) ∧
    (∃ (r : RegionId) (s : State), (s.next.region r.val).state = 4 ∧ (s.next.region r.val).pre = false ∧ (s.next.region r.val).stopped = false ∧
      (s.next.region r.val).restart = false) ∧
    (∃ (r : RegionId) (s : State), (s.next.region r.val).state = 4 ∧ (s.next.region r.val).restart = true) ∧
    (∃ (r : RegionId) (s : State), (s.next.region r.val).wantStop = true) ∧
    (∃ (r : RegionId) (s : State), (s.next.region r.val).wantStop = false ∧ (s.next.region r.val).wantPre = true) ∧
    (∃ (r : RegionId) (s : State), (s.next.region r.val).wantStop = false ∧ (s.next.region r.val).wantPre = false ∧
      (s.next.region r.val).rsync = false ∧ (s.next.region r.val).state = 3 ∧ (s.next.region r.val).wantRelock = true) ∧
    (∃ (r : RegionId) (s : State), r.val ≠ 0 ∧ (s.next.region r.val).state = 0 ∧ s.next.pack.halted = false ∧ s.next.canStart r.val = true) ∧
    (∃ (r : RegionId) (s : State), r.val ≠ 0 ∧ (s.next.region r.val).state = 0 ∧ s.next.pack.halted = false ∧ s.next.canStart r.val = false) ∧
    (∃ s : State, s.next.pack.halted = true) ∧
    (∃ (r : RegionId) (s : State), r.val ≠ 0 ∧ (s.next.region r.val).job = none) ∧
    ∃ (r : RegionId) (s : State), r.val ≠ 0 ∧ (s.next.region r.val).job ≠ none :=
  ⟨⟨15, region_ 15 fun g => { g with state := 1 }, by decide⟩, ⟨0, here id, by decide⟩, ⟨15, region_ 15 fun g => { g with state := 3 }, by decide, rfl⟩,
    ⟨15, region_ 15 fun g => { g with state := 4 }, by decide, by decide, by decide, by decide⟩,
    ⟨15, region_ 15 fun g => { g with state := 4, restart := true }, by decide, by decide⟩, ⟨0, region_ 0 fun g => { g with wantStop := true }, by decide⟩,
    ⟨1, region_ 1 fun g => { g with wantPre := true }, by decide, by decide⟩,
    ⟨0, region_ 0 fun g => { g with state := 3, wantRelock := true }, by decide, by decide, by decide, by decide, by decide⟩,
    ⟨1, region_ 1 fun g => { g with cadd := 4096, cadl := 4096, mask := 1 }, by decide, by decide, by decide, by decide⟩,
    ⟨1, region_ 1 fun g => { g with cadd := 4097, cadl := 4097, mask := 1 }, by decide, by decide, by decide, by decide⟩,
    ⟨at_ 0 fun m => m.modPack fun p => { p with halted := true }, by decide⟩, ⟨1, here id, by decide, by decide⟩,
    1, region_ 1 fun g => { g with job := some 7 }, by decide, by decide⟩

/-- The queue of cluster 0 is one entry, of a task 4 of job 9. -/
def queued (q : QEnt) : State := at_ 0 fun m => m.modCl 0 fun c => { c with queue := [q] }

/-- Engine 0 of core 0 holds one copy, which ends at age 0. -/
def copied (c : Copy) : State := at_ 0 fun m => m.modCore 0 fun k => { k with eng := wr k.eng 0 { (rd k.eng 0) with copies := [c] } }

theorem meets_FreezesAndEnds :
    (∃ (r : RegionId) (s : State), (s.next.region r.val).recsAt = some 1 ∧ (∀ t : Nat, (s.next.region r.val).recsAt = some t → s.next.pclk < t) ∧
      (s.next.region r.val).late = []) ∧
    (∃ (r : RegionId) (s : State) (p : Nat), (s.next.region r.val).recsAt = some p ∧ p ≤ s.next.pclk ∧ (s.next.region r.val).late = []) ∧
    (∃ (k : ClusterId) (s : State), (s.next.pair k.val).handler = true) ∧
    (∃ (k : ClusterId) (s : State) (e : Event) (es : List Event), (s.next.pair k.val).dead = false ∧ (s.next.pair k.val).handler = false ∧
      (s.next.pair k.val).frzs = e :: es) ∧
    (∃ (k : ClusterId) (s : State) (e : Event) (es : List Event), (s.next.pair k.val).dead = false ∧ (s.next.pair k.val).handler = false ∧
      (s.next.pair k.val).frzs = [] ∧ (s.next.pair k.val).evs = e :: es) ∧
    (∃ (r : RegionId) (s : State), s.next.skipBy r.val = 0) ∧ (∃ (r : RegionId) (s : State), s.next.skipBy r.val ≠ 0) ∧
    (∃ (n : CoreId) (x : CtxId) (s : State) (r : Nat) (q : FreezeRec), r = s.next.regionOf (clusOf n.val) ∧ (s.next.region r).recs = [q] ∧
      q.core = n.val ∧ q.ctx = x.val ∧ q.done = false ∧ q.kind = 1 ∧ q.trapc.toNat ≠ cDEADLINE ∧ q.act ≠ some .rewind ∧
      (s.next.region r).frozen = true) ∧
    (∃ (n : CoreId) (x : CtxId) (s : State), (s.next.region (s.next.regionOf (clusOf n.val))).recOf n.val x.val = none) ∧
    (∃ (k : ClusterId) (j : Fin 4) (x : Nat) (s : State), s.next.charged (8 * k.val + 2 * j.val) = some x ∧ s.next.mismatch k.val j.val = 0 ∧
      (s.next.core (8 * k.val + 2 * j.val)).parted = 0) ∧
    (∃ (k : ClusterId) (j : Fin 4) (x : Nat) (s : State), s.next.charged (8 * k.val + 2 * j.val) = some x ∧ s.next.mismatch k.val j.val ≠ 0) ∧
    (∃ (n : CoreId) (e : EngineId) (s : State) (c : Copy), (rd (s.next.core n.val).eng e.val).copies = [c] ∧ c.done (s.next.now n.val) = true) ∧
    (∃ (n : CoreId) (e : EngineId) (s : State) (c : Copy) (b pa : Nat), (rd (s.next.core n.val).eng e.val).copies = [c] ∧
      (s.next.core n.val).copies = [c] ∧ c.kind = .bmset b ∧ b = 7 ∧
      c.eta = s.next.now n.val ∧ s.next.mute n.val c.ctx = false ∧
      (c.iters.headD default).src.toNat = pa) ∧
    (∃ (k : ClusterId) (s : State) (g : Stage) (gs : List Stage), (s.next.cl k.val).stages = g :: gs ∧ g.done < g.len) ∧
    (∃ (k : ClusterId) (s : State) (g : Stage) (gs : List Stage), (s.next.cl k.val).stages = g :: gs ∧ g.len = g.done ∧ g.bad = none) ∧
    (∃ (k : ClusterId) (b : Fin 8) (s : State), rd (s.next.cl k.val).banks b.val = 2 ∧ (s.next.cl k.val).spad.wf = true) ∧
    ∃ (n : CoreId) (x : CtxId) (s : State) (b : SegBuf) (g : Segment), (s.next.ctx n.val x.val).segbuf = some b ∧ b.ptr ≠ 0xFFFF ∧ b.other = none ∧
      b.cur = some g :=
  ⟨⟨0, region_ 0 fun g => { g with frozen := true, recsAt := some 1 }, by decide, fun t h => by cases h; decide, by decide⟩,
    ⟨0, region_ 0 fun g => { g with frozen := true, recsAt := some 0 }, 0, by decide, by decide, by decide⟩,
    ⟨0, at_ 0 fun m => m.modPair 0 fun p => { p with handler := true }, by decide⟩,
    ⟨0, at_ 0 fun m => m.modPair 0 fun p => { p with frzs := [default] }, _, _, by decide, by decide, rfl⟩,
    ⟨0, at_ 0 fun m => m.modPair 0 fun p => { p with evs := [default] }, _, _, by decide, by decide, by decide, rfl⟩, ⟨0, here id, by decide⟩,
    ⟨15, region_ 15 fun g => { g with sd := 1, cadl := 90, count := 5 }, by decide +kernel⟩,
    ⟨0, 1, frozen_ 0 1 4 false, _, _, rfl, rfl, rfl, rfl, rfl, rfl, by decide, by decide, by decide⟩, ⟨0, 0, here id, by decide⟩,
    ⟨0, 0, 0, here id, by decide, by decide, by decide⟩,
    ⟨0, 0, 0, at_ 0 fun m => m.modCore 1 fun c => { c with twin := 2, sigs := [5] }, by decide, by decide⟩,
    ⟨0, 0, copied { (default : Copy) with kind := .plain }, _, rfl, by decide⟩,
    ⟨0, 0, at_ 0 fun m => m.modCore 0 fun k => { k with eng := wr k.eng 0 { (rd k.eng 0) with copies := [{ (default : Copy) with
      kind := .bmset 7, iters := [{ (default : Iter) with src := 77 }] }] } }, _, 7, 77,
      rfl, rfl, rfl, rfl, by decide, by decide, by decide⟩,
    ⟨0, at_ 0 fun m => m.modCl 0 fun c => { c with stages := [{ (default : Stage) with len := 4096 }] }, _, _, rfl, by decide⟩,
    ⟨0, at_ 0 fun m => m.modCl 0 fun c => { c with stages := [default] }, _, _, rfl, rfl, rfl⟩,
    ⟨7, 7, at_ 0 fun m => m.modCl 7 fun c => { c with banks := wr c.banks 7 2 }, by decide, by decide⟩,
    383, 7, at_ 0 fun m => m.modCtx 383 7 fun c => { c with segbuf := some { (default : SegBuf) with cur := some default } }, _, _, rfl, by decide, rfl,
    rfl⟩

theorem meets_DispatcherAndFabric :
    (∃ (m : Mach) (n l : Nat), m.head n l = none) ∧
    (∃ (n : CoreId) (x : CtxId) (s : State) (q : QEnt) (xs : List Xlat), (s.next.cl (clusOf n.val)).queue = [q] ∧ q.state = .preloading n.val x.val ∧
      s.next.preload (clusOf n.val) (recJob (headOf q.words)) q.uid q.fps (s.next.cl (clusOf n.val)).freeXlats [] = .ok xs) ∧
    (∃ (n : CoreId) (x : CtxId) (s : State), ∀ q ∈ (s.next.cl (clusOf n.val)).queue, q.state ≠ .preloading n.val x.val) ∧
    (∃ (k : ClusterId) (s : State) (q : QEnt), (s.next.cl k.val).queue = [q] ∧ q.state = .queued ∧ q.level = 1 ∧ q.waited = 63) ∧
    (∃ (k : ClusterId) (e : Fin 256) (s : State) (q : QEnt) (pa bit : Nat), (s.next.cl k.val).queue = [q] ∧ q.state = .queued ∧ q.slot = e.val ∧
      q.wb = some (pa, bit) ∧ s.next.testsBit k.val q = false) ∧
    (∃ (k : ClusterId) (e : Fin 256) (s : State) (q : QEnt) (pa bit : Nat), (s.next.cl k.val).queue = [q] ∧ q.state = .queued ∧ q.slot = e.val ∧
      q.wb = some (pa, bit) ∧ s.next.testsBit k.val q = true) ∧
    (∃ (k : ClusterId) (s : State), (s.next.cl k.val).queue = []) ∧
    (∃ (k : ClusterId) (s : State), (s.next.cl k.val).blocked = false) ∧
    (∃ (k : ClusterId) (s : State) (q : QEnt), (s.next.cl k.val).queue.filter (fun q => q.slot == 255) = [q]) ∧
    (∃ (k : ClusterId) (e : Byte) (s : State) (q : QEnt), (s.next.cl k.val).queue = [q] ∧ q.slot = e.toNat ∧ q.state = .queued ∧
      (s.next.cl k.val).entry e.toNat = some q ∧ q.dup = 0) ∧
    (∃ (k : ClusterId) (e : Byte) (s : State), (s.next.cl k.val).entry e.toNat = none) ∧
    (∃ (k : ClusterId) (pair : Nat) (s : State) (d : Dup) (a b : Word), (s.next.cl k.val).dups = [d] ∧ d.a = pair ∧ d.sa = some a ∧ d.sb = some b ∧
      a = b) ∧
    (∃ (job : Byte) (s : State) (b : Job), s.next.job job.toNat = some b ∧ s.next.live job.toNat = false ∧ (s.next.pair 0).dead = false ∧
      b.num = job.toNat) ∧
    (∃ f : Fragment, f.port = none ∧ f.crc ≠ fragCrc f) ∧ (∃ f : Fragment, f.port = some 15) ∧
    (∃ (k : ClusterId) (g : BitVec 12) (s : State) (u : Group), (s.next.cl k.val).group g = some u ∧ u.draining = true) ∧
    (∃ (k : ClusterId) (s : State), (s.next.cl k.val).inc = [] ∧ (s.next.cl k.val).groups = []) ∧
    ∃ (c : Fin 16) (row : Nat) (s : State), s.next.pack.pprReq = [(c.val, row)] :=
  ⟨⟨State.reset.next, 0, 3, by decide⟩, ⟨383, 7, at_ 0 fun m => m.modCl 47 fun c => { c with queue := [{ (default : QEnt) with state := .preloading 383 7 }] },
      _, [], rfl, rfl, by rfl⟩,
    ⟨0, 0, here id, by decide⟩, ⟨0, queued { (default : QEnt) with state := .queued, level := 1, waited := 63 }, _, rfl, rfl, rfl, rfl⟩,
    ⟨0, 255, queued { (default : QEnt) with state := .queued, slot := 255, wb := some (64, 7) }, _, _, _, rfl, rfl, rfl, rfl, by decide⟩,
    ⟨0, 254, (queued { (default : QEnt) with state := .queued, slot := 254, wb := some (64, 7) }).mod fun m => m.modPack fun p =>
      { p with wheels := up p.wheels 0 fun w => { w with map := [(0, 128)] } }, _, _, _, rfl, rfl, rfl, rfl, by decide⟩,
    ⟨0, here id, by decide⟩, ⟨0, here id, by decide⟩, ⟨0, queued { (default : QEnt) with slot := 255 }, _, rfl⟩,
    ⟨0, 255, queued { (default : QEnt) with state := .queued, slot := 255 }, _, rfl, rfl, rfl, by decide, rfl⟩, ⟨0, 0, here id, by decide⟩,
    ⟨0, 4, at_ 0 fun m => m.modCl 0 fun c => { c with dups := [{ a := 4, b := 5, job := 9, tag := 0, fps := [], open_ := [], sa := some 1, sb := some 1 }] }, _, _, _, rfl, rfl, rfl,
      rfl, rfl⟩,
    ⟨9, at_ 0 fun m => m.modPack fun p => { p with jobs := [{ (default : Job) with num := 9 }] }, _, rfl, by decide, by decide, rfl⟩,
    ⟨{ seq := 0, group := 5, smem := 0, index := 0, kc := 0, m := 0, len := 1, close := 9, dig := false, crc := 0, rsv := 0, body := [], dest := none, port := none },
      rfl, by decide +kernel⟩, ⟨{ seq := 0, group := 5, smem := 0, index := 0, kc := 0, m := 0, len := 1, close := 9, dig := false, crc := 0, rsv := 0, body := []
                                  dest := none, port := some 15 }, rfl⟩,
    ⟨0, 5, grouped [] true true [], _, rfl, rfl⟩, ⟨0, here id, by decide, by decide⟩,
    15, 3, at_ 0 fun m => m.modPack fun p => { p with pprReq := [(15, 3)] }, by decide⟩

/-- A command ring of 16 entries with one command pending. -/
def commanded (f : Mach → Mach) : State := at_ 0 fun m => f ((m.setWindow 0x1008 16).setWindow 0x1018 1)

theorem meets_CommandsComplete :
    (∃ m : Mach, m.pending = true ∧ m.pack.fenced = false) ∧ (∃ m : Mach, m.pending = false) ∧
    (∃ (m : Mach) (j : Option Nat), m.unsettled j = false) ∧ (∃ (m : Mach) (j : Option Nat), m.unsettled j = true ∧ m.pending = true) ∧
    (∃ (s : State) (st : Nat) (j : Option Nat), s.next.pack.ending = some (st, j)) ∧
    (∃ w2 : Word, 257 = fld w2.toNat 0 8 + fld w2.toNat 8 8) ∧
    (∃ (w1 w2 : Word) (s : State), fld w2.toNat 0 8 + fld w2.toNat 8 8 = 256 ∧ w1.toNat + 144 * fld w2.toNat 8 8 = 0x7800000000 ∧
      s.next.pack.dev.isBad w1.toNat (144 * fld w2.toNat 8 8) = false) ∧
    (∃ (w1 w2 : Word) (s : State), fld w2.toNat 0 6 + fld w2.toNat 8 8 = 64 ∧ w1.toNat + 32 * fld w2.toNat 8 8 = 0x7800000000 ∧
      s.next.pack.dev.isBad w1.toNat (32 * fld w2.toNat 8 8) = false) ∧
    (∃ (w1 w2 : Word) (s : State) (bs : List Byte), w1.toNat = 40 ∧ w2.toNat + 256 = 0x7800000000 ∧ s.next.pack.dev.isBad w2.toNat 256 = false ∧
      bs = s.next.pack.dev.bytes w2.toNat 256 ∧ ∀ b ∈ bs, b.getLsbD 6 = false) ∧
    (∃ (w1 w2 : Word), w1.toNat = 7 ∧ fld w2.toNat 0 3 = 4 ∧ fld w2.toNat 4 3 ≤ 4 ∧ kOf (fld w2.toNat 0 3) + fld w2.toNat 4 3 ≤ 20 ∧ fld w2.toNat 12 16 ≠ 0) ∧
    (∃ (w1 w2 w3 : Word) (s : State) (e : Nat), w1.toNat = 3 ∧ w2.toNat = 127 ∧ w3.toNat + 32 = 0x7800000000 ∧
      s.next.pack.dev.isBad w3.toNat 32 = false ∧ e = s.next.pack.dev.nat w3.toNat 32 ∧ rangeBad e = false) ∧
    (∃ (w1 w2 w3 w4 w5 : Word) (s : State), w1.toNat = 15 ∧ w1 ≠ 0 ∧ w2.toNat + 1 = 2 ^ 25 ∧ w3.toNat + 1 = 2 ^ 13 ∧ w4.toNat = 31 ∧ w5.toNat + 1 = 2 ^ 48 ∧
      (s.next.region w1.toNat).job = none ∧ s.next.taken w1.toNat (w5.setWidth 48) = false) ∧
    (∃ (job : Byte) (s : State), s.next.job job.toNat = none) ∧
    (∃ (job : Byte) (s : State) (b : Job), s.next.job job.toNat = some b ∧ b.pattern = false) ∧
    (∃ (job : Byte) (s : State) (b : Job), s.next.job job.toNat = some b ∧ b.pattern = true ∧ b.regions.getLsbD 0 = true) ∧
    (∃ (job : Byte) (w2 w3 w7 : Word) (s : State), w2 = 2 ∧ w7.toNat + 64 = 0x7800000000 ∧ w3.toNat = 0x7800000000 ∧ s.next.job job.toNat = none ∧
      (s.next.region 1).job = none ∧ (s.next.region 1).state ≠ 0 ∧ (s.next.region 1).mode = 0) ∧
    (∃ s : State, s.next.pack.jobs ≠ []) ∧ (∃ s : State, s.next.pack.jobs = [] ∧ s.next.pack.cmdBusy = false ∧ s.next.pack.ldbusy = false) ∧
    (∃ s : State, s.next.pack.ldbusy = true ∧ s.next.pack.ldover = false) ∧
    ∃ s : State, s.next.pack.ldbusy = true ∧ s.next.pack.ldover = true ∧ ∀ q : Nat × Nat, s.next.pack.lderr = some q → q.2 < 2 ^ 32 :=
  ⟨⟨(commanded id).next, by decide, by decide⟩, ⟨State.reset.next, by decide⟩, ⟨State.reset.next, some 9, by decide⟩,
    ⟨(commanded fun m => m.modPack fun p => { p with jobs := [{ (default : Job) with num := 9 }] }).next, some 9, by decide, by decide⟩,
    ⟨at_ 0 fun m => m.modPack fun p => { p with ending := some (0, none) }, _, _, rfl⟩, ⟨0x02FF, by decide⟩,
    ⟨BitVec.ofNat 64 (0x7800000000 - 144 * 255), 0xFF01, here id, by decide, by decide, by decide +kernel⟩,
    ⟨BitVec.ofNat 64 (0x7800000000 - 32 * 63), 0x3F01, here id, by decide, by decide, by decide +kernel⟩,
    ⟨40, 0x77FFFFFF00, here id, _, by decide, by decide, by decide +kernel, rfl, by decide +kernel⟩,
    ⟨7, 0x1004, by decide, by decide, by decide, by decide, by decide⟩,
    ⟨3, 127, 0x77FFFFFFE0, here id, _, by decide, by decide, by decide, by decide +kernel, rfl, by decide +kernel⟩,
    ⟨15, 0x1FFFFFF, 0x1FFF, 31, 0xFFFFFFFFFFFF, here id, by decide, by decide, by decide, by decide, by decide, by decide, by decide,
      by decide +kernel⟩,
    ⟨9, here id, by decide⟩, ⟨9, at_ 0 fun m => m.modPack fun p => { p with jobs := [{ (default : Job) with num := 9 }] }, _, rfl, rfl⟩,
    ⟨9, at_ 0 fun m => m.modPack fun p => { p with jobs := [{ (default : Job) with num := 9, pattern := true, regions := 1 }] }, _, rfl, rfl, rfl⟩,
    ⟨9, 2, 0x7800000000, 0x77FFFFFFC0, region_ 1 fun g => { g with state := 2 }, rfl, by decide, by decide, by decide, by decide, by decide, by decide⟩,
    ⟨at_ 0 fun m => m.modPack fun p => { p with jobs := [default] }, by decide⟩, ⟨here id, by decide, by decide, by decide⟩,
    ⟨at_ 0 fun m => m.modPack fun p => { p with ldbusy := true }, by decide, by decide⟩,
    at_ 0 fun m => m.modPack fun p => { p with ldbusy := true, ldover := true, lderr := some (3, 2) }, by decide, by decide, fun q h => by
      cases h; decide⟩

theorem meets_HostAndSideband :
    (∃ s : State, s.next.pack.inert = true) ∧
    (∃ (off : Nat) (data : List Byte) (s : State) (a : Nat), a = s.next.window 0x100 + off ∧ s.next.pack.inert = false ∧
      a + data.length = 0x7800000000) ∧
    (∃ (m : Mach) (o : HostOp), m.pack.hostq = [] ∧ m.noSlot o = true) ∧
    (∃ (m : Mach) (o : HostOp), m.pack.hostq = [] ∧ m.noSlot o = false) ∧
    (∃ (m : Mach) (t : Nat) (q : HostOp) (qs : List HostOp), m.pack.hostq = q :: qs ∧ m.noSlot q = false ∧ m.turn56 q.ctrls t = false) ∧
    (∃ (m : Mach) (t : Nat) (q : HostOp) (qs : List HostOp), m.pack.hostq = q :: qs ∧ m.noSlot q = false ∧ m.turn56 q.ctrls t = true) ∧
    (∃ s : State, (s.next.core 384).flips.getLsbD 5 = false) ∧
    (∃ (c : Fin 16) (block bad : Nat), bad = 3 ∧ blockPa c.val block < 0x7800000000) ∧
    ∃ (s : State) (q : Nat × Region), q ∈ s.next.pack.regions ∧ q.2.state = 4 :=
  ⟨⟨at_ 0 fun m => m.modPack fun p => { p with sanit := true }, by decide⟩,
    ⟨0x77FFFFFFFF, [7], at_ 0 fun m => m.modPack fun p => { p with ready := true, recov := false }, _, rfl, by decide, by decide⟩,
    ⟨State.reset.next, .doorbell 0, by decide, by decide⟩, ⟨hosted.next.modPack fun p => { p with hostq := [] }, .read 0 8, by decide, by decide⟩,
    ⟨hosted.next, 9, _, _, rfl, by decide, by decide⟩, ⟨hosted.next, 8, _, _, rfl, by decide, by decide⟩,
    ⟨here id, by decide⟩, ⟨15, 1023, 3, rfl, by decide⟩,
    region_ 0 fun g => { g with state := 4 }, (0, { (State.reset.next.region 0) with state := 4 }), List.mem_cons_self .., rfl⟩

/-- Region 15 in HOLDOVER, changed. -/
def holding (f : Region → Region) : State := region_ 15 fun g => f { g with state := 3 }

theorem meets_RegionStates_hem :
    (∃ (r : RegionId) (s : State), (s.next.region r.val).wantStop = false ∧ (s.next.region r.val).wantPre = false ∧
      (s.next.region r.val).rsync = true) ∧
    (∃ (r : RegionId) (s : State), (s.next.region r.val).wantStop = false ∧ (s.next.region r.val).wantPre = false ∧
      (s.next.region r.val).rsync = false ∧ (s.next.region r.val).state = 3 ∧ (s.next.region r.val).wantRelock = true ∧
      (s.next.region r.val).wantPark = true) ∧
    (∃ (r : RegionId) (s : State), (s.next.region r.val).wantStop = false ∧ (s.next.region r.val).wantPre = false ∧
      (s.next.region r.val).rsync = false ∧ (s.next.region r.val).state = 3 ∧ (s.next.region r.val).wantRelock = false ∧
      (s.next.region r.val).wantPark = true) ∧
    ∃ (r : RegionId) (s : State), (s.next.region r.val).wantStop = false ∧ (s.next.region r.val).wantPre = false ∧
      (s.next.region r.val).rsync = false ∧ (s.next.region r.val).state = 3 ∧ (s.next.region r.val).wantRelock = false ∧
      (s.next.region r.val).wantPark = false :=
  ⟨⟨0, region_ 0 fun g => { g with rsync := true }, by decide, by decide, by decide⟩,
    ⟨15, holding fun g => { g with wantRelock := true, wantPark := true }, by decide, by decide, by decide, by decide, by decide, by decide⟩,
    ⟨15, holding fun g => { g with wantPark := true }, by decide, by decide, by decide, by decide, by decide, by decide⟩,
    15, holding id, by decide, by decide, by decide, by decide, by decide, by decide⟩

theorem meets_ClearsAndWindow_numbers :
    (∃ (num : BitVec 14) (u : Nat), u = 15 ∧ num.toNat = 0x1602 + 4 * u) ∧ (∃ (num : BitVec 14) (g : Nat), g = 63 ∧ num.toNat = 0x1703 + 8 * g) ∧
    (∃ num : BitVec 14, num.toNat = 0x1BF) ∧ (∃ (num : BitVec 14) (j : Nat), j = 3 ∧ num.toNat = fleetNumber j) ∧ ∃ num : BitVec 14, num.toNat = 0x26 :=
  ⟨⟨0x163E, 15, rfl, by decide⟩, ⟨0x18FB, 63, rfl, by decide⟩, ⟨0x1BF, by decide⟩, ⟨0x176, 3, rfl, by decide⟩, 0x26, by decide⟩

theorem meets_PairSlots_refused :
    (∃ s : State, isControl s.n = true ∧ readable s 3 = true ∧ (s.rs 3).toNat = 2 ^ 13) ∧
    (∃ s : State, isControl s.n = true ∧ readable s 3 = true ∧ (s.rs 3).toNat = 2 ^ 12) ∧
    (∃ s : State, isControl s.n = true ∧ readable s 3 = true ∧ (s.rs 3).toNat % 2 ^ 9 = 384 ∧ (s.rs 3).toNat < 2 ^ 12) ∧
    (∃ s : State, isControl s.n = true ∧ readable s 3 = true ∧ (s.rs 3).toNat < 2 ^ 12 ∧ clusOf ((s.rs 3).toNat % 2 ^ 9) ≠ s.clus) ∧
    (∃ s : State, isControl s.n = true ∧ readable s 3 = true ∧ (s.rs 3).toNat < 2 ^ 12 ∧ clusOf ((s.rs 3).toNat % 2 ^ 9) = s.clus ∧
      (s.next.region (s.next.regionOf (clusOf ((s.rs 3).toNat % 2 ^ 9)))).frozen = false) ∧
    (∃ s : State, isControl s.n = true ∧ readable s 3 = true ∧ (s.rs 3).toNat < 2 ^ 12 ∧
      (s.next.region (s.next.regionOf (clusOf ((s.rs 3).toNat % 2 ^ 9)))).frozen = true ∧
      ∀ r ∈ (s.next.region (s.next.regionOf (clusOf ((s.rs 3).toNat % 2 ^ 9)))).recs, r.core ≠ (s.rs 3).toNat % 2 ^ 9 ∨
        r.ctx ≠ (s.rs 3).toNat / 2 ^ 9 % 8) ∧
    (∃ (s : State) (r : FreezeRec), isControl s.n = true ∧ readable s 3 = true ∧ (s.rs 3).toNat < 2 ^ 12 ∧
      (s.next.region (s.next.regionOf (clusOf ((s.rs 3).toNat % 2 ^ 9)))).recOf ((s.rs 3).toNat % 2 ^ 9) ((s.rs 3).toNat / 2 ^ 9 % 8) = some r ∧
      r.kind = 1 ∧ r.act ≠ none) ∧
    ∃ (s : State) (r : FreezeRec), isControl s.n = true ∧ readable s 3 = true ∧ (s.rs 3).toNat % 2 ^ 9 < 384 ∧
      clusOf ((s.rs 3).toNat % 2 ^ 9) = s.clus ∧ (s.next.region (s.next.regionOf (clusOf ((s.rs 3).toNat % 2 ^ 9)))).frozen = true ∧
      (s.next.region (s.next.regionOf (clusOf ((s.rs 3).toNat % 2 ^ 9)))).recOf ((s.rs 3).toNat % 2 ^ 9) ((s.rs 3).toNat / 2 ^ 9 % 8) = some r ∧
      r.act = none :=
  ⟨⟨pair_ [(3, 0x2000)], by decide, by decide, by decide⟩, ⟨pair_ [(3, 0x1000)], by decide, by decide, by decide⟩,
    ⟨pair_ [(3, 384)], by decide, by decide, by decide, by decide⟩, ⟨pair_ [(3, 8)], by decide, by decide, by decide, by decide⟩,
    ⟨pair_ [(3, 0)], by decide, by decide, by decide, by decide, by decide⟩,
    ⟨frozen_ 0 1 4 false, by decide, by decide, by decide, by decide, by decide⟩,
    ⟨(frozen_ 0x200 1 4 false).mod fun m => m.modRegion 0 fun g => { g with recs := g.recs.map fun r => { r with act := some .rewind } }, _, by decide,
      by decide, by decide, rfl, by decide, by decide⟩,
    frozen_ 0x200 1 4 false, _, by decide, by decide, by decide, by decide, by decide, rfl, by decide⟩

/-- A performing cycle of cluster 0 in which the set of address 0 has those ways. -/
def tagged (ws : SMap Way) : Perf :=
  let m := State.reset.next.modCl 0 fun c => { c with tags := wr c.tags 0 { TagSet.init with ways := ws } }
  { old := m, m := m, fix := [] }

theorem meets_TagTable_lookup :
    (∃ (p : Perf) (q : Pending) (va : Word) (d land w : Nat) (t : TagSet), q.acc = .lookup va d land ∧ (p.m.core q.core).twin = 0 ∧
      t = (p.m.cl (clusOf q.core)).tagSet va ∧ w = 7 ∧ ((rd t.ways w).valid = true ∧ (rd t.ways w).tag.toNat = va.toNat / 2 ^ 18 % 2 ^ 39) ∧
      (∀ j : Nat, j < w → ¬ ((rd t.ways j).valid = true ∧ (rd t.ways j).tag.toNat = va.toNat / 2 ^ 18 % 2 ^ 39)) ∧ p.m.mute q.core q.ctx = false) ∧
    (∃ (p : Perf) (q : Pending) (va : Word) (d land w : Nat) (t : TagSet), q.acc = .lookup va d land ∧ (p.m.core q.core).twin = 0 ∧
      t = (p.m.cl (clusOf q.core)).tagSet va ∧
      (∀ j : Nat, j < 8 → ¬ ((rd t.ways j).valid = true ∧ (rd t.ways j).tag.toNat = va.toNat / 2 ^ 18 % 2 ^ 39)) ∧ w = 7 ∧
      (rd t.ways w).valid = false ∧ ∀ j : Nat, j < w → (rd t.ways j).valid = true) ∧
    ∃ (p : Perf) (q : Pending) (va : Word) (d land : Nat) (t : TagSet), q.acc = .lookup va d land ∧ (p.m.core q.core).twin = 0 ∧
      t = (p.m.cl (clusOf q.core)).tagSet va ∧
      (∀ j : Nat, j < 8 → ¬ ((rd t.ways j).valid = true ∧ (rd t.ways j).tag.toNat = va.toNat / 2 ^ 18 % 2 ^ 39)) ∧
      ∀ j : Nat, j < 8 → (rd t.ways j).valid = true :=
  ⟨⟨tagged (SMap.tab 8 fun i => { valid := true, tag := BitVec.ofNat 39 (7 - i) }), access_ (.lookup 0 3 4), _, _, _, _, _, rfl, by decide, rfl, rfl, by decide,
      by decide, by decide⟩,
    ⟨tagged (SMap.tab 7 fun _ => { valid := true, tag := 1 }), access_ (.lookup 0 3 4), _, _, _, _, _, rfl, by decide, rfl, by decide, rfl, by decide, by decide⟩,
    tagged (SMap.tab 8 fun _ => { valid := true, tag := 1 }), access_ (.lookup 0 0 4), _, _, _, _, rfl, by decide, rfl, by decide, by decide⟩

/-- Core 0 whose context 0 stands in a run. -/
def running_ (r : Run) : Mach := (at_ 0 fun m => (m.modCtx 0 0 fun c => { c with run := r }).modCore 0 fun c => { c with cur := some 0 }).next

theorem meets_RunControl_again :
    (∃ (m : Mach) (n x t : Nat), (m.ctx n x).run = .at t) ∧ (∃ (m : Mach) (n x t : Nat), (m.ctx n x).run = .cyc t) ∧
    (∃ (m : Mach) (n x w i : Nat), (m.ctx n x).run = .fence w i ∧ ∀ j : Nat, j < 6 → w.testBit j = true) ∧
    (∃ (m : Mach) (n x : Nat) (k i t : Nat) (cs : List Nat), (m.ctx n x).run = .drain k i t cs ∧ k = 4) ∧
    (∃ (m : Mach) (n x : Nat) (c : Copy) (k i t : Nat) (cs : List Nat), c.ctx = x ∧ (m.ctx n x).run = .drain k i t cs ∧ c.issued + 1 = i) ∧
    (∃ (m : Mach) (n x k i t u : Nat) (cs : List Nat), (m.ctx n x).run = .drain k i t cs ∧ ∃ c ∈ cs, c = u) ∧
    (∃ (m : Mach) (r n x a t : Nat) (ns : List Nat), n ∈ m.coresOf r ∧ m.atBarrier n = some (x, t) ∧ ns = m.participants n x ∧
      ∀ p ∈ ns, ∃ y u : Nat, m.atBarrier p = some (y, u) ∧ u + barrierLat ns = a + 1 ∧ m.working p u a (m.region 0).count = false) ∧
    (∃ (m : Mach) (r n x a t : Nat) (ns : List Nat), n ∈ m.coresOf r ∧ m.atBarrier n = some (x, t) ∧ ns = m.participants n x ∧
      ∃ p ∈ ns, ∀ y u : Nat, m.atBarrier p = some (y, u) → a + 1 < u + barrierLat ns) ∧
    (∃ ns : List Nat, ns ≠ [] ∧ ∀ p ∈ ns, ∀ q ∈ ns, clusOf p = clusOf q) ∧
    (∃ ns : List Nat, ns ≠ [] ∧ ∃ p ∈ ns, ∃ q ∈ ns, clusOf p / 12 ≠ clusOf q / 12) ∧
    ∃ ns : List Nat, ns ≠ [] ∧ (∀ p ∈ ns, ∀ q ∈ ns, clusOf p / 12 = clusOf q / 12) ∧ ∃ p ∈ ns, ∃ q ∈ ns, clusOf p ≠ clusOf q :=
  ⟨⟨running_ (.at 7), 0, 0, 7, rfl⟩, ⟨running_ (.cyc 7), 0, 0, 7, rfl⟩, ⟨running_ (.fence 63 5), 0, 0, _, _, rfl, by decide⟩,
    ⟨running_ (.drain 4 5 9 [20]), 0, 0, _, _, _, _, rfl, rfl⟩, ⟨running_ (.drain 4 5 9 []), 0, 0, { (default : Copy) with issued := 4 }, _, _, _, _, rfl, rfl, rfl⟩,
    ⟨running_ (.drain 4 5 9 [20]), 0, 0, _, _, _, 20, _, rfl, 20, by decide, rfl⟩,
    ⟨running_ (.sstep 0), 0, 0, 0, 3, 0, _, by decide, by decide, rfl, fun p h => ⟨0, 0, by
      have : p = 0 := List.mem_singleton.1 h
      subst this; decide⟩⟩,
    ⟨running_ (.sstep 0), 0, 0, 0, 2, 0, _, by decide, by decide, rfl, 0, by decide, fun y u h => by
      have : some (0, 0) = some (y, u) := h
      cases this; decide⟩,
    ⟨[0, 7], by decide, by decide⟩, ⟨[0, 383], by decide, by decide⟩, [0, 95], by decide, by decide, by decide⟩

theorem meets_LaneValues_floats :
    (∃ (i : Instr) (e : VEnv) (k w : Nat) (v : FVal), fmtV e.fmt = 2 ∧ w = fmtWidth (fmtV e.fmt) ∧ k + 1 = 768 / w ∧
      floatElt (fmtV e.fmt) (fmtRM e.fmt) i e k = some v) ∧
    (∃ (ts : List FVal) (lo : Int), ts ≠ [] ∧ ∀ t ∈ ts, ∃ (s : Bool) (m : Nat) (x : Int), t = .fin s m x ∧ lo ≤ x) ∧
    (∃ ts : List FVal, FVal.nan ∉ ts ∧ .inf true ∈ ts ∧ .inf false ∈ ts) ∧
    (∃ (ts : List FVal) (s : Bool), .inf s ∈ ts ∧ FVal.nan ∉ ts ∧ FVal.inf (!s) ∉ ts) ∧
    (∃ (e : VEnv) (w k : Nat) (f : Nat → Nat), crossElt (.vpackh false 1 2 3) e = some (w, f) ∧ accepts e.fmt (.vpackh false 1 2 3) = true ∧ k + 1 = 768 / w) ∧
    (∃ (e : VEnv) (w k : Nat) (f : Nat → Nat), crossElt (.vscan false 1 2 3) e = some (w, f) ∧ accepts e.fmt (.vscan false 1 2 3) = true ∧ k + 1 = 768 / w) ∧
    (∃ (e : VEnv) (w k : Nat) (f : Nat → Nat), crossElt (.vbsum false 1 2) e = some (w, f) ∧ accepts e.fmt (.vbsum false 1 2) = true ∧ k + 1 = 768 / w) ∧
    (∃ (e : VEnv) (w k : Nat) (f : Nat → Nat), crossElt (.vbmax false 1 2) e = some (w, f) ∧ accepts e.fmt (.vbmax false 1 2) = true ∧ k + 1 = 768 / w) ∧
    (∃ (e : VEnv) (w k : Nat) (f : Nat → Nat), crossElt (.vaddw false 1 2 3) e = some (w, f) ∧ accepts e.fmt (.vaddw false 1 2 3) = true ∧ k + 1 = 768 / w) ∧
    (∃ (e : VEnv) (w k : Nat) (f : Nat → Nat), crossElt (.vmacw false 1 2 3) e = some (w, f) ∧ accepts e.fmt (.vmacw false 1 2 3) = true ∧ k + 1 = 768 / w) ∧
    (∃ (e : VEnv) (w k : Nat) (f : Nat → Nat), crossElt (.vcvt false 1 2 1) e = some (w, f) ∧ accepts e.fmt (.vcvt false 1 2 1) = true ∧ k + 1 = 768 / w) ∧
    (∃ (e : VEnv) (w k : Nat) (f : Nat → Nat), crossElt (.vunpk false 1 2 2) e = some (w, f) ∧ accepts e.fmt (.vunpk false 1 2 2) = true ∧ k + 1 = 768 / w) ∧
    (∃ (e : VEnv) (w k : Nat) (f : Nat → Nat), crossElt (.vdq8 false 1 2 3) e = some (w, f) ∧ accepts e.fmt (.vdq8 false 1 2 3) = true ∧ k + 1 = 768 / w) ∧
    (∃ (e : VEnv) (w k : Nat) (f : Nat → Nat), crossElt (.vrand false 1 2 3) e = some (w, f) ∧ accepts e.fmt (.vrand false 1 2 3) = true ∧ k + 1 = 768 / w) ∧
    (∃ (p : BitVec 2) (e : VEnv), fmtV e.fmt ≤ 8 ∧ fmtW e.fmt ≤ 8 ∧ fmtWidth (fmtW e.fmt) < fmtWidth (fmtV e.fmt) ∧
      p.toNat + 1 = fmtWidth (fmtV e.fmt) / fmtWidth (fmtW e.fmt)) ∧
    ∃ e : VEnv, fmtW e.fmt = 4 :=
  ⟨⟨.vfma false 1 2 3, words 2 0 0 0, 383, _, _, rfl, rfl, rfl, rfl⟩,
    ⟨[.fin false 3 5, .fin true 1 4], 4, by decide, fun t h => by
      rcases List.mem_cons.1 h with h | h
      · exact ⟨_, _, _, h, by decide⟩
      · exact ⟨_, _, _, List.mem_singleton.1 h, by decide⟩⟩,
    ⟨[.inf true, .inf false], by decide, by decide, by decide⟩, ⟨[.inf true], true, by decide, by decide, by decide⟩,
    ⟨words 0x10 0 0 0, 2, 383, _, rfl, by decide, rfl⟩, ⟨words 8 0 0 0, 1, 767, _, rfl, by decide, rfl⟩, ⟨words 5 0 0 0, 4, 191, _, rfl, by decide, rfl⟩,
    ⟨words 3 0 0 0, 4, 191, _, rfl, by decide, rfl⟩, ⟨words 0x65 0 0 0, 2, 383, _, rfl, by decide, rfl⟩, ⟨words 0x76 0 0 0, 4, 191, _, rfl, by decide, rfl⟩,
    ⟨words 0x01 0 0 0, 4, 191, _, rfl, by decide, rfl⟩, ⟨words 0x19 0 0 0, 2, 383, _, rfl, by decide, rfl⟩, ⟨words 0x04 0 0 0, 4, 191, _, rfl, by decide, rfl⟩,
    ⟨words 0 0 0 0, 4, 191, _, rfl, by decide, rfl⟩, ⟨3, words 0x40 0 0 0, by decide, by decide, by decide, by decide⟩, words 0x40 0 0 0, by decide⟩

theorem meets_VectorAccessesIssued_lanes :
    (∃ (i : Instr) (m : Bool) (reads : List (Nat × VCode)) (a : SReg) (dst : Option VCode) (s : State), laneSlot i = some (m, reads, a, dst) ∧ m = true ∧
      s.me.guard = false ∧ fits s) ∧
    (∃ (i : Instr) (reads : List (Nat × VCode)) (a : SReg) (dst : Option VCode) (s : State) (f : Exc), laneSlot i = some (false, reads, a, dst) ∧
      readable s a = true ∧ (∀ q ∈ reads, q.2.toNat < 120 → vReadable s q.2 = true) ∧ s.readAll reads (s.env false (s.rs a) 0) = .error f) ∧
    (∃ (i : Instr) (reads : List (Nat × VCode)) (a : SReg) (c : VCode) (s : State) (e : VEnv) (mems : List (Nat × List Nat)) (p : Nat) (f : Exc),
      laneSlot i = some (false, reads, a, some c) ∧ readable s a = true ∧ (∀ q ∈ reads, q.2.toNat < 120 → vReadable s q.2 = true) ∧
      s.readAll reads (s.env false (s.rs a) 0) = .ok (e, mems, p) ∧ s.writeV c = .error f) ∧
    (∃ (d a b : BitVec 7) (s : State) (e : VEnv) (mems : List (Nat × List Nat)) (p : Nat), vReadable s d = true ∧ vReadable s b = true ∧ a = 0 ∧
      s.readAll [(0, d), (2, b)] (s.env false (s.rs 3) 0) = .ok (e, mems, p) ∧ fmtV s.me.fmt = 1) ∧
    (∃ (b : VCode) (s : State) (e : VEnv) (mems : List (Nat × List Nat)) (p : Nat), vReadable s b = true ∧ readable s 3 = true ∧
      s.readAll [(2, b)] (s.env false (s.rs 3) 0) = .ok (e, mems, p) ∧ (s.rs 3).toNat % 2 ^ 63 % 4 ≠ 0) ∧
    (∃ (b : VCode) (s : State) (e : VEnv) (mems : List (Nat × List Nat)) (p : Nat), vReadable s b = true ∧ readable s 3 = true ∧
      s.readAll [(2, b)] (s.env false (s.rs 3) 0) = .ok (e, mems, p) ∧ (s.rs 3).getLsbD 63 = true ∧ (s.rs 3).toNat % 2 ^ 63 % 4 = 0 ∧ mems = [] ∧
      (acts e.lanes e.b 0 && !within ((s.rs 3).toNat % 2 ^ 63) e.b 0) = true) ∧
    (∃ (b : VCode) (s : State) (e : VEnv) (mems : List (Nat × List Nat)) (p : Nat), vReadable s b = true ∧ readable s 3 = true ∧
      s.readAll [(2, b)] (s.env false (s.rs 3) 0) = .ok (e, mems, p) ∧ (s.rs 3).getLsbD 63 = false ∧ mems = [] ∧
      (acts e.lanes e.b 0 && within ((s.rs 3).toNat % 2 ^ 63) e.b 0 &&
        s.inArmed ((s.rs 3).toNat % 2 ^ 63 + 4 * lane e.b 0) 4 (s.age + (6 + p))) = true) ∧
    (∃ (b : VCode) (s : State) (e : VEnv) (mems : List (Nat × List Nat)) (p : Nat), b.toNat = 120 ∧ readable s 3 = true ∧
      s.readAll [(2, b)] (s.env false (s.rs 3) 0) = .ok (e, mems, p) ∧ mems ≠ [] ∧ (s.rs 3).getLsbD 63 = false ∧
      s.me.armed = [] ∧ fits ((s.popAll [b]).access 2 (.pop mems (.vldx false 9 3 b) e [.v (s.me.phys 9)] 10))) ∧
    ∃ (b : VCode) (s : State) (e : VEnv) (mems : List (Nat × List Nat)) (p : Nat), vReadable s b = true ∧ readable s 3 = true ∧
      s.readAll [(2, b)] (s.env false (s.rs 3) 0) = .ok (e, mems, p) ∧ mems = [] ∧ (s.rs 3).getLsbD 63 = false ∧ s.me.armed = [] ∧
      ((List.range 192).any fun l => acts e.lanes e.b l && !within ((s.rs 3).toNat % 2 ^ 63) e.b l) = true ∧
      fits (((s.popAll [b]).modMe fun c => { c with gst := true }).access (6 + p) (laneWork (.vldx false 9 3 b) ((s.rs 3).toNat % 2 ^ 63) e [.v (s.me.phys 9)])) :=
  ⟨⟨.vldx true 9 3 2, _, _, _, _, unguarded, rfl, rfl, by decide, by decide⟩,
    ⟨.vstxa false 120 3 2, _, _, _, here id, _, rfl, by decide, by decide, rfl⟩,
    ⟨.vldx false 120 3 2, _, _, _, here id, _, _, _, _, rfl, by decide, by decide, rfl, rfl⟩,
    ⟨9, 0, 2, formatted 1, _, _, _, by decide, by decide, rfl, rfl, by decide⟩, ⟨2, regs [(3, 2)], _, _, _, by decide, by decide, rfl, by decide⟩,
    ⟨2, regs [(3, 0x8000000000300000)], _, _, _, by decide, by decide, rfl, by decide, by decide, rfl, by decide +kernel⟩,
    ⟨2, armed_ [(3, 0x100)], _, _, _, by decide, by decide, rfl, by decide, rfl, by decide +kernel⟩,
    ⟨120, bound (stream 1 0 false) 0 0, _, _, _, rfl, by decide, rfl, by decide, by decide, by decide, Nat.le_of_ble_eq_true rfl⟩,
    2, regs [(3, 0x300000)], _, _, _, by decide, by decide, rfl, rfl, by decide, by decide, by decide +kernel, Nat.le_of_ble_eq_true rfl⟩

theorem meets_VectorStoresWrite_reads :
    (∃ (p : Perf) (q : Pending) (c : Cluster) (a d land : Nat), (p.m.core q.core).twin = 0 ∧ c = p.old.cl (clusOf q.core) ∧ q.acc = .vload a d land ∧
      c.firstDown a 768 = none) ∧
    (∃ (p : Perf) (q : Pending) (c : Cluster) (a d tok land : Nat), (p.m.core q.core).twin = 0 ∧ c = p.old.cl (clusOf q.core) ∧
      q.acc = .fillV a d tok land ∧ c.firstDown a 768 = none) ∧
    (∃ (p : Perf) (q : Pending) (c : Cluster) (a d tok land : Nat), (p.m.core q.core).twin = 0 ∧ c = p.old.cl (clusOf q.core) ∧
      q.acc = .fillS a d tok land ∧ c.firstDown a 8 = none) ∧
    (∃ (p : Perf) (q : Pending) (c : Cluster) (a d tok land : Nat), (p.m.core q.core).twin = 0 ∧ c = p.old.cl (clusOf q.core) ∧
      q.acc = .fillP a d tok land ∧ c.firstDown a 24 = none) ∧
    (∃ (p : Perf) (q : Pending) (c : Cluster) (base r land : Nat) (ix : VWord) (e : VEnv), (p.m.core q.core).twin = 0 ∧ c = p.old.cl (clusOf q.core) ∧
      q.acc = .gather base ix e [.v r] land ∧ (acts e.lanes ix 0 && within base ix 0) = true ∧
      ∀ l : Nat, l < 192 → (acts e.lanes ix l && within base ix l) = true → c.firstDown (base + 4 * lane ix l) 4 = none) ∧
    (∃ (p : Perf) (q : Pending) (base : Nat) (ix v : VWord) (lanes : Pred) (c : Cluster), c = p.m.cl (clusOf q.core) ∧
      p.m.tracks q.core q.ctx = false ∧ c.spad.wf = true ∧ q.acc = .scatter base ix v lanes false ∧
      (∀ l : Nat, l < 192 → (acts lanes ix l && within base ix l) = true → c.firstDown (base + 4 * lane ix l) 4 = none) ∧
      (acts lanes ix 191 && within base ix 191) = true) ∧
    ∃ (p : Perf) (q : Pending) (base : Nat) (ix v : VWord) (lanes : Pred) (c : Cluster) (w : Nat), c = p.m.cl (clusOf q.core) ∧
      p.m.tracks q.core q.ctx = false ∧ c.spad.wf = true ∧ q.acc = .scatterAdd base ix v lanes 7 false ∧
      (∀ l : Nat, l < 192 → (acts lanes ix l && within base ix l) = true → c.firstDown (base + 4 * lane ix l) 4 = none) ∧
      (∀ l : Nat, l < 192 → (acts lanes ix l && within base ix l) = true → c.badB (base + 4 * lane ix l) 4 = []) ∧ w = 0 ∧
      base + 4 * w + 3 = 0x2FFFFF :=
  ⟨⟨performing, access_ (.vload 0x2FFD00 119 6), _, _, _, _, by decide, rfl, rfl, by decide⟩,
    ⟨performing, access_ (.fillV 0 119 3 8), _, _, _, _, _, by decide, rfl, rfl, by decide⟩,
    ⟨performing, access_ (.fillS 0x2FFFF8 31 15 8), _, _, _, _, _, by decide, rfl, rfl, by decide⟩,
    ⟨performing, access_ (.fillP 0x2FFFE0 15 0 8), _, _, _, _, _, by decide, rfl, rfl, by decide⟩,
    ⟨performing, access_ (.gather 0x2FFFFC 0 { (default : VEnv) with lanes := BitVec.allOnes 192 } [.v 5] 6), _, _, _, _, _, _, by decide, rfl, rfl,
      by decide +kernel, by decide +kernel⟩,
    ⟨performing, access_ (.scatter 0x2FFFFC 0 5 (BitVec.allOnes 192) false), _, _, _, _, _, rfl, by decide, by decide, rfl, by decide +kernel, by decide +kernel⟩,
    performing, access_ (.scatterAdd 0x2FFFFC 0 5 (BitVec.allOnes 192) 7 false), _, _, _, _, _, 0, rfl, by decide, by decide, rfl, by decide +kernel,
    by decide +kernel, rfl, rfl⟩

/-- A unit with three shapes and an index tile. -/
def unit_ (a b c d : Nat) (f : Matrix → Matrix) : Matrix :=
  f { (default : Matrix) with
    state := 1, takes := 12
    shapes := wr (wr (wr (wr [] 0 (BitVec.ofNat 64 a)) 1 (BitVec.ofNat 64 b)) 2 (BitVec.ofNat 64 c)) 3 (BitVec.ofNat 64 d) }

theorem meets_MicrowordsBegin_tiles :
    (∃ (u : Matrix) (b : Nat) (k : BlockOf) (T : Nat), isBlock u b k ∧ shFmt k.a ≤ 9 ∧ shFmt k.b ≤ 9 ∧ k.tm = none ∧ T = u.takes / max 1 (fld u.x 0 8) ∧
      2 ≤ T ∧ u.xdone < 65535 ∧ 0 < u.supp) ∧
    (∃ (u : Matrix) (b : Nat) (k : BlockOf) (T : Nat), isBlock u b k ∧ shFmt k.a = 9 ∧ shFmt k.b ≤ 9 ∧ k.tm = none ∧ T = u.takes / max 1 (fld u.x 0 8) ∧
      2 ≤ T ∧ u.xdone < 65535 ∧ u.supp = 0 ∧ u.g = none ∧ shRows k.c = 96) ∧
    (∃ (u : Matrix) (b : Nat) (k : BlockOf) (T : Nat) (gs : List (BitVec 32)), isBlock u b k ∧ shFmt k.a ≤ 9 ∧ shFmt k.b = 3 ∧ k.tm ≠ none ∧
      T = u.takes / max 1 (fld u.x 0 8) ∧ 2 ≤ T ∧ u.xdone < 65535 ∧ u.supp = 0 ∧ u.g = some gs ∧ shRows k.c = gs.length) ∧
    (∃ (u : Matrix) (b : Nat) (k : BlockOf) (T r : Nat) (t : Memory), isBlock u b k ∧ shFmt k.a ≤ 9 ∧ shFmt k.b ≤ 9 ∧ k.tm = none ∧
      T = u.takes / max 1 (fld u.x 0 8) ∧ 2 ≤ T ∧ u.xdone < 65535 ∧ u.supp = 0 ∧ r < shRows k.c ∧ shFmt k.a ≠ 9 ∧
      t.isBad (rowAt k.a r + 24 * k.ja * fmtWidth (shFmt k.a)) (24 * fmtWidth (shFmt k.a)) = true) ∧
    (∃ (u : Matrix) (t : Memory), u.xdone < 65535 ∧ u.supp = 0 ∧ u.op = some (.maddt 0 1 2) ∧
      t.isBad (rowAt (rd u.shapes 0) 0) (rowBytes (rd u.shapes 0)) = true) ∧
    (∃ (u : Matrix) (t : Memory), u.xdone < 65535 ∧ u.supp = 0 ∧ u.op = some (.maddt 0 1 2) ∧
      t.isBad (rowAt (rd u.shapes 0) 0) (rowBytes (rd u.shapes 0)) = false ∧ t.isBad (rowAt (rd u.shapes 1) 0) (rowBytes (rd u.shapes 1)) = false) ∧
    (∃ (u : Matrix) (i : Nat), u.xdone < 65535 ∧ u.supp = 0 ∧ u.op = some (.microMzero 2) ∧ i + 1 = u.takes) ∧
    (∃ u : Matrix, u.xdone < 65535 ∧ u.supp = 0 ∧ u.op = some (.microMldv 2 0 0 0)) ∧
    (∃ u : Matrix, u.xdone < 65535 ∧ u.supp = 0 ∧ u.op = some (.microMstv 0 0 0 0)) ∧
    (∃ (u : Matrix) (t : Memory), u.xdone < 65535 ∧ u.supp = 0 ∧ u.op = some (.mtrn 0 2) ∧ 2 ≤ u.takes ∧ shRows (rd u.shapes 0) ≠ 0 ∧
      shRows (rd u.shapes 2) = shCols (rd u.shapes 0) ∧ t.bad = []) ∧
    ∃ (p : Perf) (n age : Nat), (p.m.core n).mx.state = 1 ∧ (p.m.core n).mx.op ≠ none ∧ (p.m.core n).mx.began ≤ age ∧ (p.m.core n).still ≤ age ∧
      age < (p.m.core n).mx.began + (p.m.core n).mx.takes ∧ (p.old.core n).tile.bad = [] ∧ (p.old.core n).tile.soft = [] :=
  ⟨⟨unit_ 0 0 0 0 fun u => { u with op := some (.mmac 0 1 2 0 0 0), x := 1, supp := 3 }, 0, { a := 0, b := 0, c := 0, ja := 0, jb := 0, tm := none }, _,
      ⟨0, 1, 2, 0, 0, 0, .inl ⟨.inl rfl, rfl⟩, rfl, rfl, rfl, rfl, rfl⟩, by decide, by decide, rfl, rfl, by decide, by decide, by decide⟩,
    ⟨unit_ (9 * 2 ^ 48) 0 (96 * 2 ^ 36) 0 fun u => { u with op := some (.mmacq 0 1 2 0 0 0), x := 1 + 3 * 2 ^ 8 }, 0,
      { a := BitVec.ofNat 64 (9 * 2 ^ 48), b := 0, c := BitVec.ofNat 64 (96 * 2 ^ 36), ja := 3, jb := 0, tm := none }, _,
      ⟨0, 1, 2, 0, 0, 0, .inl ⟨.inr rfl, rfl⟩, rfl, rfl, rfl, rfl, rfl⟩, by decide, by decide, rfl, rfl, by decide, by decide, rfl, rfl, by decide⟩,
    ⟨unit_ 0 (3 * 2 ^ 48) (2 ^ 36) 7 fun u => { u with op := some (.mmacs 0 1 2 0 0 0), x := 1 + 3 * 2 ^ 24, g := some [0x3F800000] }, 0,
      { a := 0, b := BitVec.ofNat 64 (3 * 2 ^ 48), c := BitVec.ofNat 64 (2 ^ 36), ja := 0, jb := 0, tm := some 7 }, _, _,
      ⟨0, 1, 2, 0, 0, 0, .inr ⟨rfl, rfl⟩, rfl, rfl, rfl, rfl, rfl⟩, by decide, by decide, by decide, rfl, by decide, by decide, rfl, rfl, by decide⟩,
    ⟨unit_ 0 0 (2 ^ 36) 0 fun u => { u with op := some (.mmac 0 1 2 0 0 0), x := 1 }, 0,
      { a := 0, b := 0, c := BitVec.ofNat 64 (2 ^ 36), ja := 0, jb := 0, tm := none }, _, 0, { (default : Memory) with bad := [11] },
      ⟨0, 1, 2, 0, 0, 0, .inl ⟨.inl rfl, rfl⟩, rfl, rfl, rfl, rfl, rfl⟩, by decide, by decide, rfl, rfl, by decide, by decide, rfl, by decide, by decide,
      by decide⟩,
    ⟨unit_ (2 ^ 24) 0 0 0 fun u => { u with op := some (.maddt 0 1 2) }, { (default : Memory) with bad := [0] }, by decide, rfl, rfl, by decide⟩,
    ⟨unit_ (2 ^ 24) 0 0 0 fun u => { u with op := some (.maddt 0 1 2) }, default, by decide, rfl, rfl, by decide, by decide⟩,
    ⟨unit_ 0 0 0 0 fun u => { u with op := some (.microMzero 2) }, 11, by decide, rfl, rfl, rfl⟩,
    ⟨unit_ 0 0 0 0 fun u => { u with op := some (.microMldv 2 0 0 0) }, by decide, rfl, rfl⟩,
    ⟨unit_ 0 0 0 0 fun u => { u with op := some (.microMstv 0 0 0 0) }, by decide, rfl, rfl⟩,
    ⟨unit_ (96 * 2 ^ 36 + 2 ^ 24) 0 (2 ^ 36 + 96 * 2 ^ 24) 0 fun u => { u with op := some (.mtrn 0 2) }, default, by decide, rfl, rfl, by decide, by decide,
      by decide, rfl⟩,
    { old := State.reset.next, m := State.reset.next.modCore 0 fun c => { c with mx := unit_ 0 0 0 0 fun u => { u with op := some (.mnop 0) } }, fix := [] }, 0, 11,
      by decide, by decide, by decide, by decide, by decide, by decide, by decide⟩

/-- A message of group 5 from member 0, with two data fragments. -/
def incoming (n : Nat) (buf : Bool) : Incoming :=
  { (default : Incoming) with group := 5, k := 2, len := 64, cls := 7, frags := (List.range n).map fun i => (i, List.replicate 32 5), buf := buf }

/-- Core 0 has the task of type 0 queued at its head, with a type entry and ranges in use. -/
def fitting (e : Nat) (as : List Allot) : Mach := ((queued { (default : QEnt) with state := .queued, words := [0] }).mod fun m => m.modCl 0 fun c => { c with
  allots := as
  regs := (List.range 4).foldl (fun r w => wr r (0x200 + w) (BitVec.ofNat 64 (e / 2 ^ (64 * w)))) c.regs }).next

theorem meets_DispatcherAndFabric_closes :
    (∃ (k : ClusterId) (s : State) (is : List Incoming) (i j : Incoming),
      is = sortOn Incoming.order ((s.next.cl k.val).inc.filter fun i => !i.closed && decide (i.close ≤ (s.next.region 0).count)) ∧ is = [i, j] ∧
      (closedAs i).lost = true ∧ (closedAs j).lost = false) ∧
    (∃ (n len : Nat) (frags : List (Nat × List Byte)) (bs : Nat → List Byte), n = 2 ∧
      ∀ i : Nat, i < n → (frags.find? fun q => q.1 == i) = some (i, bs i) ∧ (bs i).length = fragLen len n) ∧
    (∃ (m : Mach) (n l e : Nat) (q : QEnt) (x v u w : Nat), m.head n l = some q ∧ e = (m.cl (clusOf n)).type (recType (headOf q.words)) ∧
      m.freeCtx n = some x ∧ lowestFit ((m.cl (clusOf n)).inUse 0 n (m.pair (clusOf n)).save) 64 (fld e 64 4) v ∧
      lowestFit ((m.cl (clusOf n)).inUse 1 n (m.pair (clusOf n)).save) 768 (fld e 80 10) u ∧
      lowestFit ((m.cl (clusOf n)).inUse 2 n (m.pair (clusOf n)).save) 256 (fld e 96 9) w ∧ v = 1 ∧ typeBad e = false) ∧
    (∃ (m : Mach) (n l e : Nat) (q : QEnt) (x v u w : Nat), m.head n l = some q ∧ e = (m.cl (clusOf n)).type (recType (headOf q.words)) ∧
      m.freeCtx n = some x ∧ lowestFit ((m.cl (clusOf n)).inUse 0 n (m.pair (clusOf n)).save) 64 (fld e 64 4) v ∧
      lowestFit ((m.cl (clusOf n)).inUse 1 n (m.pair (clusOf n)).save) 768 (fld e 80 10) u ∧
      lowestFit ((m.cl (clusOf n)).inUse 2 n (m.pair (clusOf n)).save) 256 (fld e 96 9) w ∧ typeBad e = true) ∧
    ∃ (m : Mach) (n l e : Nat) (q : QEnt), m.head n l = some q ∧ e = (m.cl (clusOf n)).type (recType (headOf q.words)) ∧ fld e 80 10 ≤ 736 ∧
      fld e 96 9 ≤ 256 ∧ ∀ v : Nat, ¬lowestFit ((m.cl (clusOf n)).inUse 0 n (m.pair (clusOf n)).save) 64 (fld e 64 4) v := by
  refine ⟨⟨0, at_ 0 fun m => m.modCl 0 fun c => { c with inc := [{ incoming 2 true with seq := 1 }, incoming 1 true] }, _,
      incoming 1 true, { incoming 2 true with seq := 1 }, rfl, by decide +kernel, by decide +kernel, by decide +kernel⟩,
    ⟨2, 64, (List.range 2).map fun i => (i, List.replicate 32 5), fun _ => List.replicate 32 5, rfl, by decide⟩,
    ⟨fitting (2 ^ 64 + 2 ^ 80 + 2 ^ 32 + 2 ^ 15) [{ kind := 0, core := 0, start := 0, len := 1, uid := 9, until_ := none }], 0, 0, _, _, 1, 1, 0, 0, rfl, rfl,
      by decide, ⟨by decide, fun s h => ?_⟩, ⟨by decide, fun s h => absurd h (Nat.not_lt_zero s)⟩, ⟨by decide, fun s h => absurd h (Nat.not_lt_zero s)⟩, rfl,
      by decide⟩,
    ⟨fitting 0 [], 0, 0, _, _, 1, 0, 0, 0, rfl, rfl, by decide, ⟨by decide, fun s h => absurd h (Nat.not_lt_zero s)⟩,
      ⟨by decide, fun s h => absurd h (Nat.not_lt_zero s)⟩, ⟨by decide, fun s h => absurd h (Nat.not_lt_zero s)⟩, by decide⟩,
    fitting (2 ^ 64 + 2 ^ 80 + 2 ^ 32 + 2 ^ 15) [{ kind := 0, core := 0, start := 0, len := 64, uid := 9, until_ := none }], 0, 0, _, _, rfl, rfl, by decide, by decide,
    fun v h => ?_⟩
  · have : s = 0 := by omega
    subst this; rintro ⟨-, h2⟩; exact absurd (h2 (0, 1) (by decide)) (by decide)
  · have h1 : v + 1 ≤ 64 := h.1.1
    have h2 : v + 1 ≤ 0 ∨ 0 + 64 ≤ v := h.1.2 (0, 64) (by decide)
    omega

theorem meets_HostAndSideband_scrub :
    (∃ (c : Fin 16) (block bad w : Nat) (s : State), w = (rd s.next.pack.weak (blockPa c.val block / 64)).val + bad ∧
      blockPa c.val block < 0x7800000000 ∧ w = 3 ∧ bad = 1) ∧
    (∃ (c : Fin 16) (block bad w : Nat) (s : State), w = (rd s.next.pack.weak (blockPa c.val block / 64)).val + bad ∧
      blockPa c.val block < 0x7800000000 ∧ w = 2 ∧ s.next.pack.dev.isBad (blockPa c.val block) 64 = false) ∧
    ∃ s : State, s.next.pack.clean = true :=
  ⟨⟨15, 1023, 1, 3, at_ 0 fun m => m.modPack fun p => { p with weak := wr p.weak (blockPa 15 1023 / 64) 2 }, by decide, by decide, rfl, rfl⟩,
    ⟨15, 1023, 2, 2, here id, by decide, by decide, rfl, by decide⟩, here id, by decide⟩

end Sys2Proof.Tests
end

section
/-! PROOFS. Rules that slots of every class use: operands that the statements call readable pass their checks, tables read back, and updates
that put no result in flight leave the count of R380 as it was. -/

namespace Sys2Proof.Machine

open Sys2Proof.Claims

/-! ### tables -/

/-- A list of entries written by a function gives that function's value at every index it holds. -/
theorem rd_map_pair {α : Type} [Inhabited α] (l : List Nat) (f : Nat → α) (k : Nat) :
    rd (l.map fun i => (i, f i)) k = if k ∈ l then f k else default := by
  induction l with
  | nil => simp
  | cons j l ih =>
    rw [List.map_cons, rd_cons, ih]
    by_cases h : j = k
    · simp [h]
    · simp [h, Ne.symm h]

theorem rd_tab {α : Type} [Inhabited α] (n : Nat) (f : Nat → α) (k : Nat) : rd (SMap.tab n f) k = if k < n then f k else default := by
  simp [SMap.tab, rd_map_pair]

/-! ### checks -/

/-- A check before the rest of a slot: its fault, or the rest. -/
theorem when_bind {α : Type} (c : Bool) (e : Exc) (r : Except Exc α) : (do when c e; r) = if c = true then .error e else r := by
  cases c <;> rfl

/-! ### operands (R119, R161) -/

/-- Scalar operands that are readable pass EARLY and POISON. -/
theorem chkS_readable (s : State) (rs : List SReg) (h : ∀ r ∈ rs, readable s r = true) : s.chkS rs = .ok () :=
  chkS_ok s rs fun r hr h0 => Or.resolve_left (by simpa [readable] using h r hr) h0

/-- Vector and predicate operands that are readable pass EARLY and POISON; a bobbin is no register. -/
theorem chkV_readable (s : State) (vs : List VCode) (ps : List PReg) (np : Bool)
    (hv : ∀ v ∈ vs, v.toNat < 120 → vReadable s v = true) (hp : ∀ p ∈ ps, pReadable s p = true) : s.chkV vs ps np = .ok () := by
  refine chkV_ok s vs ps np (fun v hm hl => ?_) fun p hm h0 => Or.resolve_left (by simpa [pReadable] using hp p hm) h0
  obtain ⟨hf, hq⟩ : s.me.filling 0 (s.me.phys v.toNat) = false ∧ (rd s.myCore.v (s.me.phys v.toNat)).poison = false := by
    simpa [vReadable, hl] using hv v hm hl
  exact ⟨hf, fun _ => hq⟩

/-! ### results in flight (R380) -/

/-- A change of a core that keeps its engines brings no register result. -/
theorem Mach.modCore_coming (m : Mach) (n j x : Nat) (f : Core → Core) (h : (f (m.core n)).eng = (m.core n).eng) :
    (m.modCore n f).coming j x = m.coming j x := by
  have hc : ((m.modCore n f).core j).copies = (m.core j).copies := by
    rw [Mach.modCore_core]
    split
    next e => subst e; simp only [Core.copies, h]
    next => rfl
  simp only [Mach.coming, hc, Mach.modCore_cl_kept, Mach.modCore_tile]

/-- A change of the issuing core that keeps its contexts and engines leaves the count as it was. -/
theorem flying_modMyCore (s : State) (f : Core → Core) (hx : (f (s.next.core s.n)).ctxs = (s.next.core s.n).ctxs)
    (he : (f (s.next.core s.n)).eng = (s.next.core s.n).eng) : (s.modMyCore f).flying = s.flying := by
  simp only [State.flying, State.modMyCore_next, State.modMyCore_n, State.modMyCore_x, Mach.modCore_ctx _ _ _ _ _ hx,
    Mach.modCore_coming _ _ _ _ _ he]

/-- Accesses of the tile store that write no register leave the count as it was. -/
theorem flying_tile (s : State) (l : List TilePending) (h : ∀ q ∈ l, q.acc.regs = []) :
    (s.mod fun m => { m with tile := up m.tile s.n fun k => k ++ l }).flying = s.flying := by
  have hl : ((l.filter fun q => q.ctx == s.x).flatMap fun q =>
      q.acc.regs.map fun (k, i, t) => ({ due := q.due + t, ord := q.ord, kind := k, num := i } : Coming)) = [] :=
    List.flatMap_eq_nil_iff.2 fun q hq => by rw [h q (List.mem_filter.1 hq).1]; rfl
  have hc : ({ s.next with tile := up s.next.tile s.n fun k => k ++ l } : Mach).coming s.n s.x = s.next.coming s.n s.x := by
    simp only [Mach.coming, rd_up_self, List.filter_append, List.flatMap_append, hl, List.append_nil]
    rfl
  simp only [State.flying, State.mod_next, State.mod_n, State.mod_x, hc]
  rfl

end Sys2Proof.Machine
end

section
/-! PROOFS. The slots of class 8: one equation for each says in which order it checks and what it does (R209 to R216, R233, R234). -/

namespace Sys2Proof.Machine

open Sys2Proof.Claims

/-! ### mcall and mresume (R216, R234) -/

/-- The entry of a routine that an MCALL reads: of the active microcode plane. -/
def State.routine (s : State) (i : BitVec 10) : Nat := (rd (s.myCore.planeOf 1).rout i.toNat).toNat

/-- An entry of the routine table that R215 takes for a routine: V is 1, PATH is at most 4, reserved bits are 0. -/
def routineValid (e : Nat) : Bool := fldB e 16 && decide (fld e 17 3 < 5 ∧ fld e 20 12 = 0 ∧ fld e 13 3 = 0)

theorem routineValid_iff (e : Nat) : routineValid e = true ↔ fldB e 16 = true ∧ fld e 17 3 < 5 ∧ fld e 20 12 = 0 ∧ fld e 13 3 = 0 := by
  simp [routineValid]

theorem routineValid_false (e : Nat) :
    routineValid e = false ↔ fldB e 16 = false ∨ 5 ≤ fld e 17 3 ∨ fld e 20 12 ≠ 0 ∨ fld e 13 3 ≠ 0 := by
  rw [← Bool.not_eq_true, routineValid_iff]
  by_cases h : fldB e 16 <;> simp [h]
  omega

/-- The check of an MCALL for OPER 14. -/
theorem routine_refused (e : Nat) : (!fldB e 16 || decide (5 ≤ fld e 17 3 ∨ fld e 20 12 ≠ 0 ∨ fld e 13 3 ≠ 0)) = !routineValid e := by
  rw [Bool.eq_iff_iff, Bool.not_eq_true', routineValid_false]
  simp

/-- The unit's state after an MCALL of an entry, from the state that it replaces. -/
def State.calledMx (s : State) (i : BitVec 10) (e : Nat) (x : Matrix) : Matrix :=
  { (default : Matrix) with
    state := 1, rout := i.toNat, stepa := fld e 0 13, upc := fld e 0 13, npc := fld e 0 13, path := fld e 17 3
    w := paramsOf s.myCore.m, wsnap := paramsOf s.myCore.m, shapes := s.myCore.shapes, plane := bnat (s.myCore.active.getLsbD 1)
    fmt := s.me.fmt, vwb := s.me.vwb, vws := s.me.vws, ctx := s.x, owner := s.x, ownerUid := s.uid
    nextAt := s.age + 4, called := s.age, mres := x.mres }

/-- The unit's state after an MRESUME, from the state of the held routine. -/
def State.resumedMx (s : State) (x : Matrix) : Matrix :=
  { x with
    state := 1, cause := 0, npc := x.stepa, w := x.wsnap, supp := x.xdone, xdone := 0, nextAt := s.age + 4, called := s.age, owner := s.x
    ownerUid := s.uid }

/-- MBUSY, then OPER 14 of the entry, then OPER 10 of the formats; else the routine starts. -/
theorem exec_mcall (i : BitVec 10) (s : State) :
    exec (.mcall i) s = issue s (
      if s.myCore.mx.state = 1 then .error (exc cMBUSY (s.info 0))
      else if routineValid (s.routine i) = false then .error (exc cOPER (s.info 14))
      else if pathAdmits (fld (s.routine i) 17 3) (fmtA s.me.fmt) (fmtB s.me.fmt) = false then .error (exc cOPER (s.info 10))
      else .ok (s.mod fun m => m.modMx s.n (s.calledMx i (s.routine i)))) := by
  show execMcall i s = _
  simp only [execMcall, when_bind, beq_iff_eq, routine_refused, Bool.not_eq_true', State.routine]
  rfl

/-- MBUSY, then OPER 17 of a unit that holds no routine of the active plane; else the routine goes on. -/
theorem exec_mresume (s : State) :
    exec .mresume s = issue s (
      if s.myCore.mx.state = 1 then .error (exc cMBUSY (s.info 0))
      else if s.myCore.mx.state = 2 ∧ s.myCore.mx.plane = bnat (s.myCore.active.getLsbD 1) then .ok (s.mod fun m => m.modMx s.n s.resumedMx)
      else .error (exc cOPER (s.info 17))) := by
  have h17 : (s.myCore.mx.state != 2 || s.myCore.mx.plane != bnat (s.myCore.active.getLsbD 1)) = true ↔
      ¬(s.myCore.mx.state = 2 ∧ s.myCore.mx.plane = bnat (s.myCore.active.getLsbD 1)) := by
    rw [Bool.or_eq_true, bne_iff_ne, bne_iff_ne, Decidable.not_and_iff_not_or_not]
  show execMresume s = _
  simp only [execMresume, when_bind, beq_iff_eq, h17, ite_not]
  rfl

/-- The unit's update of the state that it finds is an update to a state known beforehand. -/
theorem modMx_const (s : State) (f : Matrix → Matrix) :
    (s.mod fun m => m.modMx s.n f) = s.mod fun m => m.modMx s.n fun _ => f (s.next.core s.n).mx := rfl

/-- A change of the unit's state puts no result in flight. -/
theorem flying_modMx (s : State) (f : Matrix → Matrix) : (s.mod fun m => m.modMx s.n f).flying = s.flying :=
  flying_modMyCore s _ rfl rfl

/-- An MCALL that passes its checks starts the routine. -/
theorem exec_mcall_starts (i : BitVec 10) (s : State) (hb : s.myCore.mx.state ≠ 1) (hv : routineValid (s.routine i) = true)
    (hp : pathAdmits (fld (s.routine i) 17 3) (fmtA s.me.fmt) (fmtB s.me.fmt) = true) (hs : fits s) :
    exec (.mcall i) s = .next (s.mod fun m => m.modMx s.n fun _ => s.calledMx i (s.routine i) (s.next.core s.n).mx) := by
  rw [exec_mcall, if_neg hb, if_neg (by simp [hv]), if_neg (by simp [hp]), issue_ok _ _ (by rwa [flying_modMx]), modMx_const]

/-- An MRESUME of a held routine of the active plane restarts it. -/
theorem exec_mresume_restarts (s : State) (h : s.myCore.mx.state = 2) (hp : s.myCore.mx.plane = bnat (s.myCore.active.getLsbD 1))
    (hs : fits s) : exec .mresume s = .next (s.mod fun m => m.modMx s.n fun _ => s.resumedMx (s.next.core s.n).mx) := by
  rw [exec_mresume, if_neg (by simp [h]), if_pos ⟨h, hp⟩, issue_ok _ _ (by rwa [flying_modMx]), modMx_const]

/-- The working parameters that a routine starts with: m0 to m7, and zeros (R216). -/
theorem rd_paramsOf (m : SMap (BitVec 32)) (j : Nat) (h : j < 16) : rd (paramsOf m) j = if j < 8 then rd m j else 0 := by
  simp only [paramsOf, rd_tab, if_pos h]

/-! ### mtsh and mpar (R209, R212) -/

theorem exec_mtsh (q : BitVec 4) (a : SReg) (s : State) (h : readable s a = true) :
    exec (.mtsh q a) s = issue s (
      if shapeOk (s.rs a) = false then .error (exc cOPER (s.info 15)) else .ok (s.setLater true q.toNat (shapeWord (s.rs a)))) := by
  show execMtsh q a s = _
  simp only [execMtsh, chkS_readable s [a] (by simpa using h), ok_bind, when_bind, Bool.not_eq_true']
  rfl

theorem exec_mpar (m : BitVec 3) (a : SReg) (s : State) (h : readable s a = true) :
    exec (.mpar m a) s = issue s (.ok (s.setLater false m.toNat (s.rs a))) := by
  show execMpar m a s = _
  simp only [execMpar, chkS_readable s [a] (by simpa using h), ok_bind]
  rfl

/-- A shape or parameter that is due puts no result in flight. -/
theorem flying_setLater (s : State) (shape : Bool) (reg : Nat) (v : Word) : (s.setLater shape reg v).flying = s.flying :=
  flying_modMyCore s _ rfl rfl

/-! ### rows (R213) -/

/-- A row is moved in once its operands are known and the tile has it; else OPER 16. -/
theorem exec_mldv (x : Bool) (q : BitVec 4) (a : VCode) (b : SReg) (s : State) (hb : readable s b = true)
    (ha : a.toNat < 120 → vReadable s a = true) :
    exec (.mldv x q a b) s = issue s (do
      let (e, mems, p) ← s.readAll [(1, a)] (s.env false 0 0)
      if shRows (s.shape q) ≤ (s.rs b).toNat then .error (exc cOPER (s.info 16))
      else .ok ((s.popAll [a]).produce (.mldv x q a b) e mems (2 + p)
        [.tile (rowSpan (s.shape q) x (s.rs b).toNat).1 (rowSpan (s.shape q) x (s.rs b).toNat).2])) := by
  show execMldv x q a b s = _
  simp only [execMldv, State.chkRow, chkS_readable s [b] (by simpa using hb), chkV_readable s [a] [] false (by simpa using ha) (by simp),
    ok_bind, when_bind, decide_eq_true_eq]
  rfl

/-- A row is moved out once its destination is known and the tile has it; else OPER 16. -/
theorem exec_mstv (x : Bool) (a : VCode) (q : BitVec 4) (b : SReg) (s : State) (hb : readable s b = true) :
    exec (.mstv x a q b) s = issue s (do
      let ds ← s.writeV a
      if shRows (s.shape q) ≤ (s.rs b).toNat then .error (exc cOPER (s.info 16))
      else .ok ((s.pushB a).mod fun m => { m with tile := up m.tile s.n fun l => l ++ ds.map fun d =>
        { ctx := s.x, ord := s.ord, due := s.age + 2
          acc := .get (rowSpan (s.shape q) x (s.rs b).toNat).1 (rowSpan (s.shape q) x (s.rs b).toNat).2 d 2 } })) := by
  show execMstv x a q b s = _
  simp only [execMstv, State.chkRow, chkS_readable s [b] (by simpa using hb), ok_bind, when_bind, decide_eq_true_eq]
  rfl

/-- The write of zeros to every row of a tile that an mzero has due. -/
def State.zeroing (s : State) (sh : Word) : TilePending :=
  { ctx := s.x, ord := s.ord, due := s.age + 2, acc := .zero ((List.range (shRows sh)).map fun r => (rowAt sh r, rowBytes sh)) }

theorem exec_mzero (q : BitVec 4) (s : State) :
    exec (.mzero q) s = issue s (
      if shRows (s.shape q) = 0 then .error (exc cOPER (s.info 16))
      else .ok (s.mod fun m => { m with tile := up m.tile s.n fun l => l ++ [s.zeroing (s.shape q)] })) := by
  show execMzero q s = _
  simp only [execMzero, when_bind, decide_eq_true_eq]
  rfl

/-- Zeros due to a tile put no result in flight. -/
theorem flying_zeroing (s : State) (sh : Word) :
    (s.mod fun m => { m with tile := up m.tile s.n fun l => l ++ [s.zeroing sh] }).flying = s.flying :=
  flying_tile s _ (by simp [State.zeroing, TileAcc.regs])

/-! ### mstat (R233) -/

/-- A word of MXSTATE: word 0, then the pairs of the working parameters, then those of their snapshot. -/
def State.mxWord (s : State) (k : Nat) : Word :=
  if k = 0 then (s.myCore.mx.seen s.age).word0
  else if k ≤ 8 then wPair s.myCore.mx.w (k - 1)
  else wPair s.myCore.mx.wsnap (k - 9)

theorem exec_mstat (d sel : BitVec 5) (s : State) :
    exec (.mstat d sel) s = issue s (if 16 < sel.toNat then .error (exc cOPER (s.info 11)) else .ok (s.putS d (s.mxWord sel.toNat) 2)) := by
  show execMstat d sel s = _
  simp only [execMstat, when_bind, decide_eq_true_eq]
  rfl

/-- The same word by the numbers of its parameters. -/
theorem mxWord_eq (s : State) (k : Nat) :
    s.mxWord k = if k = 0 then (s.myCore.mx.seen s.age).word0
      else if k ≤ 8 then rd s.myCore.mx.w (2 * k - 1) ++ rd s.myCore.mx.w (2 * k - 2)
      else rd s.myCore.mx.wsnap (2 * k - 17) ++ rd s.myCore.mx.wsnap (2 * k - 18) := by
  unfold State.mxWord wPair
  split
  next => rfl
  next h0 =>
    split
    next => rw [show 2 * (k - 1) + 1 = 2 * k - 1 by omega, show 2 * (k - 1) = 2 * k - 2 by omega]
    next h8 => rw [show 2 * (k - 9) + 1 = 2 * k - 17 by omega, show 2 * (k - 9) = 2 * k - 18 by omega]

/-! ### the statement -/

/-- Settles O43: each clause follows from the equation of its slot; mcall, mresume, mtsh, mpar and mzero put no register result in flight, so
that a state that fits still fits after them. -/
theorem matrixSlots : Obligations.MatrixSlots := by
  unfold Obligations.MatrixSlots
  refine ⟨?routines, ?settings, ?rowsIn, ?rowsOut, ?zeros, ?status⟩
  case routines =>
    rintro i s e _ he rfl
    obtain rfl : e = s.routine i := he
    refine ⟨fun hb => ?_, fun hb h14 => ?_, fun hb hv hp h20 h13 => ⟨fun h10 => ?_, fun hp' hs => ?_⟩, fun h2 hp hs => ?_, fun h17 => ?_⟩
    · constructor
      · rw [raises, exec_mcall, if_pos hb, issue_error]
      · rw [raises, exec_mresume, if_pos hb, issue_error]
    · rw [raises, exec_mcall, if_neg hb, if_pos ((routineValid_false _).2 h14), issue_error]
    · have hok := (routineValid_iff _).2 ⟨hv, hp, h20, h13⟩
      rw [raises, exec_mcall, if_neg hb, if_neg (by simp [hok]), if_pos h10, issue_error]
    · have hok := (routineValid_iff _).2 ⟨hv, hp, h20, h13⟩
      exact ⟨_, exec_mcall_starts i s hb hok hp' hs, rfl, rfl, rfl, rfl, rfl, rfl, rfl, rfl, fun j hj => rd_paramsOf _ j hj, rfl, rfl, rfl, rfl,
        rfl, rfl, rfl, rfl⟩
    · exact exec_mresume_restarts s h2 hp hs
    · rw [raises, exec_mresume, if_neg (by omega), if_neg fun ⟨h2, hp⟩ => h17.elim (fun h0 => by omega) fun h => h.2 hp, issue_error]
  case settings =>
    intro q m a s ha
    refine ⟨fun hok hs => ?_, fun hbad => ?_, fun hs => ?_⟩
    · rw [exec_mtsh q a s ha, if_neg (by simp [hok]), issue_ok _ _ (by rwa [flying_setLater])]
      rfl
    · rw [raises, exec_mtsh q a s ha, if_pos hbad, issue_error]
    · rw [exec_mpar m a s ha, issue_ok _ _ (by rwa [flying_setLater])]
  case rowsIn =>
    rintro x q a b s _ _ rfl rfl hb ha
    refine ⟨fun e mems p hr => ⟨?_, fun hrow => ?_⟩, fun f hf => ?_⟩
    · rintro hrow t rfl ht
      rw [exec_mldv x q a b s hb ha, hr, ok_bind]
      exact (congrArg (issue s) (if_neg (Nat.not_le.2 hrow))).trans (issue_ok _ _ ht)
    · rw [raises, exec_mldv x q a b s hb ha, hr, ok_bind]
      exact congrArg (issue s) (if_pos hrow)
    · rw [raises, exec_mldv x q a b s hb ha, hf, error_bind, issue_error]
  case rowsOut =>
    rintro x q a b s _ _ rfl rfl hb
    refine ⟨fun ds hw => ⟨?_, fun hrow => ?_⟩, fun f hf => ?_⟩
    · rintro hrow t rfl ht
      rw [exec_mstv x a q b s hb, hw, ok_bind]
      exact (congrArg (issue s) (if_neg (Nat.not_le.2 hrow))).trans (issue_ok _ _ ht)
    · rw [raises, exec_mstv x a q b s hb, hw, ok_bind]
      exact congrArg (issue s) (if_pos hrow)
    · rw [raises, exec_mstv x a q b s hb, hf, error_bind, issue_error]
  case zeros =>
    rintro q s _ rfl
    refine ⟨fun h0 => ?_, fun h0 hs => ?_⟩
    · rw [raises, exec_mzero]
      exact congrArg (issue s) (if_pos h0)
    · rw [exec_mzero]
      exact (congrArg (issue s) (if_neg h0)).trans (issue_ok _ _ (Nat.le_trans (Nat.le_of_eq (flying_zeroing s _)) hs))
  case status =>
    refine fun d sel s => ⟨fun h => ?_, ?_⟩
    · rw [raises, exec_mstat, if_pos h, issue_error]
    · rintro _ rfl hk ht
      rw [← mxWord_eq] at ht ⊢
      rw [exec_mstat, if_neg (Nat.not_lt.2 hk), issue_ok _ _ ht]

end Sys2Proof.Machine
end

section
/-! PROOFS. Rounding to a float format and the codes of the format (R97 to R99, R103): a finite magnitude code is a significand and a count of
binades above the subnormals, the value it stands for is within the format's range, and rounding that value forms the same code again. -/

namespace Sys2Proof.Machine

/-! ### significands of a format (R97, R98) -/

/-- A significand m that a code of the format holds k binades above the lowest: at most `mant + 1` bits wide, and that wide unless the
binade is the lowest, which subnormals share with the smallest normal numbers. -/
def FFmt.Holds (f : FFmt) (m k : Nat) : Prop := m < 2 ^ (f.mant + 1) ∧ (k = 0 ∨ 2 ^ f.mant ≤ m)

/-- The magnitude code of that significand. -/
def FFmt.code (f : FFmt) (m k : Nat) : Nat := k * 2 ^ f.mant + m

/-- The finite magnitude codes are those of a significand, and the value of a code is its significand in its binade. -/
theorem decF_finite (f : FFmt) (code : Nat) (h : code % 2 ^ (f.bits - 1) ≤ f.top) :
    ∃ m k : Nat, f.Holds m k ∧ f.code m k = code % 2 ^ (f.bits - 1) ∧
      decF f code = .fin (code / 2 ^ (f.bits - 1) % 2 == 1) m (f.emin + k) := by
  unfold decF
  generalize code % 2 ^ (f.bits - 1) = mag at h ⊢
  have hM : mag % 2 ^ f.mant < 2 ^ f.mant := Nat.mod_lt _ (Nat.two_pow_pos _)
  have hmag : mag / 2 ^ f.mant * 2 ^ f.mant + mag % 2 ^ f.mant = mag := Nat.div_add_mod' ..
  rw [if_neg (Nat.not_lt.2 h)]
  rcases hE : mag / 2 ^ f.mant with _ | k
  case zero =>
    refine ⟨mag % 2 ^ f.mant, 0, ⟨by omega, .inl rfl⟩, ?_, ?_⟩
    · rw [hE] at hmag
      exact hmag
    · rw [if_pos rfl, Int.natCast_zero, Int.add_zero]
  case succ =>
    refine ⟨2 ^ f.mant + mag % 2 ^ f.mant, k, ⟨by omega, .inr (Nat.le_add_right ..)⟩, ?_, ?_⟩
    · rw [hE, Nat.succ_mul] at hmag
      rw [FFmt.code]
      omega
    · rw [if_neg (Nat.succ_ne_zero k), FFmt.emin]
      congr 1
      omega

/-- A magnitude code above the largest finite one is the infinity, if the format has one, or a NaN. -/
theorem decF_above (f : FFmt) (code : Nat) (h : f.top < code % 2 ^ (f.bits - 1)) :
    decF f code = .nan ∨ code % 2 ^ (f.bits - 1) = f.top + 1 ∧ decF f code = .inf (code / 2 ^ (f.bits - 1) % 2 == 1) := by
  unfold decF
  rw [if_pos h]
  split
  next hi => exact .inr ⟨eq_of_beq (Bool.and_eq_true_iff.1 hi).2, rfl⟩
  next => exact .inl rfl

/-- A code is its sign and its magnitude code. -/
theorem withSign_split (f : FFmt) (code : Nat) (hb : 0 < f.bits) (h : code < 2 ^ f.bits) :
    withSign f (code / 2 ^ (f.bits - 1) % 2 == 1) (code % 2 ^ (f.bits - 1)) = code := by
  have hd : code / 2 ^ (f.bits - 1) < 2 := by
    rw [Nat.div_lt_iff_lt_mul (Nat.two_pow_pos _), ← Nat.pow_succ', Nat.succ_eq_add_one, Nat.sub_add_cancel hb]
    exact h
  have hs : bnat (code / 2 ^ (f.bits - 1) % 2 == 1) = code / 2 ^ (f.bits - 1) := by
    rcases Nat.le_one_iff_eq_zero_or_eq_one.1 (Nat.le_of_lt_succ hd) with h0 | h1
    · rw [h0]; rfl
    · rw [h1]; rfl
  rw [withSign, hs]
  exact Nat.div_add_mod' ..

/-! ### rounding what a format holds (R103) -/

/-- The unit in the last place of a significand that a format holds is the unit of its binade. -/
theorem FFmt.Holds.quantum {f : FFmt} {m k : Nat} (h : f.Holds m k) (hm : m ≠ 0) :
    max (f.emin + k + ((m.log2 : Int) + 1) - (f.mant + 1)) f.emin = f.emin + k := by
  obtain ⟨hlt, hk⟩ := h
  have hu : m.log2 < f.mant + 1 := (Nat.log2_lt hm).2 hlt
  rcases hk with rfl | hn
  · omega
  · have hl : f.mant ≤ m.log2 := (Nat.le_log2 hm).2 hn
    omega

/-- Rounding drops no bit of a significand that the format holds: it forms the significand's code, in every mode. -/
theorem rawCode_holds (f : FFmt) (rm : Nat) (neg : Bool) (m k : Nat) (h : f.Holds m k) (hm : m ≠ 0) :
    rawCode f rm neg m (f.emin + k) = f.code m k := by
  have hk : (f.emin + k - f.emin).toNat = k := by omega
  have hz : (f.emin + k - (f.emin + k)).toNat = 0 := by omega
  simp only [rawCode, h.quantum hm, hk, hz, Int.le_refl, if_true, Nat.pow_zero, Nat.mul_one, FFmt.code]

/-- Values of significands that a format holds are in the order of their codes. -/
theorem leDy_of_code_le (f : FFmt) (m k n l : Nat) (hm : f.Holds m k) (hn : f.Holds n l) (h : f.code m k ≤ f.code n l) :
    leDy m (f.emin + k) n (f.emin + l) = true := by
  obtain ⟨hlt, hk⟩ := hm
  obtain ⟨hlt', hl⟩ := hn
  simp only [FFmt.code] at h
  rw [Nat.pow_succ] at hlt hlt'
  have hkl : k ≤ l := by
    refine Nat.le_of_not_lt fun hlk => ?_
    have hs : (l + 1) * 2 ^ f.mant ≤ k * 2 ^ f.mant := Nat.mul_le_mul_right _ hlk
    rw [Nat.succ_mul] at hs
    omega
  obtain ⟨i, rfl⟩ := Nat.exists_eq_add_of_le hkl
  have hmin : min (f.emin + k) (f.emin + (k + i : Nat)) = f.emin + k := by omega
  have hi : (f.emin + (k + i : Nat) - (f.emin + k)).toNat = i := by omega
  simp only [leDy, scaleTo, hmin, hi, Int.sub_self, Int.toNat_zero, Nat.pow_zero, Nat.mul_one, decide_eq_true_eq]
  rcases i with _ | i
  case zero => simpa only [Nat.add_zero, Nat.pow_zero, Nat.mul_one, Nat.add_le_add_iff_left] using h
  case succ =>
    calc m ≤ 2 ^ f.mant * 2 := Nat.le_of_lt hlt
      _ ≤ n * 2 ^ (i + 1) :=
        Nat.mul_le_mul (hl.resolve_left (Nat.succ_ne_zero _)) (Nat.le_pow (Nat.succ_pos i))

/-- The largest finite value of a format that has normal numbers is one that the format holds. -/
theorem topM_holds (f : FFmt) (h : 2 ^ f.mant ≤ f.top) :
    ∃ l : Nat, f.Holds f.topM l ∧ f.code f.topM l = f.top ∧ f.topE = f.emin + l := by
  have hM : f.top % 2 ^ f.mant < 2 ^ f.mant := Nat.mod_lt _ (Nat.two_pow_pos _)
  have htop : f.top / 2 ^ f.mant * 2 ^ f.mant + f.top % 2 ^ f.mant = f.top := Nat.div_add_mod' ..
  obtain ⟨l, hl⟩ := Nat.exists_eq_add_one_of_ne_zero (Nat.ne_of_gt (Nat.div_pos h (Nat.two_pow_pos _)))
  rw [hl, Nat.succ_mul] at htop
  refine ⟨l, ⟨?_, .inr (Nat.le_add_right ..)⟩, ?_, ?_⟩
  · rw [FFmt.topM]; omega
  · rw [FFmt.code, FFmt.topM]; omega
  · have : ((f.top : Int) / 2 ^ f.mant) = l + 1 := by exact_mod_cast hl
    rw [FFmt.topE, FFmt.emin]
    omega

/-- A value that a format holds, up to its largest, rounds to its own magnitude code. -/
theorem rndMag_holds (f : FFmt) (rm : Nat) (neg : Bool) (m k : Nat) (hf : 2 ^ f.mant ≤ f.top) (h : f.Holds m k) (hm : m ≠ 0)
    (ht : f.code m k ≤ f.top) : rndMag f rm neg m (f.emin + k) = some (f.code m k) := by
  obtain ⟨l, hl, hc, he⟩ := topM_holds f hf
  have hle : leDy m (f.emin + k) f.topM f.topE = true := by
    rw [he]
    exact leDy_of_code_le f m k f.topM l h hl (hc ▸ ht)
  rw [← rawCode_holds f rm neg m k h hm]
  exact if_pos hle

/-- A value that a format holds, a zero included, rounds to the code of its sign and magnitude. -/
theorem encF_holds (f : FFmt) (rm : Nat) (neg : Bool) (m k : Nat) (hf : 2 ^ f.mant ≤ f.top) (h : f.Holds m k)
    (ht : f.code m k ≤ f.top) : encF f rm (.fin neg m (f.emin + k)) = withSign f neg (f.code m k) := by
  rcases m with _ | m
  case zero =>
    obtain rfl : k = 0 := h.2.resolve_right (Nat.not_le.2 (Nat.two_pow_pos _))
    simp only [encF, FFmt.code, Nat.zero_mul, Nat.add_zero]
  case succ => simp only [encF, rndMag_holds f rm neg (m + 1) k hf h (Nat.succ_ne_zero m) ht, Option.getD_some]

/-- Rounding the value of a code gives the code, or the canonical NaN for a NaN, in every format that has a sign and normal numbers. -/
theorem encF_decF (f : FFmt) (rm code : Nat) (hb : 0 < f.bits) (hf : 2 ^ f.mant ≤ f.top) (h : code < 2 ^ f.bits) :
    encF f rm (decF f code) = if (decF f code).isNan then f.nan else code := by
  rcases Nat.lt_or_ge f.top (code % 2 ^ (f.bits - 1)) with ha | ht
  case inl =>
    rcases decF_above f code ha with hn | ⟨hmag, hi⟩
    · rw [hn]; rfl
    · rw [hi]
      exact (congrArg (withSign f _) hmag.symm).trans (withSign_split f code hb h)
  case inr =>
    obtain ⟨m, k, hh, hc, hd⟩ := decF_finite f code ht
    rw [hd, encF_holds f rm _ m k hf hh (hc ▸ ht), hc, withSign_split f code hb h]
    rfl

/-- The float formats of R97 have a sign and normal numbers. -/
theorem ffmt_normal (c : Nat) : 0 < (ffmt c).bits ∧ 2 ^ (ffmt c).mant ≤ (ffmt c).top := by
  unfold ffmt
  split <;> decide

/-- Settles O37: the formats' codes are significands in binades, and rounding forms the code of each anew. -/
theorem roundingKeepsCodes : Obligations.RoundingKeepsCodes := by
  intro c code rm _ hcode _
  exact encF_decF (ffmt c) rm code (ffmt_normal c).1 (ffmt_normal c).2 hcode

end Sys2Proof.Machine
end

section
/-! PROOFS. Taking an exception (R373 to R378, R382): the record that a freeze makes of a context, the registers that an event and the return from
its handler set, and the two answers of the queue. -/

namespace Sys2Proof.Machine

/-! ### freezing a region (R375, R377) -/

/-- The record of a context in a freeze: KIND 1 of the first fault charged to it, else KIND 2. -/
def FreezeRec.of (fs : List (Nat × Nat × Exc × Bool)) (q : Nat × Nat) : FreezeRec :=
  match fs.find? fun f => f.1 == q.1 && f.2.1 == q.2 with
  | some f => { core := q.1, ctx := q.2, kind := 1, trapc := BitVec.ofNat 8 f.2.2.1.cause, trapi := f.2.2.1.info, act := none,
                done := false, byBundle := f.2.2.2 }
  | none => { core := q.1, ctx := q.2, kind := 2, trapc := 0, trapi := 0, act := none, done := false, byBundle := false }

/-- A freeze changes its region alone: it stops, and every context that holds a task gets its record. -/
theorem Mach.freeze_eq (m : Mach) (r : Nat) (fs : List (Nat × Nat × Exc × Bool)) :
    m.freeze r fs = m.modRegion r fun g =>
      { g with frozen := true, fcyc := g.count, recs := (m.held r).map (FreezeRec.of fs), recsAt := some (m.pclk + 31) } := rfl

/-- A record names the context that it is of. -/
theorem FreezeRec.of_ctx (fs : List (Nat × Nat × Exc × Bool)) (q : Nat × Nat) :
    ((FreezeRec.of fs q).core, (FreezeRec.of fs q).ctx) = q := by
  unfold FreezeRec.of
  split <;> rfl

/-- Of a freeze's records, either a fault is charged to the record's context, and it takes that fault's cause and word, or none is. -/
theorem FreezeRec.cases_of_mem (l : List (Nat × Nat)) (fs : List (Nat × Nat × Exc × Bool)) (g : FreezeRec)
    (hg : g ∈ l.map (FreezeRec.of fs)) :
    (g.kind = 1 ∧ ∃ f ∈ fs, f.1 = g.core ∧ f.2.1 = g.ctx ∧ g.trapc = BitVec.ofNat 8 f.2.2.1.cause ∧ g.trapi = f.2.2.1.info) ∨
    (g.kind = 2 ∧ ∀ f ∈ fs, f.1 = g.core → f.2.1 ≠ g.ctx) := by
  obtain ⟨q, _, rfl⟩ := List.mem_map.1 hg
  unfold FreezeRec.of
  split
  next f hf =>
    obtain ⟨hcore, hctx⟩ : f.1 = q.1 ∧ f.2.1 = q.2 := by simpa using List.find?_some hf
    exact .inl ⟨rfl, f, List.mem_of_find?_eq_some hf, hcore, hctx, rfl, rfl⟩
  next hnone => exact .inr ⟨rfl, by simpa using hnone⟩

/-! ### taking an event and returning (R154, R382) -/

/-- The fields of EVO (R381) fill its 22 bits without overlap, so that the register holds the word formed of them. -/
theorem evo_bounded (e : Event) :
    bnat e.rwf * 2 ^ 21 + bnat e.frz * 2 ^ 20 + e.region % 16 * 2 ^ 16 + e.ctx % 8 * 2 ^ 9 + e.core % 512 < 2 ^ 22 := by
  have hb : ∀ b : Bool, bnat b ≤ 1 := by decide
  have := hb e.rwf
  have := hb e.frz
  omega

/-- The return takes bits 15 to 2 of EPC (R154; log 183): the multiple of 4 at or below it. -/
theorem toNat_and_FFFC (x : BitVec 16) : (x &&& 0xFFFC#16).toNat = x.toNat / 4 * 4 := by
  have hmod : (x.toNat &&& 0xFFFC) % 2 ^ 2 = 0 := Nat.and_mod_two_pow.trans (Nat.and_zero _)
  have hdiv : (x.toNat &&& 0xFFFC) / 2 ^ 2 = x.toNat / 4 := by
    rw [Nat.and_div_two_pow]
    exact (Nat.and_two_pow_sub_one_eq_mod _ 14).trans (Nat.mod_eq_of_lt (by omega))
  show x.toNat &&& 0xFFFC = _
  omega

/-- The control context that takes an event: at the handler, with the event's cause and word. -/
theorem Mach.takeEvent_ctx (m : Mach) (k : Nat) (e : Event) :
    (m.takeEvent k e).ctx (384 + k) 0 =
      { m.ctx (384 + k) 0 with pc := (m.pair k).hvec, trapc := BitVec.ofNat 8 e.cause, trapi := e.info, run := .at (m.pclk + 3) } := by
  simp [Mach.takeEvent]

/-- The pair that takes an event: EPC, EVO and the mark of the handler. -/
theorem Mach.takeEvent_pair (m : Mach) (k : Nat) (e : Event) :
    (m.takeEvent k e).pair k =
      { m.pair k with
        epc := (m.ctx (384 + k) 0).pc
        handler := true
        evo := BitVec.ofNat 22 (bnat e.rwf * 2 ^ 21 + bnat e.frz * 2 ^ 20 + e.region % 16 * 2 ^ 16 + e.ctx % 8 * 2 ^ 9 + e.core % 512) } := by
  simp [Mach.takeEvent]

theorem Mach.returnEvent_ctx (m : Mach) (k : Nat) :
    (m.returnEvent k).ctx (384 + k) 0 = { m.ctx (384 + k) 0 with pc := (m.pair k).epc &&& 0xFFFC#16, trapc := 0, trapi := 0 } := by
  simp [Mach.returnEvent]

theorem Mach.returnEvent_pair (m : Mach) (k : Nat) : (m.returnEvent k).pair k = { m.pair k with handler := false } := by
  simp [Mach.returnEvent]

/-! ### the queue of events (R373, R382) -/

theorem Mach.post_queued (m : Mach) (k : Nat) (e : Event) (h : (m.pair k).evs.length < 64) :
    (m.post k e).pair k = { m.pair k with evs := (m.pair k).evs ++ [e] } := by
  simp [Mach.post, h]

theorem Mach.post_dropped (m : Mach) (k : Nat) (e : Event) (h : 64 ≤ (m.pair k).evs.length) :
    (m.post k e).pair k = { m.pair k with ovf := true } := by
  simp [Mach.post, Nat.not_lt.2 h]

/-! ### the statement -/

/-- Settles O52: each clause reads its fields off the equation of its operation; the KIND of a record says which case of `FreezeRec.cases_of_mem` it is. -/
theorem exceptionsTaken : Obligations.ExceptionsTaken := by
  unfold Obligations.ExceptionsTaken
  refine ⟨?freezes, ?takes, ?returns, ?queues⟩
  case freezes =>
    rintro m r fs _ rfl
    rw [Mach.freeze_eq, Mach.modRegion_region_self]
    refine ⟨rfl, rfl, rfl, ?_, ?_, ?_, ?_, rfl, rfl⟩
    · simp only [List.map_map, Function.comp_def, FreezeRec.of_ctx, List.map_id']
    · exact fun g hg => (FreezeRec.cases_of_mem _ fs g hg).imp And.left And.left
    · exact fun g hg h2 => ((FreezeRec.cases_of_mem _ fs g hg).resolve_left fun ⟨h1, _⟩ => by omega).2
    · exact fun g hg h1 => ((FreezeRec.cases_of_mem _ fs g hg).resolve_right fun ⟨h2, _⟩ => by omega).2
  case takes =>
    rintro m k e _ _ rfl rfl
    rw [Mach.takeEvent_ctx, Mach.takeEvent_pair]
    exact ⟨rfl, rfl, rfl, rfl, rfl, rfl, (BitVec.toNat_ofNat ..).trans (Nat.mod_eq_of_lt (evo_bounded e))⟩
  case returns =>
    intro m k
    rw [Mach.returnEvent_ctx, Mach.returnEvent_pair]
    exact ⟨toNat_and_FFFC _, rfl, rfl, rfl⟩
  case queues =>
    intro m k e
    refine ⟨fun hroom => ?_, fun hfull => ?_⟩
    · rw [Mach.post_queued m k e hroom]
      exact ⟨rfl, rfl⟩
    · rw [Mach.post_dropped m k e hfull]
      exact ⟨rfl, rfl⟩

end Sys2Proof.Machine
end

section
/-! PROOFS. What a step runs outside the slots of a cycle: what is owed comes first, an event from outside only between cycles (log 3, 4). -/

namespace Sys2Proof.Machine

/-! ### which step is taken -/

theorem State.cycleStep_of_owed {s : State} {o : Owed} {os : List Owed} (htodo : s.todo = o :: os) :
    s.cycleStep = some (thenNext (runOwed o { s with todo := os }) State.sync) := by
  simp only [State.cycleStep, htodo]

theorem State.cycleStep_between_cycles {s : State} (htodo : s.todo = []) (hopen : s.turn.open_ = false) (hbegun : s.turn.begun = false) :
    s.cycleStep = none := by
  simp [State.cycleStep, htodo, hopen, hbegun]

theorem step_of_owed {s : State} {o : Owed} {os : List Owed} (htodo : s.todo = o :: os) :
    step s = thenNext (runOwed o { s with todo := os }) State.sync := by
  simp only [step, State.cycleStep_of_owed htodo]

theorem step_between_cycles {s : State} (htodo : s.todo = []) (hopen : s.turn.open_ = false) (hbegun : s.turn.begun = false) :
    step s = stepIdle s := by
  simp [step, State.cycleStep_between_cycles htodo hopen hbegun, hopen]

theorem stepIdle_of_event {s : State} {d : Due} {i : Instr} (hout : s.outside = some (d, i)) (hev : isEvent i = true) :
    stepIdle s = thenNext (exec i { s with agenda := s.agenda.erase (d, i) }) State.sync := by
  simp [stepIdle, hout, hev]

/-! ### the statement -/

/-- Settles O5: a step owed is the cycle's step, between cycles the event due is the idle step, and `runOwed` gives each owed step of a row the
meaning that `exec` gives that row. -/
theorem stepRunsEvents : Obligations.StepRunsEvents := by
  unfold Obligations.StepRunsEvents
  refine ⟨?owed, ?outside, ?rows⟩
  case owed => exact fun _ _ _ htodo => step_of_owed htodo
  case outside =>
    intro s d i htodo hopen hbegun hout hev
    calc step s = stepIdle s := step_between_cycles htodo hopen hbegun
      _ = thenNext (exec i { s with agenda := s.agenda.erase (d, i) }) State.sync := stepIdle_of_event hout hev
  case rows =>
    intros
    and_intros <;> rfl

end Sys2Proof.Machine
end
